-- ==== Sys2Proof/Word.lean ====
section
/-! DEFINITION. The words of the machine: bytes, 32-bit thread registers, 64-bit addresses. -/

namespace Sys2Proof

/-- A byte of memory. -/
abbrev Byte := BitVec 8

/-- A thread register (R59). -/
abbrev W32 := BitVec 32

/-- A register pair, an address (R59, R263). -/
abbrev W64 := BitVec 64

end Sys2Proof
end

