-- ==== Sys2Proof/Config.lean ====
section
/-! DEFINITION. What the part's making fixes and what the spec leaves open, as uninterpreted constants: a
statement about any of them holds whatever its value is (log 5 to 10). No constant has a body. -/

namespace Sys2Proof.Config

/-- Content of storage the spec leaves undefined: byte `key` of the piece numbered `seed` (R114, R200, R201,
R286; log 6). -/
opaque undefByte (seed key : Nat) : Byte

/-- A register the spec leaves undefined, such as TCn at placement (R287; log 6). -/
opaque undefWord (seed key : Nat) : W32

/-- An unstated 32-bit value (log 5). -/
opaque freeWord (n : Nat) : W32

/-- An unstated choice (log 5). -/
opaque freeChoice (n : Nat) : Bool

/-- An unstated number (log 5). -/
opaque freeNat (n : Nat) : Nat

/-- The error of element (i, j) of a tile product as VM formed it, for pass `n`: an integer multiple of the
product's own quantum; nothing says it is 0 (R295; log 7). -/
opaque vmError (n i j : Nat) : Int

/-- Whether a cached translation is still held when it is looked for (R267 gives no capacity; log 11). -/
opaque tlbHeld (n : Nat) : Bool

/-- Whether an L1 sector is still held when it is looked for (R199; log 12). -/
opaque l1Held (n : Nat) : Bool

/-- The L2 slice that homes a 128-byte line, 0 to 63 after reduction (R219; log 13). -/
opaque slice (line : Nat) : Nat

/-- The port hash of R335 over a 256-byte block and a mask of usable ports (log 19). -/
opaque portHash (block mask : Nat) : Nat

/-- SHA-256 of some bytes (R367, R369; log 8). -/
opaque sha256 (bs : List Byte) : BitVec 256

/-- RSASSA-PSS verification with the parameters of R366: modulus, signature, message (log 8). -/
opaque pssVerify (modulus sig msg : List Byte) : Bool

/-- RSASSA-PSS signature with the identity key, 384 bytes (R369; log 8). -/
opaque pssSign (msg : List Byte) (n : Nat) : Fin 384 → Byte

/-- Fused values (R119, R321, R366, R369, R370; log 9). -/
opaque vmFloor (cluster : Nat) : Nat
opaque keyHash : BitVec 256
opaque minSvn : BitVec 32
opaque romDigest : BitVec 256
opaque fuseDigest : BitVec 256
opaque serial : BitVec 64
opaque certBytes : Nat
opaque certByte (n : Nat) : Byte

/-- CERTLEN: 1 to 4,096 (R370). -/
def certLen : Nat := 1 + certBytes % 4096

/-- The order of the clusters by fused rank as choices: the `n`-th cluster in it, among those left (R119). -/
opaque rankCode (n : Nat) : Nat

/-- The order of the cores by diagnostic number, as choices in the same form (R3). -/
opaque coreCode (n : Nat) : Nat

/-- An order of `n` things as `code` chooses each among those left. -/
def orderBy (code : Nat → Nat) : (n : Nat) → List Nat → List Nat
  | 0, _ => []
  | n + 1, left =>
    let c := left.getD (code n % left.length) 0
    c :: orderBy code n (left.filter (· != c))

/-- The rank of a cluster: 0 to 127, unique within the package (R119). -/
def clusterRank (cluster : Nat) : Nat := (orderBy rankCode 128 (List.range 128)).idxOf cluster

/-- The diagnostic number of a core, 0 to 1,023 (R3, R89, R372). The spec does not say which number each core of a cluster
bears, so the model names a core by its place (die, cluster, place in it) and leaves the number open (DESIGN CHOICE, log 9). -/
def coreNumber (core : Nat) : Nat := (orderBy coreCode 1024 (List.range 1024)).idxOf core

/-- The core that bears a diagnostic number. -/
def coreOf (number : Nat) : Nat := (orderBy coreCode 1024 (List.range 1024)).getD number 0

/-- The current cap of a phase group as fused, for the nominal points (R319, R330; log 9). -/
opaque phaseCap (die group : Nat) : Nat

/-- What a neighbour draws from a phase group when a wake looks at it (R331; log 10). -/
opaque drawn (n cluster group : Nat) : Nat

/-- Which of the firmware window's 512 places of 128 KiB holds a cluster's event queue (R107). -/
opaque eventSlot (cluster : Nat) : Nat

/-- Sensed or averaged values in a current record: die, ms, field (R328; log 10). -/
opaque sensed (die ms field : Nat) : Nat

/-- Queue latencies and other measured fields of a spoor record (R355; log 10). -/
opaque latency (n field : Nat) : W32

/-- Whether slots of a cluster are withheld for current in a cycle (R327; log 10). -/
opaque withheld (n : Nat) : Bool

/-- Whether the code word a slot's entry stands at is there when the slot selects it: the spec gives a fetch no length (R348;
log 10). -/
opaque fetched (n : Nat) : Bool

/-- Bytes that a peer or a host returns to a read whose response does not say (log 19). -/
opaque remoteByte (n key : Nat) : Byte

end Sys2Proof.Config
end

