-- ==== Sys2Proof/Syntax.lean ====
section
/-! DEFINITION. The instructions and device events of the CG980: one constructor per row of
`spec/opcode_table.json`. A word's fields keep the width `02_encoding.md` gives them; `Instr.illegal`
(WellFormed) says which values a word may hold. An event's operands name the object it happens to. -/

namespace Sys2Proof

/-- Who makes a request of the register page or of memory (R371, R372). -/
inductive Master where
  | host (port : Fin 2)
  | core (n : Fin 1024)
  | engine (cluster : Fin 128)
  | scc (cluster : Fin 128)
  | management
  | link (n : Fin 32)
  deriving DecidableEq, Repr

/-- The PCI Express AtomicOps a host port completes, and the 128-bit CAS, which it does not (R343). -/
inductive PcieOp where
  | fetchAdd | swap | cas | cas128
  deriving DecidableEq, Repr

/-- What a host's write carries: its bytes and its Relaxed Ordering bit (R343). -/
structure PcieWrite where
  data : List (BitVec 8)
  relaxed : Bool
  deriving DecidableEq, Repr

/-- What a peer asks of this package (R332, R342). -/
inductive PeerOp where
  | read (addr : Nat) (n : Nat)
  | write (addr : Nat) (data : List (BitVec 8))
  | atomic (op : BitVec 4) (addr : Nat) (x : BitVec 64) (y : BitVec 64)
  deriving DecidableEq, Repr

/-- A peer's request as its flit brings it (R332, R337): the flit's sequence number, whether it came whole by its CRC, the
peer's own number of the request, which the response names, and what it asks. -/
structure PeerReq where
  seq : Nat
  whole : Bool
  req : Nat
  op : PeerOp
  deriving DecidableEq, Repr

/-- The end of a tile operation or an engine command: its number, what it meets on its way as a level code of R204 (0: nothing;
with bit 7 set, an error that was corrected), and the element or row at which it meets it. -/
structure Ending where
  id : Nat
  damage : BitVec 8
  place : Nat
  deriving DecidableEq, Repr

/-- What a received flit brings (R337, R340): an acknowledgement that ends a replay or not, a bad CRC of a
resent flit, or the response to a request of this package. -/
inductive Flit where
  | ack (last : Nat)
  | badCrc
  | sent
  | response (seq : Nat) (whole : Bool) (req : Nat) (data : List (BitVec 8))
  | refused (seq : Nat) (whole : Bool) (req : Nat)
  | damaged (seq : Nat) (whole : Bool) (req : Nat)
  | errorStatus (seq : Nat) (whole : Bool) (req : Nat)
  deriving DecidableEq, Repr

/-- The instructions (rows 0 to 193 of the opcode table) and the device's operations and events (rows 194 to
292; those the device brings about by itself stand first). Each constructor's comment gives the row's rule and
its one-line meaning. -/
inductive Instr where
  /-- R147. No effect in a clause of any class. -/
  | nop
  /-- R148. Copies X[A] to X[D] under a guard. -/
  | mov (d : BitVec 6) (a : BitVec 6) (g : BitVec 6)
  /-- R148. Writes the sign-extended 18-bit immediate to X[D]. -/
  | movi (d : BitVec 6) (i : BitVec 18)
  /-- R148. Replaces the upper 14 bits of X[D] with the immediate. -/
  | movhi (d : BitVec 6) (i : BitVec 18)
  /-- R148. Writes a signed 50-bit constant, taken from the word and its extension word, to a register pair. -/
  | movx (d : BitVec 6) (i : BitVec 18) (x : BitVec 32)
  /-- R149. Selects X[A] or X[B] by a guard-coded predicate. -/
  | sel (d : BitVec 6) (a : BitVec 6) (b : BitVec 6) (c : BitVec 6)
  /-- R166. Reads a special register into X[D], latching PTIMEH on a read of PTIME. -/
  | srd (d : BitVec 6) (s : BitVec 12)
  /-- R167. Writes X[A] to a writable special register at the end of the cycle of issue. -/
  | swr (a : BitVec 6) (s : BitVec 12)
  /-- R150. Adds two registers modulo 2^32. -/
  | add (d : BitVec 6) (a : BitVec 6) (b : BitVec 6) (g : BitVec 6)
  /-- R150. Subtracts two registers modulo 2^32. -/
  | sub (d : BitVec 6) (a : BitVec 6) (b : BitVec 6) (g : BitVec 6)
  /-- R153. Adds a sign-extended 12-bit immediate. -/
  | addi (d : BitVec 6) (a : BitVec 6) (i : BitVec 12)
  /-- R153. Adds two registers and a carry predicate, writing the carry out to that predicate. -/
  | addc (d : BitVec 6) (a : BitVec 6) (b : BitVec 6) (c : BitVec 5)
  /-- R150. Signed saturating addition. -/
  | addSatS32 (d : BitVec 6) (a : BitVec 6) (b : BitVec 6) (g : BitVec 6)
  /-- R150. Unsigned saturating addition. -/
  | addSatZ32 (d : BitVec 6) (a : BitVec 6) (b : BitVec 6) (g : BitVec 6)
  /-- R150. Signed saturating subtraction. -/
  | subSatS32 (d : BitVec 6) (a : BitVec 6) (b : BitVec 6) (g : BitVec 6)
  /-- R150. Unsigned saturating subtraction. -/
  | subSatZ32 (d : BitVec 6) (a : BitVec 6) (b : BitVec 6) (g : BitVec 6)
  /-- R150. Low 32 bits of a product. -/
  | mul (d : BitVec 6) (a : BitVec 6) (b : BitVec 6) (g : BitVec 6)
  /-- R150. High 32 bits of a signed product. -/
  | mulhS32 (d : BitVec 6) (a : BitVec 6) (b : BitVec 6) (g : BitVec 6)
  /-- R150. High 32 bits of an unsigned product. -/
  | mulhZ32 (d : BitVec 6) (a : BitVec 6) (b : BitVec 6) (g : BitVec 6)
  /-- R151. Multiplies and adds modulo 2^32. -/
  | mad (d : BitVec 6) (a : BitVec 6) (b : BitVec 6) (c : BitVec 6)
  /-- R151. Writes the full signed 64-bit product to a register pair. -/
  | mulwS32 (d : BitVec 6) (a : BitVec 6) (b : BitVec 6) (g : BitVec 6)
  /-- R151. Writes the full unsigned 64-bit product to a register pair. -/
  | mulwZ32 (d : BitVec 6) (a : BitVec 6) (b : BitVec 6) (g : BitVec 6)
  /-- R152. Signed division truncating toward zero; a zero divisor raises DIVIDE_ZERO. -/
  | divS32 (d : BitVec 6) (a : BitVec 6) (b : BitVec 6) (g : BitVec 6)
  /-- R152. Unsigned division; a zero divisor raises DIVIDE_ZERO. -/
  | divZ32 (d : BitVec 6) (a : BitVec 6) (b : BitVec 6) (g : BitVec 6)
  /-- R152. Signed remainder with the sign of the dividend. -/
  | remS32 (d : BitVec 6) (a : BitVec 6) (b : BitVec 6) (g : BitVec 6)
  /-- R152. Unsigned remainder. -/
  | remZ32 (d : BitVec 6) (a : BitVec 6) (b : BitVec 6) (g : BitVec 6)
  /-- R150. Signed minimum. -/
  | minS32 (d : BitVec 6) (a : BitVec 6) (b : BitVec 6) (g : BitVec 6)
  /-- R150. Unsigned minimum. -/
  | minZ32 (d : BitVec 6) (a : BitVec 6) (b : BitVec 6) (g : BitVec 6)
  /-- R150. Signed maximum. -/
  | maxS32 (d : BitVec 6) (a : BitVec 6) (b : BitVec 6) (g : BitVec 6)
  /-- R150. Unsigned maximum. -/
  | maxZ32 (d : BitVec 6) (a : BitVec 6) (b : BitVec 6) (g : BitVec 6)
  /-- R150. Signed absolute value. -/
  | absS32 (d : BitVec 6) (a : BitVec 6) (g : BitVec 6)
  /-- R150. Two's-complement negation. -/
  | neg (d : BitVec 6) (a : BitVec 6) (g : BitVec 6)
  /-- R156. Bitwise and. -/
  | and (d : BitVec 6) (a : BitVec 6) (b : BitVec 6) (g : BitVec 6)
  /-- R156. Bitwise or. -/
  | or (d : BitVec 6) (a : BitVec 6) (b : BitVec 6) (g : BitVec 6)
  /-- R156. Bitwise exclusive or. -/
  | xor (d : BitVec 6) (a : BitVec 6) (b : BitVec 6) (g : BitVec 6)
  /-- R156. A and not B. -/
  | andn (d : BitVec 6) (a : BitVec 6) (b : BitVec 6) (g : BitVec 6)
  /-- R156. Bitwise complement. -/
  | not (d : BitVec 6) (a : BitVec 6) (g : BitVec 6)
  /-- R156. And with a zero-extended immediate. -/
  | andi (d : BitVec 6) (a : BitVec 6) (i : BitVec 12)
  /-- R156. Or with a zero-extended immediate. -/
  | ori (d : BitVec 6) (a : BitVec 6) (i : BitVec 12)
  /-- R156. Exclusive or with a zero-extended immediate. -/
  | xori (d : BitVec 6) (a : BitVec 6) (i : BitVec 12)
  /-- R157. Shifts left by a register amount. -/
  | shl (d : BitVec 6) (a : BitVec 6) (b : BitVec 6) (g : BitVec 6)
  /-- R157. Shifts right logically by a register amount. -/
  | shr (d : BitVec 6) (a : BitVec 6) (b : BitVec 6) (g : BitVec 6)
  /-- R157. Shifts right arithmetically by a register amount. -/
  | sra (d : BitVec 6) (a : BitVec 6) (b : BitVec 6) (g : BitVec 6)
  /-- R157. Shifts left by an immediate amount. -/
  | shli (d : BitVec 6) (a : BitVec 6) (s : BitVec 5)
  /-- R157. Shifts right logically by an immediate amount. -/
  | shri (d : BitVec 6) (a : BitVec 6) (s : BitVec 5)
  /-- R157. Shifts right arithmetically by an immediate amount. -/
  | srai (d : BitVec 6) (a : BitVec 6) (s : BitVec 5)
  /-- R157. Rotates left by a register amount modulo 32. -/
  | rotl (d : BitVec 6) (a : BitVec 6) (b : BitVec 6) (g : BitVec 6)
  /-- R157. Rotates left by an immediate amount. -/
  | rotli (d : BitVec 6) (a : BitVec 6) (s : BitVec 5)
  /-- R158. Counts the 1 bits. -/
  | popc (d : BitVec 6) (a : BitVec 6) (g : BitVec 6)
  /-- R158. Counts the leading zero bits. -/
  | clz (d : BitVec 6) (a : BitVec 6) (g : BitVec 6)
  /-- R158. Reverses the bit order. -/
  | brev (d : BitVec 6) (a : BitVec 6) (g : BitVec 6)
  /-- R159. Extracts a bit field with sign extension. -/
  | bfxS (d : BitVec 6) (a : BitVec 6) (l : BitVec 5) (p : BitVec 5)
  /-- R159. Extracts a bit field with zero extension. -/
  | bfxZ (d : BitVec 6) (a : BitVec 6) (l : BitVec 5) (p : BitVec 5)
  /-- R159. Inserts the low bits of X[A] into a field of X[D]. -/
  | bfi (d : BitVec 6) (a : BitVec 6) (l : BitVec 5) (p : BitVec 5)
  /-- R155. Forms a 64-bit base plus a shifted signed index. -/
  | lea (d : BitVec 6) (a : BitVec 6) (b : BitVec 6) (n : BitVec 3)
  /-- R154. 64-bit addition of register pairs. -/
  | add64 (d : BitVec 6) (a : BitVec 6) (b : BitVec 6) (g : BitVec 6)
  /-- R154. 64-bit subtraction of register pairs. -/
  | sub64 (d : BitVec 6) (a : BitVec 6) (b : BitVec 6) (g : BitVec 6)
  /-- R154. Adds a sign-extended immediate to a pair. -/
  | addi64 (d : BitVec 6) (a : BitVec 6) (i : BitVec 12)
  /-- R154. Shifts a pair left by an immediate amount. -/
  | shl64i (d : BitVec 6) (a : BitVec 6) (n : BitVec 6)
  /-- R154. Shifts a pair right logically by an immediate amount. -/
  | shr64i (d : BitVec 6) (a : BitVec 6) (n : BitVec 6)
  /-- R160. Writes the total-order key of an F16 value. -/
  | fkeyF16 (d : BitVec 6) (a : BitVec 6) (g : BitVec 6)
  /-- R160. Writes the total-order key of an FP32 value. -/
  | fkeyF32 (d : BitVec 6) (a : BitVec 6) (g : BitVec 6)
  /-- R161. Signed 32-bit compare into a predicate. -/
  | cmpS32 (p : BitVec 6) (a : BitVec 6) (b : BitVec 6) (c : BitVec 3)
  /-- R161. Unsigned 32-bit compare into a predicate. -/
  | cmpZ32 (p : BitVec 6) (a : BitVec 6) (b : BitVec 6) (c : BitVec 3)
  /-- R161. Signed 64-bit compare of pairs into a predicate. -/
  | cmpS64 (p : BitVec 6) (a : BitVec 6) (b : BitVec 6) (c : BitVec 3)
  /-- R161. Unsigned 64-bit compare of pairs into a predicate. -/
  | cmpZ64 (p : BitVec 6) (a : BitVec 6) (b : BitVec 6) (c : BitVec 3)
  /-- R162. Signed compare with a 6-bit immediate. -/
  | cmpiS32 (p : BitVec 6) (a : BitVec 6) (i : BitVec 6) (c : BitVec 3)
  /-- R162. Unsigned compare with a 6-bit immediate. -/
  | cmpiZ32 (p : BitVec 6) (a : BitVec 6) (i : BitVec 6) (c : BitVec 3)
  /-- R163. Exact FP32 compare with unordered handling. -/
  | fcmpF32 (p : BitVec 6) (a : BitVec 6) (b : BitVec 6) (c : BitVec 3)
  /-- R163. Exact F16 compare of the low halves. -/
  | fcmpF16 (p : BitVec 6) (a : BitVec 6) (b : BitVec 6) (c : BitVec 3)
  /-- R164. Sets a predicate to a truth-table function of two predicates. -/
  | plog (d : BitVec 5) (a : BitVec 5) (b : BitVec 5) (t : BitVec 4)
  /-- R165. Moves all predicates to or from a register. -/
  | pmov (x : BitVec 6) (r : BitVec 1)
  /-- R195. Convergent vote or ballot of one predicate bit per lane. -/
  | vote (d : BitVec 6) (s : BitVec 6) (o : BitVec 2)
  /-- R179. FP32 addition rounded to nearest. -/
  | faddF32 (d : BitVec 6) (a : BitVec 6) (b : BitVec 6) (g : BitVec 6)
  /-- R179. FP32 subtraction rounded to nearest. -/
  | fsubF32 (d : BitVec 6) (a : BitVec 6) (b : BitVec 6) (g : BitVec 6)
  /-- R179. FP32 multiplication rounded to nearest. -/
  | fmulF32 (d : BitVec 6) (a : BitVec 6) (b : BitVec 6) (g : BitVec 6)
  /-- R179. Fused FP32 multiply-add rounded to nearest. -/
  | ffmaF32 (d : BitVec 6) (a : BitVec 6) (b : BitVec 6) (c : BitVec 6)
  /-- R181. FP32 minimum propagating NaN. -/
  | fminF32 (d : BitVec 6) (a : BitVec 6) (b : BitVec 6) (g : BitVec 6)
  /-- R181. FP32 maximum propagating NaN. -/
  | fmaxF32 (d : BitVec 6) (a : BitVec 6) (b : BitVec 6) (g : BitVec 6)
  /-- R183. Clears the sign bit. -/
  | fabsF32 (d : BitVec 6) (a : BitVec 6) (g : BitVec 6)
  /-- R183. Inverts the sign bit. -/
  | fnegF32 (d : BitVec 6) (a : BitVec 6) (g : BitVec 6)
  /-- R184. Correctly rounded reciprocal. -/
  | frcpF32 (d : BitVec 6) (a : BitVec 6) (g : BitVec 6)
  /-- R184. Correctly rounded reciprocal square root. -/
  | frsqF32 (d : BitVec 6) (a : BitVec 6) (g : BitVec 6)
  /-- R184. Correctly rounded square root. -/
  | fsqrtF32 (d : BitVec 6) (a : BitVec 6) (g : BitVec 6)
  /-- R184. Correctly rounded base-2 exponential. -/
  | fexp2F32 (d : BitVec 6) (a : BitVec 6) (g : BitVec 6)
  /-- R184. Correctly rounded base-2 logarithm. -/
  | flog2F32 (d : BitVec 6) (a : BitVec 6) (g : BitVec 6)
  /-- R182. Correctly rounded FP32 division. -/
  | fdivF32 (d : BitVec 6) (a : BitVec 6) (b : BitVec 6) (g : BitVec 6)
  /-- R179. FP32 addition rounded toward zero. -/
  | faddRzF32 (d : BitVec 6) (a : BitVec 6) (b : BitVec 6) (g : BitVec 6)
  /-- R179. Fused FP32 multiply-add rounded toward zero. -/
  | ffmaRzF32 (d : BitVec 6) (a : BitVec 6) (b : BitVec 6) (c : BitVec 6)
  /-- R185. Packed F16 addition. -/
  | hadd2 (d : BitVec 6) (a : BitVec 6) (b : BitVec 6) (g : BitVec 6)
  /-- R185. Packed F16 multiplication. -/
  | hmul2 (d : BitVec 6) (a : BitVec 6) (b : BitVec 6) (g : BitVec 6)
  /-- R185. Packed fused F16 multiply-add. -/
  | hfma2 (d : BitVec 6) (a : BitVec 6) (b : BitVec 6) (c : BitVec 6)
  /-- R185. Packed F16 minimum. -/
  | hmin2 (d : BitVec 6) (a : BitVec 6) (b : BitVec 6) (g : BitVec 6)
  /-- R185. Packed F16 maximum. -/
  | hmax2 (d : BitVec 6) (a : BitVec 6) (b : BitVec 6) (g : BitVec 6)
  /-- R185. Packed BF16 addition. -/
  | badd2 (d : BitVec 6) (a : BitVec 6) (b : BitVec 6) (g : BitVec 6)
  /-- R185. Packed BF16 multiplication. -/
  | bmul2 (d : BitVec 6) (a : BitVec 6) (b : BitVec 6) (g : BitVec 6)
  /-- R185. Packed fused BF16 multiply-add. -/
  | bfma2 (d : BitVec 6) (a : BitVec 6) (b : BitVec 6) (c : BitVec 6)
  /-- R185. Packed BF16 minimum. -/
  | bmin2 (d : BitVec 6) (a : BitVec 6) (b : BitVec 6) (g : BitVec 6)
  /-- R185. Packed BF16 maximum. -/
  | bmax2 (d : BitVec 6) (a : BitVec 6) (b : BitVec 6) (g : BitVec 6)
  /-- R186. Converts a signed integer to FP32. -/
  | cvtF32S32 (d : BitVec 6) (a : BitVec 6) (g : BitVec 6)
  /-- R186. Converts an unsigned integer to FP32. -/
  | cvtF32Z32 (d : BitVec 6) (a : BitVec 6) (g : BitVec 6)
  /-- R186. Converts FP32 to a signed integer toward zero, saturating. -/
  | cvtS32F32Rz (d : BitVec 6) (a : BitVec 6) (g : BitVec 6)
  /-- R186. Converts FP32 to a signed integer to nearest even, saturating. -/
  | cvtS32F32Rn (d : BitVec 6) (a : BitVec 6) (g : BitVec 6)
  /-- R186. Converts FP32 to an unsigned integer toward zero, saturating. -/
  | cvtZ32F32Rz (d : BitVec 6) (a : BitVec 6) (g : BitVec 6)
  /-- R186. Converts FP32 to F16, overflowing to infinity. -/
  | cvtF16F32 (d : BitVec 6) (a : BitVec 6) (g : BitVec 6)
  /-- R186. Converts FP32 to F16 with saturation. -/
  | cvtF16F32Sat (d : BitVec 6) (a : BitVec 6) (g : BitVec 6)
  /-- R186. Converts FP32 to BF16. -/
  | cvtBf16F32 (d : BitVec 6) (a : BitVec 6) (g : BitVec 6)
  /-- R186. Widens F16 to FP32 exactly. -/
  | cvtF32F16 (d : BitVec 6) (a : BitVec 6) (g : BitVec 6)
  /-- R186. Widens BF16 to FP32 exactly. -/
  | cvtF32Bf16 (d : BitVec 6) (a : BitVec 6) (g : BitVec 6)
  /-- R187. Convergently rotates blocks of 16 lanes and narrows each lane to a narrow format. -/
  | cvtb (d : BitVec 6) (a : BitVec 6) (f : BitVec 4) (t : BitVec 5)
  /-- R188. Convergently widens narrow codes and applies the inverse rotation across blocks of 16 lanes. -/
  | widb (d : BitVec 6) (a : BitVec 6) (f : BitVec 4) (t : BitVec 5)
  /-- R189. Widens one narrow element to FP32 without unrotating. -/
  | cvtw (d : BitVec 6) (a : BitVec 6) (f : BitVec 4)
  /-- R191. Convergent exchange of register values along a butterfly mask. -/
  | xshf (d : BitVec 6) (a : BitVec 6) (m : BitVec 7)
  /-- R191. Convergent exchange along the mask W >> K. -/
  | xshfw (d : BitVec 6) (a : BitVec 6) (k : BitVec 3)
  /-- R193. Convergent reduction over the warp. -/
  | red (d : BitVec 6) (a : BitVec 6) (o : BitVec 5)
  /-- R194. Convergent inclusive or exclusive prefix combination over the lanes. -/
  | scan (d : BitVec 6) (a : BitVec 6) (o : BitVec 5) (e : BitVec 1)
  /-- R196. Convergent nibble lookup in a 16-byte table held by four lanes of each block. -/
  | permb (d : BitVec 6) (a : BitVec 6) (b : BitVec 6) (n : BitVec 1)
  /-- R207. Issues a load from global memory. -/
  | ldG (d : BitVec 6) (a : BitVec 6) (z : BitVec 4) (h : BitVec 2) (g : BitVec 6)
  /-- R207. Issues a store to global memory. -/
  | stG (d : BitVec 6) (a : BitVec 6) (z : BitVec 4) (h : BitVec 2) (g : BitVec 6)
  /-- R207. Issues a load from core scratch. -/
  | ldS (d : BitVec 6) (a : BitVec 6) (z : BitVec 4) (g : BitVec 6)
  /-- R207. Issues a store to core scratch. -/
  | stS (d : BitVec 6) (a : BitVec 6) (z : BitVec 4) (g : BitVec 6)
  /-- R207. Issues a load from deep scratch. -/
  | ldD (d : BitVec 6) (a : BitVec 6) (z : BitVec 4) (g : BitVec 6)
  /-- R207. Issues a store to deep scratch. -/
  | stD (d : BitVec 6) (a : BitVec 6) (z : BitVec 4) (g : BitVec 6)
  /-- R212. Acquire load at core scope. -/
  | ldaCore (d : BitVec 6) (a : BitVec 6) (z : BitVec 4) (h : BitVec 2) (g : BitVec 6)
  /-- R212. Acquire load at device scope. -/
  | ldaDev (d : BitVec 6) (a : BitVec 6) (z : BitVec 4) (h : BitVec 2) (g : BitVec 6)
  /-- R212. Acquire load at system scope. -/
  | ldaSys (d : BitVec 6) (a : BitVec 6) (z : BitVec 4) (h : BitVec 2) (g : BitVec 6)
  /-- R212. Release store at core scope. -/
  | stlCore (d : BitVec 6) (a : BitVec 6) (z : BitVec 4) (h : BitVec 2) (g : BitVec 6)
  /-- R212. Release store at device scope. -/
  | stlDev (d : BitVec 6) (a : BitVec 6) (z : BitVec 4) (h : BitVec 2) (g : BitVec 6)
  /-- R212. Release store at system scope. -/
  | stlSys (d : BitVec 6) (a : BitVec 6) (z : BitVec 4) (h : BitVec 2) (g : BitVec 6)
  /-- R213. Atomic read-combine-write at core ordering scope, returning the old value. -/
  | atomCore (d : BitVec 6) (a : BitVec 6) (b : BitVec 6) (r : BitVec 2) (o : BitVec 4)
  /-- R213. Atomic at device ordering scope, returning the old value. -/
  | atomDev (d : BitVec 6) (a : BitVec 6) (b : BitVec 6) (r : BitVec 2) (o : BitVec 4)
  /-- R213. Atomic at system ordering scope, returning the old value. -/
  | atomSys (d : BitVec 6) (a : BitVec 6) (b : BitVec 6) (r : BitVec 2) (o : BitVec 4)
  /-- R215. Atomic combination at device scope returning nothing. -/
  | redaDev (a : BitVec 6) (b : BitVec 6) (r : BitVec 2) (o : BitVec 4)
  /-- R215. Atomic combination at system scope returning nothing. -/
  | redaSys (a : BitVec 6) (b : BitVec 6) (r : BitVec 2) (o : BitVec 4)
  /-- R230. Waits until the thread's earlier accesses are performed at the named scope. -/
  | fence (s : BitVec 2)
  /-- R233. Performs the thread's writes to a physical page and drops its L1 lines, joining aliases. -/
  | fenceAlias (a : BitVec 6)
  /-- R216. Prefetches a line without faulting. -/
  | pref (a : BitVec 6) (h : BitVec 2) (g : BitVec 6)
  /-- R217. Arms the thread's monitor on a 64-byte physical sector. -/
  | marm (a : BitVec 6) (g : BitVec 6)
  /-- R276. Binds or removes a scratch window over a virtual range. -/
  | maps (s : BitVec 6) (v : BitVec 6) (l : BitVec 6)
  /-- R276. Starts write-back of the dirty window blocks in a range. -/
  | flushs (s : BitVec 6) (l : BitVec 6)
  /-- R276. Empties the window blocks in a range and discards their marks. -/
  | invs (s : BitVec 6) (l : BitVec 6)
  /-- R277. Reports how an address would translate without faulting. -/
  | tlbp (d : BitVec 6) (a : BitVec 6)
  /-- R168. Branches to a PC-relative clause header. -/
  | bra (o : BitVec 18) (g : BitVec 6)
  /-- R168. Branches to the clause header whose address a register pair holds. -/
  | brx (a : BitVec 6) (g : BitVec 6)
  /-- R170. Pushes the return position and enters a PC-relative header. -/
  | call (o : BitVec 18) (g : BitVec 6)
  /-- R170. Pushes the return position and enters a header held in a register pair. -/
  | callx (a : BitVec 6) (g : BitVec 6)
  /-- R171. Pops the call stack and resumes at the return position. -/
  | ret (g : BitVec 6)
  /-- R138. Repeats the next word COUNT times with marked register fields advanced by STRIDE. -/
  | rep (c : BitVec 8) (m : BitVec 4) (s : BitVec 4)
  /-- R173. Ends the thread, releasing its barrier arrivals and closing the open batch if last in the warp. -/
  | exit (g : BitVec 6)
  /-- R240. Closes the open copy batch and holds the thread until the warp's counters fall to the thresholds. -/
  | wait (m : BitVec 3) (c : BitVec 3) (s : BitVec 3) (l : BitVec 3)
  /-- R220. Waits until the thread's monitor is woken and returns the wake code. -/
  | mwait (d : BitVec 6) (a : BitVec 6) (t : BitVec 1)
  /-- R245. Arrives at, waits on, synchronises on or tests a named barrier. -/
  | bar (o : BitVec 2) (b : BitVec 4) (p : BitVec 5)
  /-- R247. Sets a barrier's member warps. -/
  | barcfg (b : BitVec 4) (a : BitVec 6)
  /-- R305. Declares the thread set of a convergence register. -/
  | cvdecl (c : BitVec 3) (l : BitVec 1) (a : BitVec 6)
  /-- R143. Lowers the thread's entries to block priority 0 for 16 cycles. -/
  | yield
  /-- R306. Sets the warp's check mode. -/
  | ckm (m : BitVec 2)
  /-- R174. Raises the SOFTWARE fault with a code. -/
  | trap (c : BitVec 16)
  /-- R360. Stops the thread in an attached context, else raises BREAKPOINT. -/
  | bkpt (i : BitVec 16)
  /-- R177. Returns from a trap handler to the saved or rewritten position. -/
  | rft
  /-- R128. From a trap handler, puts holds on the kernel's other groups and waits for them to halt. -/
  | haltg (s : BitVec 1)
  /-- R353. Spills the context's accumulators on the core and writes a mark record. -/
  | acmark (m : BitVec 16)
  /-- R356. Writes a spoor record holding a register value and a tag. -/
  | trk (a : BitVec 6) (t : BitVec 12)
  /-- R255. Signs for a copy command that, when issued, joins the warp's open batch. -/
  | copy (x : BitVec 6) (c : BitVec 3)
  /-- R345. Signs for a copy command to or from a peer. -/
  | copyR (x : BitVec 6) (c : BitVec 3)
  /-- R256. Signs for a command that streams elements through up to eight operations. -/
  | chain (x : BitVec 6) (c : BitVec 3)
  /-- R255. Signs for a copy command whose source rows come from an index list. -/
  | gather (x : BitVec 6) (y : BitVec 6) (c : BitVec 3)
  /-- R255. Signs for a copy command whose destination rows come from an index list. -/
  | scatter (x : BitVec 6) (y : BitVec 6) (c : BitVec 3)
  /-- R257. Closes the open copy batch without waiting. -/
  | commit (c : BitVec 3)
  /-- R100. Appends a packet from a scratch image to a queue by exchange on its tail link. -/
  | enq (x : BitVec 6) (y : BitVec 6) (c : BitVec 3)
  /-- R110. Posts a RELEASE or ESTIMATE event to the cluster's SCC. -/
  | evt (x : BitVec 6) (c : BitVec 3) (e : BitVec 8)
  /-- R346. Signs for a command performing remote atomics at a peer. -/
  | atomR (x : BitVec 6) (c : BitVec 3)
  /-- R307. Checks and writes a tile control register. -/
  | tcfg (t : BitVec 4) (a : BitVec 6)
  /-- R308. Signs for a tile load from global memory. -/
  | tld (t : BitVec 4) (a : BitVec 6) (b : BitVec 6) (c : BitVec 3)
  /-- R308. Signs for a tile store to global memory. -/
  | tst (t : BitVec 4) (a : BitVec 6) (b : BitVec 6) (c : BitVec 3)
  /-- R308. Signs for clearing a tile. -/
  | tzero (t : BitVec 4) (c : BitVec 3)
  /-- R310. Signs for narrowing a wide tile into a scaled, rotated narrow tile with its scale area. -/
  | qnt (d : BitVec 4) (s : BitVec 4) (h : BitVec 3) (a : BitVec 6) (c : BitVec 3)
  /-- R312. Signs for converting a whole tile without scale. -/
  | tcvt (d : BitVec 4) (s : BitVec 4) (c : BitVec 3)
  /-- R313. Signs for BF16 tile products added into accumulators. -/
  | mmaBf16 (a : BitVec 5) (t : BitVec 4) (u : BitVec 4) (c : BitVec 3) (f : BitVec 2) (k : BitVec 6)
  /-- R313. Signs for F16 tile products. -/
  | mmaF16 (a : BitVec 5) (t : BitVec 4) (u : BitVec 4) (c : BitVec 3) (f : BitVec 2) (k : BitVec 6)
  /-- R313. Signs for E4M3 tile products. -/
  | mmaE4m3 (a : BitVec 5) (t : BitVec 4) (u : BitVec 4) (c : BitVec 3) (f : BitVec 2) (k : BitVec 6)
  /-- R313. Signs for E5M2 tile products. -/
  | mmaE5m2 (a : BitVec 5) (t : BitVec 4) (u : BitVec 4) (c : BitVec 3) (f : BitVec 2) (k : BitVec 6)
  /-- R313. Signs for E2M3 tile products. -/
  | mmaE2m3 (a : BitVec 5) (t : BitVec 4) (u : BitVec 4) (c : BitVec 3) (f : BitVec 2) (k : BitVec 6)
  /-- R313. Signs for E3M2 tile products. -/
  | mmaE3m2 (a : BitVec 5) (t : BitVec 4) (u : BitVec 4) (c : BitVec 3) (f : BitVec 2) (k : BitVec 6)
  /-- R313. Signs for E2M1 tile products. -/
  | mmaE2m1 (a : BitVec 5) (t : BitVec 4) (u : BitVec 4) (c : BitVec 3) (f : BitVec 2) (k : BitVec 6)
  /-- R313. Signs for DL8 tile products. -/
  | mmaDl8 (a : BitVec 5) (t : BitVec 4) (u : BitVec 4) (c : BitVec 3) (f : BitVec 2) (k : BitVec 6)
  /-- R313. Signs for S8 tile products. -/
  | mmaS8 (a : BitVec 5) (t : BitVec 4) (u : BitVec 4) (c : BitVec 3) (f : BitVec 2) (k : BitVec 6)
  /-- R313. Signs for S4 tile products. -/
  | mmaS4 (a : BitVec 5) (t : BitVec 4) (u : BitVec 4) (c : BitVec 3) (f : BitVec 2) (k : BitVec 6)
  /-- R314. Computes the next segment of a product over variable blocks. -/
  | segn (d : BitVec 6) (a : BitVec 6) (b : BitVec 6)
  /-- R315. Signs for adding a scaled partial accumulator into a destination accumulator. -/
  | scacc (d : BitVec 5) (p : BitVec 5) (a : BitVec 6) (c : BitVec 3)
  /-- R316. Signs for clearing an accumulator to +0. -/
  | aclr (a : BitVec 5) (c : BitVec 3)
  /-- R316. Signs for moving a region between a tile and an accumulator. -/
  | amov (a : BitVec 5) (t : BitVec 4) (r : BitVec 1) (c : BitVec 3)
  /-- R317. Signs for storing an accumulator region to global memory. -/
  | ast (a : BitVec 5) (x : BitVec 6) (b : BitVec 6) (c : BitVec 3)
  /-- R317. Signs for loading an accumulator region from global memory. -/
  | ald (a : BitVec 5) (x : BitVec 6) (b : BitVec 6) (c : BitVec 3)
  /-- R309. Signs for counting special codes in a tile. -/
  | tchk (d : BitVec 6) (t : BitVec 4) (c : BitVec 3)
  /-- R319. The die's summed current passes 1,000 A and firmware withdraws the boost point. -/
  | boostWithdraw (die : Fin 8)
  /-- R336. A replay not acknowledged within 10 µs fails and is retried, or fails the port after 8. -/
  | replayAckTimeout (link : Fin 32)
  /-- R336. A dark wavelength has had light for 100 µs and the port re-stripes to widen its mask. -/
  | lightHoldExpiry (link : Fin 32) (wave : Fin 16)
  /-- R339. No flit leaves a non-empty egress queue for 50 µs and the port spills to the wadi. -/
  | egressStallExpiry (link : Fin 32)
  /-- R339. The port's wadi share empties and the port leaves SPILLING. -/
  | wadiDrained (link : Fin 32)
  /-- R336. No flit leaves a spilling port for 10 ms and the port fails. -/
  | spillTimeout (link : Fin 32)
  /-- R340. A remote request without a response for 1 ms fails with LINK_FAILED 0x04. -/
  | linkRequestTimeout (req : Nat)
  /-- R134. Each cycle each slot ranks and selects a frontier entry, issues or stalls it, ages the rest and charges the slot. -/
  | slotCycle (core : Fin 1024)
  /-- R55. 64 core cycles after a PN notice the clause's MMA words may issue. -/
  | noticeExpiry (grp : Nat) (tid : Nat)
  /-- R136. Every 4 cycles the core regroups each warp's threads into entries by key. -/
  | regroup (core : Fin 1024)
  /-- R143. The 16 cycles of lowered rank after YIELD end. -/
  | yieldExpiry (grp : Nat) (tid : Nat)
  /-- R259. A failure found after issue reaches its thread at the next boundary. -/
  | deferredFaultDelivery (grp : Nat) (tid : Nat)
  /-- R141. Threads waiting at a convergent word whose siblings can never arrive raise CONVERGE_MISMATCH. -/
  | convergeMismatch (grp : Nat) (warp : Nat)
  /-- R248. A group's barriers in deadlock make every waiter raise BARRIER_MISMATCH 0x01. -/
  | barrierDeadlock (grp : Nat)
  /-- R208. A load, store, atomic or write-back is performed, writing its destination and retiring in its counter. -/
  | accessPerformed (acc : Nat) (damage : BitVec 8)
  /-- R211. Lanes beyond 16 segments or without a miss-status entry are re-issued in a further pass. -/
  | laneReplay (grp : Nat) (warp : Nat)
  /-- R271. A held page request is written to the port's queue when there is room. -/
  | pageRequestWrite (port : Fin 2)
  /-- R220. The time-out of an MWAIT expires and wakes the monitor with code 7. -/
  | mwaitTimeout (grp : Nat) (tid : Nat)
  /-- R259. A copy-engine command ends, done or failed, and its batch may become performed. -/
  | commandComplete (cmd : Ending)
  /-- R302. A tile operation leaves the matrix queue and is performed, including the check of its products. -/
  | tileOpPerformed (core : Fin 1024) (op : Ending)
  /-- R99. The SCC consumes the next packet of a queue and makes it ready, rejects or cancels it. -/
  | packetConsume (queue : Nat)
  /-- R101. A ready packet starts its effect, computing slack and operating point. -/
  | packetReady (pkt : Nat)
  /-- R112. A ready KERNEL packet's descriptor is read and checked and the kernel fixed for placement. -/
  | kernelLaunch (pkt : Nat)
  /-- R262. A ready COPY packet runs its commands as one batch on cluster OWNER's engine. -/
  | copyPacketRun (pkt : Nat)
  /-- R101. A finished packet writes STATUS, posts its completion record and releases or cancels its successors. -/
  | packetFinish (pkt : Nat)
  /-- R110. The SCC applies release_dep to the packet an EVT RELEASE named. -/
  | evtReleaseApply (cluster : Fin 128)
  /-- R118. The distributor places a new or saved group on a chosen core. -/
  | groupPlace (id : BitVec 12) (kern : BitVec 32) (lin : BitVec 32)
  /-- R116. A group whose threads have exited and whose work is performed ends and frees its resources. -/
  | groupEnd (grp : Nat)
  /-- R123. A saving group's frame is written and the group becomes SAVED, or ends on a frame fault. -/
  | saveFrameWritten (grp : Nat)
  /-- R123. A restoring group's frame is loaded and it returns to its recorded state. -/
  | restoreComplete (grp : Nat)
  /-- R85. Every core holding the context's groups reaches an instruction boundary and staging begins. -/
  | contextHalted (id : BitVec 12)
  /-- R85. The context's last state is staged, its slots released and it becomes SAVED. -/
  | stagingComplete (id : BitVec 12)
  /-- R84. All work is discarded and held records written, and the context becomes UNBOUND. -/
  | destroyComplete (id : BitVec 12)
  /-- R91. While records are held the device reads FQRD each µs and resumes writing when room appears. -/
  | fqRoomPoll (id : BitVec 12)
  /-- R375. A held management event is written to a port's ring when there is room. -/
  | eventRingWrite (port : Fin 2)
  /-- R126. At each µs the group's hang count is reset, advanced or held. -/
  | watchdogTick (grp : Nat)
  /-- R126. A hang count reaching LIMIT ends the group with WATCHDOG. -/
  | watchdogExpiry (grp : Nat)
  /-- R328. Each ms each die writes a current record. -/
  | currentRecord (die : Fin 8)
  /-- R329. Each µs the minimum-voltage latch samples the guarded rails. -/
  | vminSample (die : Fin 8) (mv : BitVec 16)
  /-- R326. The up to 2 µs of halved issue after an empty boost bank ends. -/
  | throttleExpiry (cluster : Fin 128)
  /-- R120. 64 idle cycles move an idle cluster to HANDSHAKE. -/
  | gatingIdleExpiry (cluster : Fin 128)
  /-- R120. The cluster's cores and engine confirm idle and the cluster is gated. -/
  | gatingConfirm (cluster : Fin 128)
  /-- R331. A wake waiting on a busy neighbour begins its soft start after 20 µs. -/
  | wakeWaitExpiry (cluster : Fin 128)
  /-- R331. A waking cluster takes one of four 500 ns soft-start steps. -/
  | softStartStep (cluster : Fin 128)
  /-- R369. The signed attestation report is written and DONE set. -/
  | attestReport (port : Fin 2)
  /-- R331. The draw of a neighbour sharing a phase group falls below 90 % of the shared cap, letting a waiting wake begin its soft start. -/
  | neighbourDrawFall (cluster : Fin 128)
  /-- R326. A cluster's local boost bank finishes its 10 µs recharge and can again carry an unscheduled step without halving issue. -/
  | boostBankRecharged (cluster : Fin 128)
  /-- R84. CXCMD OP 1 reads and validates a CCB and binds the context as SAVED. -/
  | bind (port : Fin 2) (id : BitVec 12)
  /-- R84. CXCMD OP 2 sets PRE, stops dispatch and halts the context's cores. -/
  | preempt (port : Fin 2) (id : BitVec 12)
  /-- R84. CXCMD OP 3 clears PRE and resumes dispatch and queue consumption. -/
  | resume (port : Fin 2) (id : BitVec 12)
  /-- R84. CXCMD OP 4 halts and discards the context's work and enters DESTROYING. -/
  | destroy (port : Fin 2) (id : BitVec 12)
  /-- R94. QCMD OP 1 attaches a queue described by a QCB. -/
  | queueAttach (port : Fin 2)
  /-- R94. QCMD OP 2 stops consumption of a queue and cancels consumed unstarted packets. -/
  | queueDetach (port : Fin 2)
  /-- R270. PGCMD OP 1 ends a page request and releases the groups and commands waiting on the page. -/
  | resolve (port : Fin 2) (id : BitVec 12)
  /-- R272. PGCMD OP 2 wakes every monitor armed on a physical page with code 4. -/
  | retire (port : Fin 2)
  /-- R272. PGCMD OP 3 returns the context's lease horizon in PGDATA. -/
  | horizon (port : Fin 2) (id : BitVec 12)
  /-- R357. DBGCMD OP 1 attaches a debugger to a context with a default scope. -/
  | dbgAttach (port : Fin 2) (id : BitVec 12) (sc : BitVec 2)
  /-- R357. DBGCMD OP 2 removes every hold and resumes every stopped thread of the context. -/
  | dbgDetach (port : Fin 2) (id : BitVec 12)
  /-- R357. DBGCMD OP 3 stops a thread or adds a debugger hold at group, kernel or context scope. -/
  | dbgHalt (port : Fin 2) (id : BitVec 12) (sc : BitVec 2)
  /-- R357. DBGCMD OP 4 removes a debugger hold or resumes a stopped thread. -/
  | dbgResume (port : Fin 2) (id : BitVec 12) (sc : BitVec 2)
  /-- R359. DBGCMD OP 5 issues one word for a stopped thread, which then stops with SINGLE_STEP. -/
  | dbgStep (port : Fin 2) (id : BitVec 12)
  /-- R362. MIRCMD OP 1 starts Mirage capture of a saved context. -/
  | capture (id : BitVec 12)
  /-- R365. MIRCMD OP 2 ends capture, or halts and discards a replay. -/
  | mirageStop (id : BitVec 12)
  /-- R364. MIRCMD OP 3 restores the snapshot and runs the logged packets, comparing folds. -/
  | replay (id : BitVec 12)
  /-- R368. A write of BOOTCMD.GO starts verification of the firmware image. -/
  | bootGo (port : Fin 2)
  /-- R370. A write of ATTCMD.GO starts forming an attestation report over the nonce. -/
  | attestGo (port : Fin 2)
  /-- R372. A host write to FRZREL releases the frozen master it names. -/
  | frzrelWrite (v : BitVec 32)
  /-- R329. A write to VMINV resets the minimum-voltage latch and VMINT. -/
  | vminvWrite (die : Fin 8)
  /-- R336. A host sets LCTL.EN and the port begins training. -/
  | lctlEnSet (m : Master) (link : Fin 32)
  /-- R336. A host clears LCTL.EN, taking the port DOWN and failing its outstanding requests. -/
  | lctlEnClear (m : Master) (link : Fin 32)
  /-- R373. A write of FWWBn or FWWSn, refused when it would leave the window misaligned or out of range. -/
  | fwwWrite (m : Master) (n : Fin 4) (size : Bool) (v : BitVec 64)
  /-- R342. A write of EXPSn, refused for an LSZ outside 16-40 other than 0. -/
  | expsWrite (m : Master) (n : Fin 16) (v : BitVec 32)
  /-- R271. A write of PRQCTL, refused when PRQSZ lies outside 4-16. -/
  | prqctlWrite (port : Fin 2) (v : BitVec 32)
  /-- R375. A write of EVCTL, refused when its size field lies outside 4-16. -/
  | evctlWrite (port : Fin 2) (v : BitVec 32)
  /-- R335. A write of a route-table entry, taken from a host and refused with a freeze from any other master. -/
  | routeWrite (m : Master) (node : BitVec 9) (v : BitVec 32)
  /-- R374. A write to a management register that has no behaviour of its own. -/
  | registerWrite (m : Master) (port : Fin 2) (off : BitVec 20) (wide : Bool) (v : BitVec 64)
  /-- R6. Cold reset sets package time to 0, resets registers and returns boot to WAITING. -/
  | packageColdReset
  /-- R321. A warm reset of a compute die returns its trims to 700 mV and restores phase caps without changing package time. -/
  | dieWarmReset (die : Fin 8)
  /-- R88. Loss of a compute die stops every context that touched it and reports each affected item. -/
  | dieLoss (die : Fin 8)
  /-- R4. Loss of the Oasis die ends every context on the package. -/
  | oasisLoss
  /-- R330. A regulator phase fails, lowering the group's cap or darkening its clusters on a second failure. -/
  | phaseFail (die : Fin 8) (pg : Fin 12) (phase : Fin 8)
  /-- R337. A wavelength loses light, taking the port to RESTRIPE or FAILED. -/
  | lossOfLight (link : Fin 32) (wave : Fin 16)
  /-- R202. A Caliche sensor crosses a thermal threshold, setting or clearing THERM. -/
  | calicheThermal (die : Fin 8) (hot : Bool)
  /-- R235. A host memory write through BAR2 is performed in port order and wakes monitors. -/
  | hostWrite (port : Fin 2) (addr : Nat) (w : PcieWrite)
  /-- R343. A host memory read through BAR2 is served. -/
  | hostRead (port : Fin 2) (addr : Nat) (n : Nat)
  /-- R343. A host PCI Express AtomicOp is performed at the L2 home. -/
  | hostAtomicop (port : Fin 2) (op : PcieOp) (wide : Bool) (addr : Nat) (x : BitVec 64) (y : BitVec 64)
  /-- R342. A peer's UALink request is checked against the export windows and performed or refused. -/
  | peerRequest (link : Fin 32) (node : BitVec 9) (req : PeerReq)
  /-- R337. A flit or acknowledgement arrives on a port, advancing or failing replay. -/
  | flitReceive (link : Fin 32) (f : Flit)
  /-- R336. All 16 wavelengths lock with options agreed and the port becomes UP. -/
  | trainingLocked (link : Fin 32)
  /-- R336. 1 ms after training begins the port goes UP_DEGRADED or FAILED. -/
  | trainingTimeout (link : Fin 32) (locked : BitVec 16) (agreed : Bool)
  /-- R337. Both ends hold the new mask and the port enters REPLAY. -/
  | restripeAgreed (link : Fin 32)
  /-- R268. A cached translation reaches its lease end and is no longer used. -/
  | leaseExpiry
  /-- R205. Damage found by scrubbing or at write-back is reported as a MEM_DAMAGE management event. -/
  | memScrubDamage (addr : Nat) (level : BitVec 8)
  /-- R301. Counted events are added into the tenant's telemetry entry within 1 ms. -/
  | telemetryAdd
  /-- R106. Each µs a core's token is divided among resident contexts and charged to tenants and regions. -/
  | tokenCharge
  /-- R106. At each period boundary every tenant with non-zero REFILL is repaid and refilled. -/
  | tokenRefill
  /-- R351. At every 1,000 µs boundary the accumulators spill count records to account buffers. -/
  | accountSpill
  /-- R367. Verification of the firmware image ends, starting it or rejecting it. -/
  | imageVerified
  /-- R336. Light is first detected again on a dark wavelength of a port, starting its 100 µs hold and fixing the time a later widening LINK_DEGRADED reports. -/
  | lightRestored (link : Fin 32) (wave : Fin 16)
  deriving DecidableEq, Repr

end Sys2Proof
end

