-- ==== Sys2Proof/Decode.lean ====
section
/-! DEFINITION. The encodings of `02_encoding.md`: from words to instructions (`decodeWords`), from bytes to
instructions (`decodeBytes`), back from instructions to words (`encode`), and the ILLEGAL_OP checks that R62
step 3 makes on a decoded word (`illegal`). -/

namespace Sys2Proof

/-- Why bytes are no instruction: the ILLEGAL_OP cases of R70 and R71 that leave no instruction to speak of. -/
inductive DecodeError where
  /-- fewer bytes than the word needs -/
  | truncated
  /-- an unassigned primary opcode (sub-code 0x01) -/
  | unassigned
  /-- 0xC7 in an instruction position (sub-code 0x02) -/
  | headerMark
  /-- a non-zero reserved field (sub-code 0x03) -/
  | reservedField
  deriving DecidableEq, Repr

/-- The field of `len` bits of word `w` whose lowest bit is `lo`. -/
def bitsAt (w lo len : Nat) : BitVec len := BitVec.ofNat len (w / 2 ^ lo)

/-- A reserved field of `len` bits at `lo` holds 0 (R11, R70). -/
def rsv (w lo len : Nat) : Bool := w / 2 ^ lo % 2 ^ len == 0

/-- The instruction, when its reserved fields are 0. -/
def checked (ok : Bool) (i : Instr) : Except DecodeError Instr :=
  if ok then .ok i else .error .reservedField

/-- Decoding of THREAD-, MEM-, CTRL-, ENG- and TILE-class words (R64 to R67, R69) by primary opcode. `ext` is the
word that follows, which only MOVX uses (R63). -/
def decodeWord (w : Nat) (ext : Option Nat) : Except DecodeError Instr :=
  match w / 2 ^ 24 with
  | 0x00 => checked (rsv w 0 24) .nop
  | 0x01 => checked (rsv w 6 6) (.mov (bitsAt w 18 6) (bitsAt w 12 6) (bitsAt w 0 6))
  | 0x02 => .ok (.movi (bitsAt w 18 6) (bitsAt w 0 18))
  | 0x03 => .ok (.movhi (bitsAt w 18 6) (bitsAt w 0 18))
  | 0x04 => match ext with
    | some x => .ok (.movx (bitsAt w 18 6) (bitsAt w 0 18) (bitsAt x 0 32))
    | none => .error .truncated
  | 0x05 => .ok (.sel (bitsAt w 18 6) (bitsAt w 12 6) (bitsAt w 6 6) (bitsAt w 0 6))
  | 0x06 => checked (rsv w 12 6) (.srd (bitsAt w 18 6) (bitsAt w 0 12))
  | 0x07 => checked (rsv w 18 6) (.swr (bitsAt w 12 6) (bitsAt w 0 12))
  | 0x08 => .ok (.add (bitsAt w 18 6) (bitsAt w 12 6) (bitsAt w 6 6) (bitsAt w 0 6))
  | 0x09 => .ok (.sub (bitsAt w 18 6) (bitsAt w 12 6) (bitsAt w 6 6) (bitsAt w 0 6))
  | 0x0A => .ok (.addi (bitsAt w 18 6) (bitsAt w 12 6) (bitsAt w 0 12))
  | 0x0B => checked (rsv w 5 1) (.addc (bitsAt w 18 6) (bitsAt w 12 6) (bitsAt w 6 6) (bitsAt w 0 5))
  | 0x0C => .ok (.addSatS32 (bitsAt w 18 6) (bitsAt w 12 6) (bitsAt w 6 6) (bitsAt w 0 6))
  | 0x0D => .ok (.addSatZ32 (bitsAt w 18 6) (bitsAt w 12 6) (bitsAt w 6 6) (bitsAt w 0 6))
  | 0x0E => .ok (.subSatS32 (bitsAt w 18 6) (bitsAt w 12 6) (bitsAt w 6 6) (bitsAt w 0 6))
  | 0x0F => .ok (.subSatZ32 (bitsAt w 18 6) (bitsAt w 12 6) (bitsAt w 6 6) (bitsAt w 0 6))
  | 0x10 => .ok (.mul (bitsAt w 18 6) (bitsAt w 12 6) (bitsAt w 6 6) (bitsAt w 0 6))
  | 0x11 => .ok (.mulhS32 (bitsAt w 18 6) (bitsAt w 12 6) (bitsAt w 6 6) (bitsAt w 0 6))
  | 0x12 => .ok (.mulhZ32 (bitsAt w 18 6) (bitsAt w 12 6) (bitsAt w 6 6) (bitsAt w 0 6))
  | 0x13 => .ok (.mad (bitsAt w 18 6) (bitsAt w 12 6) (bitsAt w 6 6) (bitsAt w 0 6))
  | 0x14 => .ok (.mulwS32 (bitsAt w 18 6) (bitsAt w 12 6) (bitsAt w 6 6) (bitsAt w 0 6))
  | 0x15 => .ok (.mulwZ32 (bitsAt w 18 6) (bitsAt w 12 6) (bitsAt w 6 6) (bitsAt w 0 6))
  | 0x16 => .ok (.divS32 (bitsAt w 18 6) (bitsAt w 12 6) (bitsAt w 6 6) (bitsAt w 0 6))
  | 0x17 => .ok (.divZ32 (bitsAt w 18 6) (bitsAt w 12 6) (bitsAt w 6 6) (bitsAt w 0 6))
  | 0x18 => .ok (.remS32 (bitsAt w 18 6) (bitsAt w 12 6) (bitsAt w 6 6) (bitsAt w 0 6))
  | 0x19 => .ok (.remZ32 (bitsAt w 18 6) (bitsAt w 12 6) (bitsAt w 6 6) (bitsAt w 0 6))
  | 0x1A => .ok (.minS32 (bitsAt w 18 6) (bitsAt w 12 6) (bitsAt w 6 6) (bitsAt w 0 6))
  | 0x1B => .ok (.minZ32 (bitsAt w 18 6) (bitsAt w 12 6) (bitsAt w 6 6) (bitsAt w 0 6))
  | 0x1C => .ok (.maxS32 (bitsAt w 18 6) (bitsAt w 12 6) (bitsAt w 6 6) (bitsAt w 0 6))
  | 0x1D => .ok (.maxZ32 (bitsAt w 18 6) (bitsAt w 12 6) (bitsAt w 6 6) (bitsAt w 0 6))
  | 0x1E => checked (rsv w 6 6) (.absS32 (bitsAt w 18 6) (bitsAt w 12 6) (bitsAt w 0 6))
  | 0x1F => checked (rsv w 6 6) (.neg (bitsAt w 18 6) (bitsAt w 12 6) (bitsAt w 0 6))
  | 0x20 => .ok (.and (bitsAt w 18 6) (bitsAt w 12 6) (bitsAt w 6 6) (bitsAt w 0 6))
  | 0x21 => .ok (.or (bitsAt w 18 6) (bitsAt w 12 6) (bitsAt w 6 6) (bitsAt w 0 6))
  | 0x22 => .ok (.xor (bitsAt w 18 6) (bitsAt w 12 6) (bitsAt w 6 6) (bitsAt w 0 6))
  | 0x23 => .ok (.andn (bitsAt w 18 6) (bitsAt w 12 6) (bitsAt w 6 6) (bitsAt w 0 6))
  | 0x24 => checked (rsv w 6 6) (.not (bitsAt w 18 6) (bitsAt w 12 6) (bitsAt w 0 6))
  | 0x25 => .ok (.andi (bitsAt w 18 6) (bitsAt w 12 6) (bitsAt w 0 12))
  | 0x26 => .ok (.ori (bitsAt w 18 6) (bitsAt w 12 6) (bitsAt w 0 12))
  | 0x27 => .ok (.xori (bitsAt w 18 6) (bitsAt w 12 6) (bitsAt w 0 12))
  | 0x28 => .ok (.shl (bitsAt w 18 6) (bitsAt w 12 6) (bitsAt w 6 6) (bitsAt w 0 6))
  | 0x29 => .ok (.shr (bitsAt w 18 6) (bitsAt w 12 6) (bitsAt w 6 6) (bitsAt w 0 6))
  | 0x2A => .ok (.sra (bitsAt w 18 6) (bitsAt w 12 6) (bitsAt w 6 6) (bitsAt w 0 6))
  | 0x2B => checked (rsv w 5 7) (.shli (bitsAt w 18 6) (bitsAt w 12 6) (bitsAt w 0 5))
  | 0x2C => checked (rsv w 5 7) (.shri (bitsAt w 18 6) (bitsAt w 12 6) (bitsAt w 0 5))
  | 0x2D => checked (rsv w 5 7) (.srai (bitsAt w 18 6) (bitsAt w 12 6) (bitsAt w 0 5))
  | 0x2E => .ok (.rotl (bitsAt w 18 6) (bitsAt w 12 6) (bitsAt w 6 6) (bitsAt w 0 6))
  | 0x2F => checked (rsv w 5 7) (.rotli (bitsAt w 18 6) (bitsAt w 12 6) (bitsAt w 0 5))
  | 0x30 => checked (rsv w 6 6) (.popc (bitsAt w 18 6) (bitsAt w 12 6) (bitsAt w 0 6))
  | 0x31 => checked (rsv w 6 6) (.clz (bitsAt w 18 6) (bitsAt w 12 6) (bitsAt w 0 6))
  | 0x32 => checked (rsv w 6 6) (.brev (bitsAt w 18 6) (bitsAt w 12 6) (bitsAt w 0 6))
  | 0x33 => checked (rsv w 10 2) (.bfxS (bitsAt w 18 6) (bitsAt w 12 6) (bitsAt w 5 5) (bitsAt w 0 5))
  | 0x34 => checked (rsv w 10 2) (.bfxZ (bitsAt w 18 6) (bitsAt w 12 6) (bitsAt w 5 5) (bitsAt w 0 5))
  | 0x35 => checked (rsv w 10 2) (.bfi (bitsAt w 18 6) (bitsAt w 12 6) (bitsAt w 5 5) (bitsAt w 0 5))
  | 0x36 => checked (rsv w 3 3) (.lea (bitsAt w 18 6) (bitsAt w 12 6) (bitsAt w 6 6) (bitsAt w 0 3))
  | 0x37 => .ok (.add64 (bitsAt w 18 6) (bitsAt w 12 6) (bitsAt w 6 6) (bitsAt w 0 6))
  | 0x38 => .ok (.sub64 (bitsAt w 18 6) (bitsAt w 12 6) (bitsAt w 6 6) (bitsAt w 0 6))
  | 0x39 => .ok (.addi64 (bitsAt w 18 6) (bitsAt w 12 6) (bitsAt w 0 12))
  | 0x3A => checked (rsv w 6 6) (.shl64i (bitsAt w 18 6) (bitsAt w 12 6) (bitsAt w 0 6))
  | 0x3B => checked (rsv w 6 6) (.shr64i (bitsAt w 18 6) (bitsAt w 12 6) (bitsAt w 0 6))
  | 0x3C => checked (rsv w 6 6) (.fkeyF16 (bitsAt w 18 6) (bitsAt w 12 6) (bitsAt w 0 6))
  | 0x3D => checked (rsv w 6 6) (.fkeyF32 (bitsAt w 18 6) (bitsAt w 12 6) (bitsAt w 0 6))
  | 0x40 => checked (rsv w 0 3) (.cmpS32 (bitsAt w 18 6) (bitsAt w 12 6) (bitsAt w 6 6) (bitsAt w 3 3))
  | 0x41 => checked (rsv w 0 3) (.cmpZ32 (bitsAt w 18 6) (bitsAt w 12 6) (bitsAt w 6 6) (bitsAt w 3 3))
  | 0x42 => checked (rsv w 0 3) (.cmpS64 (bitsAt w 18 6) (bitsAt w 12 6) (bitsAt w 6 6) (bitsAt w 3 3))
  | 0x43 => checked (rsv w 0 3) (.cmpZ64 (bitsAt w 18 6) (bitsAt w 12 6) (bitsAt w 6 6) (bitsAt w 3 3))
  | 0x44 => checked (rsv w 0 3) (.cmpiS32 (bitsAt w 18 6) (bitsAt w 12 6) (bitsAt w 6 6) (bitsAt w 3 3))
  | 0x45 => checked (rsv w 0 3) (.cmpiZ32 (bitsAt w 18 6) (bitsAt w 12 6) (bitsAt w 6 6) (bitsAt w 3 3))
  | 0x46 => checked (rsv w 0 3) (.fcmpF32 (bitsAt w 18 6) (bitsAt w 12 6) (bitsAt w 6 6) (bitsAt w 3 3))
  | 0x47 => checked (rsv w 0 3) (.fcmpF16 (bitsAt w 18 6) (bitsAt w 12 6) (bitsAt w 6 6) (bitsAt w 3 3))
  | 0x48 => checked (rsv w 4 5) (.plog (bitsAt w 19 5) (bitsAt w 14 5) (bitsAt w 9 5) (bitsAt w 0 4))
  | 0x49 => checked (rsv w 0 17) (.pmov (bitsAt w 18 6) (bitsAt w 17 1))
  | 0x4A => checked (rsv w 0 10) (.vote (bitsAt w 18 6) (bitsAt w 12 6) (bitsAt w 10 2))
  | 0x50 => .ok (.faddF32 (bitsAt w 18 6) (bitsAt w 12 6) (bitsAt w 6 6) (bitsAt w 0 6))
  | 0x51 => .ok (.fsubF32 (bitsAt w 18 6) (bitsAt w 12 6) (bitsAt w 6 6) (bitsAt w 0 6))
  | 0x52 => .ok (.fmulF32 (bitsAt w 18 6) (bitsAt w 12 6) (bitsAt w 6 6) (bitsAt w 0 6))
  | 0x53 => .ok (.ffmaF32 (bitsAt w 18 6) (bitsAt w 12 6) (bitsAt w 6 6) (bitsAt w 0 6))
  | 0x54 => .ok (.fminF32 (bitsAt w 18 6) (bitsAt w 12 6) (bitsAt w 6 6) (bitsAt w 0 6))
  | 0x55 => .ok (.fmaxF32 (bitsAt w 18 6) (bitsAt w 12 6) (bitsAt w 6 6) (bitsAt w 0 6))
  | 0x56 => checked (rsv w 6 6) (.fabsF32 (bitsAt w 18 6) (bitsAt w 12 6) (bitsAt w 0 6))
  | 0x57 => checked (rsv w 6 6) (.fnegF32 (bitsAt w 18 6) (bitsAt w 12 6) (bitsAt w 0 6))
  | 0x58 => checked (rsv w 6 6) (.frcpF32 (bitsAt w 18 6) (bitsAt w 12 6) (bitsAt w 0 6))
  | 0x59 => checked (rsv w 6 6) (.frsqF32 (bitsAt w 18 6) (bitsAt w 12 6) (bitsAt w 0 6))
  | 0x5A => checked (rsv w 6 6) (.fsqrtF32 (bitsAt w 18 6) (bitsAt w 12 6) (bitsAt w 0 6))
  | 0x5B => checked (rsv w 6 6) (.fexp2F32 (bitsAt w 18 6) (bitsAt w 12 6) (bitsAt w 0 6))
  | 0x5C => checked (rsv w 6 6) (.flog2F32 (bitsAt w 18 6) (bitsAt w 12 6) (bitsAt w 0 6))
  | 0x5D => .ok (.fdivF32 (bitsAt w 18 6) (bitsAt w 12 6) (bitsAt w 6 6) (bitsAt w 0 6))
  | 0x5E => .ok (.faddRzF32 (bitsAt w 18 6) (bitsAt w 12 6) (bitsAt w 6 6) (bitsAt w 0 6))
  | 0x5F => .ok (.ffmaRzF32 (bitsAt w 18 6) (bitsAt w 12 6) (bitsAt w 6 6) (bitsAt w 0 6))
  | 0x60 => .ok (.hadd2 (bitsAt w 18 6) (bitsAt w 12 6) (bitsAt w 6 6) (bitsAt w 0 6))
  | 0x61 => .ok (.hmul2 (bitsAt w 18 6) (bitsAt w 12 6) (bitsAt w 6 6) (bitsAt w 0 6))
  | 0x62 => .ok (.hfma2 (bitsAt w 18 6) (bitsAt w 12 6) (bitsAt w 6 6) (bitsAt w 0 6))
  | 0x63 => .ok (.hmin2 (bitsAt w 18 6) (bitsAt w 12 6) (bitsAt w 6 6) (bitsAt w 0 6))
  | 0x64 => .ok (.hmax2 (bitsAt w 18 6) (bitsAt w 12 6) (bitsAt w 6 6) (bitsAt w 0 6))
  | 0x65 => .ok (.badd2 (bitsAt w 18 6) (bitsAt w 12 6) (bitsAt w 6 6) (bitsAt w 0 6))
  | 0x66 => .ok (.bmul2 (bitsAt w 18 6) (bitsAt w 12 6) (bitsAt w 6 6) (bitsAt w 0 6))
  | 0x67 => .ok (.bfma2 (bitsAt w 18 6) (bitsAt w 12 6) (bitsAt w 6 6) (bitsAt w 0 6))
  | 0x68 => .ok (.bmin2 (bitsAt w 18 6) (bitsAt w 12 6) (bitsAt w 6 6) (bitsAt w 0 6))
  | 0x69 => .ok (.bmax2 (bitsAt w 18 6) (bitsAt w 12 6) (bitsAt w 6 6) (bitsAt w 0 6))
  | 0x70 => checked (rsv w 6 6) (.cvtF32S32 (bitsAt w 18 6) (bitsAt w 12 6) (bitsAt w 0 6))
  | 0x71 => checked (rsv w 6 6) (.cvtF32Z32 (bitsAt w 18 6) (bitsAt w 12 6) (bitsAt w 0 6))
  | 0x72 => checked (rsv w 6 6) (.cvtS32F32Rz (bitsAt w 18 6) (bitsAt w 12 6) (bitsAt w 0 6))
  | 0x73 => checked (rsv w 6 6) (.cvtS32F32Rn (bitsAt w 18 6) (bitsAt w 12 6) (bitsAt w 0 6))
  | 0x74 => checked (rsv w 6 6) (.cvtZ32F32Rz (bitsAt w 18 6) (bitsAt w 12 6) (bitsAt w 0 6))
  | 0x75 => checked (rsv w 6 6) (.cvtF16F32 (bitsAt w 18 6) (bitsAt w 12 6) (bitsAt w 0 6))
  | 0x76 => checked (rsv w 6 6) (.cvtF16F32Sat (bitsAt w 18 6) (bitsAt w 12 6) (bitsAt w 0 6))
  | 0x77 => checked (rsv w 6 6) (.cvtBf16F32 (bitsAt w 18 6) (bitsAt w 12 6) (bitsAt w 0 6))
  | 0x78 => checked (rsv w 6 6) (.cvtF32F16 (bitsAt w 18 6) (bitsAt w 12 6) (bitsAt w 0 6))
  | 0x79 => checked (rsv w 6 6) (.cvtF32Bf16 (bitsAt w 18 6) (bitsAt w 12 6) (bitsAt w 0 6))
  | 0x7A => checked (rsv w 0 3) (.cvtb (bitsAt w 18 6) (bitsAt w 12 6) (bitsAt w 8 4) (bitsAt w 3 5))
  | 0x7B => checked (rsv w 0 3) (.widb (bitsAt w 18 6) (bitsAt w 12 6) (bitsAt w 8 4) (bitsAt w 3 5))
  | 0x7C => checked (rsv w 0 8) (.cvtw (bitsAt w 18 6) (bitsAt w 12 6) (bitsAt w 8 4))
  | 0x80 => checked (rsv w 0 5) (.xshf (bitsAt w 18 6) (bitsAt w 12 6) (bitsAt w 5 7))
  | 0x81 => checked (rsv w 0 9) (.xshfw (bitsAt w 18 6) (bitsAt w 12 6) (bitsAt w 9 3))
  | 0x82 => checked (rsv w 0 7) (.red (bitsAt w 18 6) (bitsAt w 12 6) (bitsAt w 7 5))
  | 0x83 => checked (rsv w 0 6) (.scan (bitsAt w 18 6) (bitsAt w 12 6) (bitsAt w 7 5) (bitsAt w 6 1))
  | 0x84 => checked (rsv w 0 5) (.permb (bitsAt w 18 6) (bitsAt w 12 6) (bitsAt w 6 6) (bitsAt w 5 1))
  | 0x90 => .ok (.ldG (bitsAt w 18 6) (bitsAt w 12 6) (bitsAt w 8 4) (bitsAt w 6 2) (bitsAt w 0 6))
  | 0x91 => .ok (.stG (bitsAt w 18 6) (bitsAt w 12 6) (bitsAt w 8 4) (bitsAt w 6 2) (bitsAt w 0 6))
  | 0x92 => checked (rsv w 6 2) (.ldS (bitsAt w 18 6) (bitsAt w 12 6) (bitsAt w 8 4) (bitsAt w 0 6))
  | 0x93 => checked (rsv w 6 2) (.stS (bitsAt w 18 6) (bitsAt w 12 6) (bitsAt w 8 4) (bitsAt w 0 6))
  | 0x94 => checked (rsv w 6 2) (.ldD (bitsAt w 18 6) (bitsAt w 12 6) (bitsAt w 8 4) (bitsAt w 0 6))
  | 0x95 => checked (rsv w 6 2) (.stD (bitsAt w 18 6) (bitsAt w 12 6) (bitsAt w 8 4) (bitsAt w 0 6))
  | 0x96 => .ok (.ldaCore (bitsAt w 18 6) (bitsAt w 12 6) (bitsAt w 8 4) (bitsAt w 6 2) (bitsAt w 0 6))
  | 0x97 => .ok (.ldaDev (bitsAt w 18 6) (bitsAt w 12 6) (bitsAt w 8 4) (bitsAt w 6 2) (bitsAt w 0 6))
  | 0x98 => .ok (.ldaSys (bitsAt w 18 6) (bitsAt w 12 6) (bitsAt w 8 4) (bitsAt w 6 2) (bitsAt w 0 6))
  | 0x99 => .ok (.stlCore (bitsAt w 18 6) (bitsAt w 12 6) (bitsAt w 8 4) (bitsAt w 6 2) (bitsAt w 0 6))
  | 0x9A => .ok (.stlDev (bitsAt w 18 6) (bitsAt w 12 6) (bitsAt w 8 4) (bitsAt w 6 2) (bitsAt w 0 6))
  | 0x9B => .ok (.stlSys (bitsAt w 18 6) (bitsAt w 12 6) (bitsAt w 8 4) (bitsAt w 6 2) (bitsAt w 0 6))
  | 0x9C => .ok (.atomCore (bitsAt w 18 6) (bitsAt w 12 6) (bitsAt w 6 6) (bitsAt w 4 2) (bitsAt w 0 4))
  | 0x9D => .ok (.atomDev (bitsAt w 18 6) (bitsAt w 12 6) (bitsAt w 6 6) (bitsAt w 4 2) (bitsAt w 0 4))
  | 0x9E => .ok (.atomSys (bitsAt w 18 6) (bitsAt w 12 6) (bitsAt w 6 6) (bitsAt w 4 2) (bitsAt w 0 4))
  | 0x9F => checked (rsv w 18 6) (.redaDev (bitsAt w 12 6) (bitsAt w 6 6) (bitsAt w 4 2) (bitsAt w 0 4))
  | 0xA0 => checked (rsv w 18 6) (.redaSys (bitsAt w 12 6) (bitsAt w 6 6) (bitsAt w 4 2) (bitsAt w 0 4))
  | 0xA1 => checked (rsv w 0 22) (.fence (bitsAt w 22 2))
  | 0xA2 => checked (rsv w 0 12 && rsv w 18 6) (.fenceAlias (bitsAt w 12 6))
  | 0xA3 => checked (rsv w 8 4 && rsv w 18 6) (.pref (bitsAt w 12 6) (bitsAt w 6 2) (bitsAt w 0 6))
  | 0xA4 => checked (rsv w 6 6 && rsv w 18 6) (.marm (bitsAt w 12 6) (bitsAt w 0 6))
  | 0xA5 => checked (rsv w 0 6) (.maps (bitsAt w 18 6) (bitsAt w 12 6) (bitsAt w 6 6))
  | 0xA6 => checked (rsv w 0 12) (.flushs (bitsAt w 18 6) (bitsAt w 12 6))
  | 0xA7 => checked (rsv w 0 12) (.invs (bitsAt w 18 6) (bitsAt w 12 6))
  | 0xA8 => checked (rsv w 0 12) (.tlbp (bitsAt w 18 6) (bitsAt w 12 6))
  | 0xC0 => .ok (.bra (bitsAt w 6 18) (bitsAt w 0 6))
  | 0xC1 => checked (rsv w 6 6 && rsv w 18 6) (.brx (bitsAt w 12 6) (bitsAt w 0 6))
  | 0xC2 => .ok (.call (bitsAt w 6 18) (bitsAt w 0 6))
  | 0xC3 => checked (rsv w 6 6 && rsv w 18 6) (.callx (bitsAt w 12 6) (bitsAt w 0 6))
  | 0xC4 => checked (rsv w 6 18) (.ret (bitsAt w 0 6))
  | 0xC5 => checked (rsv w 0 8) (.rep (bitsAt w 16 8) (bitsAt w 12 4) (bitsAt w 8 4))
  | 0xC6 => checked (rsv w 6 18) (.exit (bitsAt w 0 6))
  | 0xC8 => checked (rsv w 0 7 && rsv w 19 5) (.wait (bitsAt w 16 3) (bitsAt w 13 3) (bitsAt w 10 3) (bitsAt w 7 3))
  | 0xC9 => checked (rsv w 0 11) (.mwait (bitsAt w 18 6) (bitsAt w 12 6) (bitsAt w 11 1))
  | 0xCA => checked (rsv w 0 13) (.bar (bitsAt w 22 2) (bitsAt w 18 4) (bitsAt w 13 5))
  | 0xCB => checked (rsv w 0 12 && rsv w 22 2) (.barcfg (bitsAt w 18 4) (bitsAt w 12 6))
  | 0xCC => checked (rsv w 0 12 && rsv w 18 2) (.cvdecl (bitsAt w 21 3) (bitsAt w 20 1) (bitsAt w 12 6))
  | 0xCD => checked (rsv w 0 24) .yield
  | 0xCE => checked (rsv w 2 22) (.ckm (bitsAt w 0 2))
  | 0xF8 => checked (rsv w 16 8) (.trap (bitsAt w 0 16))
  | 0xF9 => checked (rsv w 16 8) (.bkpt (bitsAt w 0 16))
  | 0xFA => checked (rsv w 0 24) .rft
  | 0xFB => checked (rsv w 1 23) (.haltg (bitsAt w 0 1))
  | 0xFC => checked (rsv w 16 8) (.acmark (bitsAt w 0 16))
  | 0xFD => checked (rsv w 18 6) (.trk (bitsAt w 12 6) (bitsAt w 0 12))
  | 0xD0 => checked (rsv w 0 9 && rsv w 12 6) (.copy (bitsAt w 18 6) (bitsAt w 9 3))
  | 0xD1 => checked (rsv w 0 9 && rsv w 12 6) (.copyR (bitsAt w 18 6) (bitsAt w 9 3))
  | 0xD2 => checked (rsv w 0 9 && rsv w 12 6) (.chain (bitsAt w 18 6) (bitsAt w 9 3))
  | 0xD3 => checked (rsv w 0 9) (.gather (bitsAt w 18 6) (bitsAt w 12 6) (bitsAt w 9 3))
  | 0xD4 => checked (rsv w 0 9) (.scatter (bitsAt w 18 6) (bitsAt w 12 6) (bitsAt w 9 3))
  | 0xD5 => checked (rsv w 0 9 && rsv w 12 12) (.commit (bitsAt w 9 3))
  | 0xD6 => checked (rsv w 0 9) (.enq (bitsAt w 18 6) (bitsAt w 12 6) (bitsAt w 9 3))
  | 0xD7 => checked (rsv w 8 1 && rsv w 12 6) (.evt (bitsAt w 18 6) (bitsAt w 9 3) (bitsAt w 0 8))
  | 0xD8 => checked (rsv w 0 9 && rsv w 12 6) (.atomR (bitsAt w 18 6) (bitsAt w 9 3))
  | 0xE0 => checked (rsv w 0 12 && rsv w 18 2) (.tcfg (bitsAt w 20 4) (bitsAt w 12 6))
  | 0xE1 => checked (rsv w 0 5) (.tld (bitsAt w 20 4) (bitsAt w 14 6) (bitsAt w 8 6) (bitsAt w 5 3))
  | 0xE2 => checked (rsv w 0 5) (.tst (bitsAt w 20 4) (bitsAt w 14 6) (bitsAt w 8 6) (bitsAt w 5 3))
  | 0xE3 => checked (rsv w 0 5 && rsv w 8 12) (.tzero (bitsAt w 20 4) (bitsAt w 5 3))
  | 0xE4 => checked (rsv w 0 4) (.qnt (bitsAt w 20 4) (bitsAt w 16 4) (bitsAt w 13 3) (bitsAt w 7 6) (bitsAt w 4 3))
  | 0xE5 => checked (rsv w 0 13) (.tcvt (bitsAt w 20 4) (bitsAt w 16 4) (bitsAt w 13 3))
  | 0xE6 => .ok (.mmaBf16 (bitsAt w 19 5) (bitsAt w 15 4) (bitsAt w 11 4) (bitsAt w 8 3) (bitsAt w 6 2) (bitsAt w 0 6))
  | 0xE7 => .ok (.mmaF16 (bitsAt w 19 5) (bitsAt w 15 4) (bitsAt w 11 4) (bitsAt w 8 3) (bitsAt w 6 2) (bitsAt w 0 6))
  | 0xE8 => .ok (.mmaE4m3 (bitsAt w 19 5) (bitsAt w 15 4) (bitsAt w 11 4) (bitsAt w 8 3) (bitsAt w 6 2) (bitsAt w 0 6))
  | 0xE9 => .ok (.mmaE5m2 (bitsAt w 19 5) (bitsAt w 15 4) (bitsAt w 11 4) (bitsAt w 8 3) (bitsAt w 6 2) (bitsAt w 0 6))
  | 0xEA => .ok (.mmaE2m3 (bitsAt w 19 5) (bitsAt w 15 4) (bitsAt w 11 4) (bitsAt w 8 3) (bitsAt w 6 2) (bitsAt w 0 6))
  | 0xEB => .ok (.mmaE3m2 (bitsAt w 19 5) (bitsAt w 15 4) (bitsAt w 11 4) (bitsAt w 8 3) (bitsAt w 6 2) (bitsAt w 0 6))
  | 0xEC => .ok (.mmaE2m1 (bitsAt w 19 5) (bitsAt w 15 4) (bitsAt w 11 4) (bitsAt w 8 3) (bitsAt w 6 2) (bitsAt w 0 6))
  | 0xED => .ok (.mmaDl8 (bitsAt w 19 5) (bitsAt w 15 4) (bitsAt w 11 4) (bitsAt w 8 3) (bitsAt w 6 2) (bitsAt w 0 6))
  | 0xEE => .ok (.mmaS8 (bitsAt w 19 5) (bitsAt w 15 4) (bitsAt w 11 4) (bitsAt w 8 3) (bitsAt w 6 2) (bitsAt w 0 6))
  | 0xEF => .ok (.mmaS4 (bitsAt w 19 5) (bitsAt w 15 4) (bitsAt w 11 4) (bitsAt w 8 3) (bitsAt w 6 2) (bitsAt w 0 6))
  | 0xF0 => checked (rsv w 0 6) (.segn (bitsAt w 18 6) (bitsAt w 12 6) (bitsAt w 6 6))
  | 0xF1 => checked (rsv w 0 5) (.scacc (bitsAt w 19 5) (bitsAt w 14 5) (bitsAt w 8 6) (bitsAt w 5 3))
  | 0xF2 => checked (rsv w 0 5 && rsv w 8 11) (.aclr (bitsAt w 19 5) (bitsAt w 5 3))
  | 0xF3 => checked (rsv w 0 5 && rsv w 8 6) (.amov (bitsAt w 19 5) (bitsAt w 15 4) (bitsAt w 14 1) (bitsAt w 5 3))
  | 0xF4 => checked (rsv w 0 4) (.ast (bitsAt w 19 5) (bitsAt w 13 6) (bitsAt w 7 6) (bitsAt w 4 3))
  | 0xF5 => checked (rsv w 0 4) (.ald (bitsAt w 19 5) (bitsAt w 13 6) (bitsAt w 7 6) (bitsAt w 4 3))
  | 0xF6 => checked (rsv w 0 11) (.tchk (bitsAt w 18 6) (bitsAt w 14 4) (bitsAt w 11 3))
  | 0xC7 => .error .headerMark
  | _ => .error .unassigned

/-- Decoding of a word and what follows it. -/
def decodeWords : List Nat → Except DecodeError Instr
  | [] => .error .truncated
  | w :: ws => decodeWord w ws.head?

/-- The little-endian value of some bytes (R9). -/
def leNat : List Byte → Nat
  | [] => 0
  | b :: bs => b.toNat + 256 * leNat bs

/-- `n` little-endian bytes of a value (R9). -/
def leBytes : Nat → Nat → List Byte
  | 0, _ => []
  | n + 1, v => BitVec.ofNat 8 v :: leBytes n (v / 256)

/-- Decoding of bytes as they stand in memory: code words are 4 little-endian bytes (R52). Any bytes past
the second word are not looked at. -/
def decodeBytes (bs : List Byte) : Except DecodeError Instr :=
  if bs.length < 4 then .error .truncated
  else if bs.length < 8 then decodeWords [leNat (bs.take 4)]
  else decodeWords [leNat (bs.take 4), leNat ((bs.drop 4).take 4)]

/-- A word from its primary opcode and its fields, each with the place of its lowest bit. -/
def wordOf (op : Nat) (fs : List (Nat × Nat)) : Nat :=
  op * 2 ^ 24 + (fs.map fun f => f.2 * 2 ^ f.1).sum

/-- The words of an instruction (R60, R64 to R69). A device event has none. -/
def encode : Instr → List Nat
  | .nop => [wordOf 0x00 []]
  | .mov d a g => [wordOf 0x01 [(18, d.toNat), (12, a.toNat), (0, g.toNat)]]
  | .movi d i => [wordOf 0x02 [(18, d.toNat), (0, i.toNat)]]
  | .movhi d i => [wordOf 0x03 [(18, d.toNat), (0, i.toNat)]]
  | .movx d i x => [wordOf 0x04 [(18, d.toNat), (0, i.toNat)], x.toNat]
  | .sel d a b c => [wordOf 0x05 [(18, d.toNat), (12, a.toNat), (6, b.toNat), (0, c.toNat)]]
  | .srd d s => [wordOf 0x06 [(18, d.toNat), (0, s.toNat)]]
  | .swr a s => [wordOf 0x07 [(12, a.toNat), (0, s.toNat)]]
  | .add d a b g => [wordOf 0x08 [(18, d.toNat), (12, a.toNat), (6, b.toNat), (0, g.toNat)]]
  | .sub d a b g => [wordOf 0x09 [(18, d.toNat), (12, a.toNat), (6, b.toNat), (0, g.toNat)]]
  | .addi d a i => [wordOf 0x0A [(18, d.toNat), (12, a.toNat), (0, i.toNat)]]
  | .addc d a b c => [wordOf 0x0B [(18, d.toNat), (12, a.toNat), (6, b.toNat), (0, c.toNat)]]
  | .addSatS32 d a b g => [wordOf 0x0C [(18, d.toNat), (12, a.toNat), (6, b.toNat), (0, g.toNat)]]
  | .addSatZ32 d a b g => [wordOf 0x0D [(18, d.toNat), (12, a.toNat), (6, b.toNat), (0, g.toNat)]]
  | .subSatS32 d a b g => [wordOf 0x0E [(18, d.toNat), (12, a.toNat), (6, b.toNat), (0, g.toNat)]]
  | .subSatZ32 d a b g => [wordOf 0x0F [(18, d.toNat), (12, a.toNat), (6, b.toNat), (0, g.toNat)]]
  | .mul d a b g => [wordOf 0x10 [(18, d.toNat), (12, a.toNat), (6, b.toNat), (0, g.toNat)]]
  | .mulhS32 d a b g => [wordOf 0x11 [(18, d.toNat), (12, a.toNat), (6, b.toNat), (0, g.toNat)]]
  | .mulhZ32 d a b g => [wordOf 0x12 [(18, d.toNat), (12, a.toNat), (6, b.toNat), (0, g.toNat)]]
  | .mad d a b c => [wordOf 0x13 [(18, d.toNat), (12, a.toNat), (6, b.toNat), (0, c.toNat)]]
  | .mulwS32 d a b g => [wordOf 0x14 [(18, d.toNat), (12, a.toNat), (6, b.toNat), (0, g.toNat)]]
  | .mulwZ32 d a b g => [wordOf 0x15 [(18, d.toNat), (12, a.toNat), (6, b.toNat), (0, g.toNat)]]
  | .divS32 d a b g => [wordOf 0x16 [(18, d.toNat), (12, a.toNat), (6, b.toNat), (0, g.toNat)]]
  | .divZ32 d a b g => [wordOf 0x17 [(18, d.toNat), (12, a.toNat), (6, b.toNat), (0, g.toNat)]]
  | .remS32 d a b g => [wordOf 0x18 [(18, d.toNat), (12, a.toNat), (6, b.toNat), (0, g.toNat)]]
  | .remZ32 d a b g => [wordOf 0x19 [(18, d.toNat), (12, a.toNat), (6, b.toNat), (0, g.toNat)]]
  | .minS32 d a b g => [wordOf 0x1A [(18, d.toNat), (12, a.toNat), (6, b.toNat), (0, g.toNat)]]
  | .minZ32 d a b g => [wordOf 0x1B [(18, d.toNat), (12, a.toNat), (6, b.toNat), (0, g.toNat)]]
  | .maxS32 d a b g => [wordOf 0x1C [(18, d.toNat), (12, a.toNat), (6, b.toNat), (0, g.toNat)]]
  | .maxZ32 d a b g => [wordOf 0x1D [(18, d.toNat), (12, a.toNat), (6, b.toNat), (0, g.toNat)]]
  | .absS32 d a g => [wordOf 0x1E [(18, d.toNat), (12, a.toNat), (0, g.toNat)]]
  | .neg d a g => [wordOf 0x1F [(18, d.toNat), (12, a.toNat), (0, g.toNat)]]
  | .and d a b g => [wordOf 0x20 [(18, d.toNat), (12, a.toNat), (6, b.toNat), (0, g.toNat)]]
  | .or d a b g => [wordOf 0x21 [(18, d.toNat), (12, a.toNat), (6, b.toNat), (0, g.toNat)]]
  | .xor d a b g => [wordOf 0x22 [(18, d.toNat), (12, a.toNat), (6, b.toNat), (0, g.toNat)]]
  | .andn d a b g => [wordOf 0x23 [(18, d.toNat), (12, a.toNat), (6, b.toNat), (0, g.toNat)]]
  | .not d a g => [wordOf 0x24 [(18, d.toNat), (12, a.toNat), (0, g.toNat)]]
  | .andi d a i => [wordOf 0x25 [(18, d.toNat), (12, a.toNat), (0, i.toNat)]]
  | .ori d a i => [wordOf 0x26 [(18, d.toNat), (12, a.toNat), (0, i.toNat)]]
  | .xori d a i => [wordOf 0x27 [(18, d.toNat), (12, a.toNat), (0, i.toNat)]]
  | .shl d a b g => [wordOf 0x28 [(18, d.toNat), (12, a.toNat), (6, b.toNat), (0, g.toNat)]]
  | .shr d a b g => [wordOf 0x29 [(18, d.toNat), (12, a.toNat), (6, b.toNat), (0, g.toNat)]]
  | .sra d a b g => [wordOf 0x2A [(18, d.toNat), (12, a.toNat), (6, b.toNat), (0, g.toNat)]]
  | .shli d a s => [wordOf 0x2B [(18, d.toNat), (12, a.toNat), (0, s.toNat)]]
  | .shri d a s => [wordOf 0x2C [(18, d.toNat), (12, a.toNat), (0, s.toNat)]]
  | .srai d a s => [wordOf 0x2D [(18, d.toNat), (12, a.toNat), (0, s.toNat)]]
  | .rotl d a b g => [wordOf 0x2E [(18, d.toNat), (12, a.toNat), (6, b.toNat), (0, g.toNat)]]
  | .rotli d a s => [wordOf 0x2F [(18, d.toNat), (12, a.toNat), (0, s.toNat)]]
  | .popc d a g => [wordOf 0x30 [(18, d.toNat), (12, a.toNat), (0, g.toNat)]]
  | .clz d a g => [wordOf 0x31 [(18, d.toNat), (12, a.toNat), (0, g.toNat)]]
  | .brev d a g => [wordOf 0x32 [(18, d.toNat), (12, a.toNat), (0, g.toNat)]]
  | .bfxS d a l p => [wordOf 0x33 [(18, d.toNat), (12, a.toNat), (5, l.toNat), (0, p.toNat)]]
  | .bfxZ d a l p => [wordOf 0x34 [(18, d.toNat), (12, a.toNat), (5, l.toNat), (0, p.toNat)]]
  | .bfi d a l p => [wordOf 0x35 [(18, d.toNat), (12, a.toNat), (5, l.toNat), (0, p.toNat)]]
  | .lea d a b n => [wordOf 0x36 [(18, d.toNat), (12, a.toNat), (6, b.toNat), (0, n.toNat)]]
  | .add64 d a b g => [wordOf 0x37 [(18, d.toNat), (12, a.toNat), (6, b.toNat), (0, g.toNat)]]
  | .sub64 d a b g => [wordOf 0x38 [(18, d.toNat), (12, a.toNat), (6, b.toNat), (0, g.toNat)]]
  | .addi64 d a i => [wordOf 0x39 [(18, d.toNat), (12, a.toNat), (0, i.toNat)]]
  | .shl64i d a n => [wordOf 0x3A [(18, d.toNat), (12, a.toNat), (0, n.toNat)]]
  | .shr64i d a n => [wordOf 0x3B [(18, d.toNat), (12, a.toNat), (0, n.toNat)]]
  | .fkeyF16 d a g => [wordOf 0x3C [(18, d.toNat), (12, a.toNat), (0, g.toNat)]]
  | .fkeyF32 d a g => [wordOf 0x3D [(18, d.toNat), (12, a.toNat), (0, g.toNat)]]
  | .cmpS32 p a b c => [wordOf 0x40 [(18, p.toNat), (12, a.toNat), (6, b.toNat), (3, c.toNat)]]
  | .cmpZ32 p a b c => [wordOf 0x41 [(18, p.toNat), (12, a.toNat), (6, b.toNat), (3, c.toNat)]]
  | .cmpS64 p a b c => [wordOf 0x42 [(18, p.toNat), (12, a.toNat), (6, b.toNat), (3, c.toNat)]]
  | .cmpZ64 p a b c => [wordOf 0x43 [(18, p.toNat), (12, a.toNat), (6, b.toNat), (3, c.toNat)]]
  | .cmpiS32 p a i c => [wordOf 0x44 [(18, p.toNat), (12, a.toNat), (6, i.toNat), (3, c.toNat)]]
  | .cmpiZ32 p a i c => [wordOf 0x45 [(18, p.toNat), (12, a.toNat), (6, i.toNat), (3, c.toNat)]]
  | .fcmpF32 p a b c => [wordOf 0x46 [(18, p.toNat), (12, a.toNat), (6, b.toNat), (3, c.toNat)]]
  | .fcmpF16 p a b c => [wordOf 0x47 [(18, p.toNat), (12, a.toNat), (6, b.toNat), (3, c.toNat)]]
  | .plog d a b t => [wordOf 0x48 [(19, d.toNat), (14, a.toNat), (9, b.toNat), (0, t.toNat)]]
  | .pmov x r => [wordOf 0x49 [(18, x.toNat), (17, r.toNat)]]
  | .vote d s o => [wordOf 0x4A [(18, d.toNat), (12, s.toNat), (10, o.toNat)]]
  | .faddF32 d a b g => [wordOf 0x50 [(18, d.toNat), (12, a.toNat), (6, b.toNat), (0, g.toNat)]]
  | .fsubF32 d a b g => [wordOf 0x51 [(18, d.toNat), (12, a.toNat), (6, b.toNat), (0, g.toNat)]]
  | .fmulF32 d a b g => [wordOf 0x52 [(18, d.toNat), (12, a.toNat), (6, b.toNat), (0, g.toNat)]]
  | .ffmaF32 d a b c => [wordOf 0x53 [(18, d.toNat), (12, a.toNat), (6, b.toNat), (0, c.toNat)]]
  | .fminF32 d a b g => [wordOf 0x54 [(18, d.toNat), (12, a.toNat), (6, b.toNat), (0, g.toNat)]]
  | .fmaxF32 d a b g => [wordOf 0x55 [(18, d.toNat), (12, a.toNat), (6, b.toNat), (0, g.toNat)]]
  | .fabsF32 d a g => [wordOf 0x56 [(18, d.toNat), (12, a.toNat), (0, g.toNat)]]
  | .fnegF32 d a g => [wordOf 0x57 [(18, d.toNat), (12, a.toNat), (0, g.toNat)]]
  | .frcpF32 d a g => [wordOf 0x58 [(18, d.toNat), (12, a.toNat), (0, g.toNat)]]
  | .frsqF32 d a g => [wordOf 0x59 [(18, d.toNat), (12, a.toNat), (0, g.toNat)]]
  | .fsqrtF32 d a g => [wordOf 0x5A [(18, d.toNat), (12, a.toNat), (0, g.toNat)]]
  | .fexp2F32 d a g => [wordOf 0x5B [(18, d.toNat), (12, a.toNat), (0, g.toNat)]]
  | .flog2F32 d a g => [wordOf 0x5C [(18, d.toNat), (12, a.toNat), (0, g.toNat)]]
  | .fdivF32 d a b g => [wordOf 0x5D [(18, d.toNat), (12, a.toNat), (6, b.toNat), (0, g.toNat)]]
  | .faddRzF32 d a b g => [wordOf 0x5E [(18, d.toNat), (12, a.toNat), (6, b.toNat), (0, g.toNat)]]
  | .ffmaRzF32 d a b c => [wordOf 0x5F [(18, d.toNat), (12, a.toNat), (6, b.toNat), (0, c.toNat)]]
  | .hadd2 d a b g => [wordOf 0x60 [(18, d.toNat), (12, a.toNat), (6, b.toNat), (0, g.toNat)]]
  | .hmul2 d a b g => [wordOf 0x61 [(18, d.toNat), (12, a.toNat), (6, b.toNat), (0, g.toNat)]]
  | .hfma2 d a b c => [wordOf 0x62 [(18, d.toNat), (12, a.toNat), (6, b.toNat), (0, c.toNat)]]
  | .hmin2 d a b g => [wordOf 0x63 [(18, d.toNat), (12, a.toNat), (6, b.toNat), (0, g.toNat)]]
  | .hmax2 d a b g => [wordOf 0x64 [(18, d.toNat), (12, a.toNat), (6, b.toNat), (0, g.toNat)]]
  | .badd2 d a b g => [wordOf 0x65 [(18, d.toNat), (12, a.toNat), (6, b.toNat), (0, g.toNat)]]
  | .bmul2 d a b g => [wordOf 0x66 [(18, d.toNat), (12, a.toNat), (6, b.toNat), (0, g.toNat)]]
  | .bfma2 d a b c => [wordOf 0x67 [(18, d.toNat), (12, a.toNat), (6, b.toNat), (0, c.toNat)]]
  | .bmin2 d a b g => [wordOf 0x68 [(18, d.toNat), (12, a.toNat), (6, b.toNat), (0, g.toNat)]]
  | .bmax2 d a b g => [wordOf 0x69 [(18, d.toNat), (12, a.toNat), (6, b.toNat), (0, g.toNat)]]
  | .cvtF32S32 d a g => [wordOf 0x70 [(18, d.toNat), (12, a.toNat), (0, g.toNat)]]
  | .cvtF32Z32 d a g => [wordOf 0x71 [(18, d.toNat), (12, a.toNat), (0, g.toNat)]]
  | .cvtS32F32Rz d a g => [wordOf 0x72 [(18, d.toNat), (12, a.toNat), (0, g.toNat)]]
  | .cvtS32F32Rn d a g => [wordOf 0x73 [(18, d.toNat), (12, a.toNat), (0, g.toNat)]]
  | .cvtZ32F32Rz d a g => [wordOf 0x74 [(18, d.toNat), (12, a.toNat), (0, g.toNat)]]
  | .cvtF16F32 d a g => [wordOf 0x75 [(18, d.toNat), (12, a.toNat), (0, g.toNat)]]
  | .cvtF16F32Sat d a g => [wordOf 0x76 [(18, d.toNat), (12, a.toNat), (0, g.toNat)]]
  | .cvtBf16F32 d a g => [wordOf 0x77 [(18, d.toNat), (12, a.toNat), (0, g.toNat)]]
  | .cvtF32F16 d a g => [wordOf 0x78 [(18, d.toNat), (12, a.toNat), (0, g.toNat)]]
  | .cvtF32Bf16 d a g => [wordOf 0x79 [(18, d.toNat), (12, a.toNat), (0, g.toNat)]]
  | .cvtb d a f t => [wordOf 0x7A [(18, d.toNat), (12, a.toNat), (8, f.toNat), (3, t.toNat)]]
  | .widb d a f t => [wordOf 0x7B [(18, d.toNat), (12, a.toNat), (8, f.toNat), (3, t.toNat)]]
  | .cvtw d a f => [wordOf 0x7C [(18, d.toNat), (12, a.toNat), (8, f.toNat)]]
  | .xshf d a m => [wordOf 0x80 [(18, d.toNat), (12, a.toNat), (5, m.toNat)]]
  | .xshfw d a k => [wordOf 0x81 [(18, d.toNat), (12, a.toNat), (9, k.toNat)]]
  | .red d a o => [wordOf 0x82 [(18, d.toNat), (12, a.toNat), (7, o.toNat)]]
  | .scan d a o e => [wordOf 0x83 [(18, d.toNat), (12, a.toNat), (7, o.toNat), (6, e.toNat)]]
  | .permb d a b n => [wordOf 0x84 [(18, d.toNat), (12, a.toNat), (6, b.toNat), (5, n.toNat)]]
  | .ldG d a z h g => [wordOf 0x90 [(18, d.toNat), (12, a.toNat), (8, z.toNat), (6, h.toNat), (0, g.toNat)]]
  | .stG d a z h g => [wordOf 0x91 [(18, d.toNat), (12, a.toNat), (8, z.toNat), (6, h.toNat), (0, g.toNat)]]
  | .ldS d a z g => [wordOf 0x92 [(18, d.toNat), (12, a.toNat), (8, z.toNat), (0, g.toNat)]]
  | .stS d a z g => [wordOf 0x93 [(18, d.toNat), (12, a.toNat), (8, z.toNat), (0, g.toNat)]]
  | .ldD d a z g => [wordOf 0x94 [(18, d.toNat), (12, a.toNat), (8, z.toNat), (0, g.toNat)]]
  | .stD d a z g => [wordOf 0x95 [(18, d.toNat), (12, a.toNat), (8, z.toNat), (0, g.toNat)]]
  | .ldaCore d a z h g => [wordOf 0x96 [(18, d.toNat), (12, a.toNat), (8, z.toNat), (6, h.toNat), (0, g.toNat)]]
  | .ldaDev d a z h g => [wordOf 0x97 [(18, d.toNat), (12, a.toNat), (8, z.toNat), (6, h.toNat), (0, g.toNat)]]
  | .ldaSys d a z h g => [wordOf 0x98 [(18, d.toNat), (12, a.toNat), (8, z.toNat), (6, h.toNat), (0, g.toNat)]]
  | .stlCore d a z h g => [wordOf 0x99 [(18, d.toNat), (12, a.toNat), (8, z.toNat), (6, h.toNat), (0, g.toNat)]]
  | .stlDev d a z h g => [wordOf 0x9A [(18, d.toNat), (12, a.toNat), (8, z.toNat), (6, h.toNat), (0, g.toNat)]]
  | .stlSys d a z h g => [wordOf 0x9B [(18, d.toNat), (12, a.toNat), (8, z.toNat), (6, h.toNat), (0, g.toNat)]]
  | .atomCore d a b r o => [wordOf 0x9C [(18, d.toNat), (12, a.toNat), (6, b.toNat), (4, r.toNat), (0, o.toNat)]]
  | .atomDev d a b r o => [wordOf 0x9D [(18, d.toNat), (12, a.toNat), (6, b.toNat), (4, r.toNat), (0, o.toNat)]]
  | .atomSys d a b r o => [wordOf 0x9E [(18, d.toNat), (12, a.toNat), (6, b.toNat), (4, r.toNat), (0, o.toNat)]]
  | .redaDev a b r o => [wordOf 0x9F [(12, a.toNat), (6, b.toNat), (4, r.toNat), (0, o.toNat)]]
  | .redaSys a b r o => [wordOf 0xA0 [(12, a.toNat), (6, b.toNat), (4, r.toNat), (0, o.toNat)]]
  | .fence s => [wordOf 0xA1 [(22, s.toNat)]]
  | .fenceAlias a => [wordOf 0xA2 [(12, a.toNat)]]
  | .pref a h g => [wordOf 0xA3 [(12, a.toNat), (6, h.toNat), (0, g.toNat)]]
  | .marm a g => [wordOf 0xA4 [(12, a.toNat), (0, g.toNat)]]
  | .maps s v l => [wordOf 0xA5 [(18, s.toNat), (12, v.toNat), (6, l.toNat)]]
  | .flushs s l => [wordOf 0xA6 [(18, s.toNat), (12, l.toNat)]]
  | .invs s l => [wordOf 0xA7 [(18, s.toNat), (12, l.toNat)]]
  | .tlbp d a => [wordOf 0xA8 [(18, d.toNat), (12, a.toNat)]]
  | .bra o g => [wordOf 0xC0 [(6, o.toNat), (0, g.toNat)]]
  | .brx a g => [wordOf 0xC1 [(12, a.toNat), (0, g.toNat)]]
  | .call o g => [wordOf 0xC2 [(6, o.toNat), (0, g.toNat)]]
  | .callx a g => [wordOf 0xC3 [(12, a.toNat), (0, g.toNat)]]
  | .ret g => [wordOf 0xC4 [(0, g.toNat)]]
  | .rep c m s => [wordOf 0xC5 [(16, c.toNat), (12, m.toNat), (8, s.toNat)]]
  | .exit g => [wordOf 0xC6 [(0, g.toNat)]]
  | .wait m c s l => [wordOf 0xC8 [(16, m.toNat), (13, c.toNat), (10, s.toNat), (7, l.toNat)]]
  | .mwait d a t => [wordOf 0xC9 [(18, d.toNat), (12, a.toNat), (11, t.toNat)]]
  | .bar o b p => [wordOf 0xCA [(22, o.toNat), (18, b.toNat), (13, p.toNat)]]
  | .barcfg b a => [wordOf 0xCB [(18, b.toNat), (12, a.toNat)]]
  | .cvdecl c l a => [wordOf 0xCC [(21, c.toNat), (20, l.toNat), (12, a.toNat)]]
  | .yield => [wordOf 0xCD []]
  | .ckm m => [wordOf 0xCE [(0, m.toNat)]]
  | .trap c => [wordOf 0xF8 [(0, c.toNat)]]
  | .bkpt i => [wordOf 0xF9 [(0, i.toNat)]]
  | .rft => [wordOf 0xFA []]
  | .haltg s => [wordOf 0xFB [(0, s.toNat)]]
  | .acmark m => [wordOf 0xFC [(0, m.toNat)]]
  | .trk a t => [wordOf 0xFD [(12, a.toNat), (0, t.toNat)]]
  | .copy x c => [wordOf 0xD0 [(18, x.toNat), (9, c.toNat)]]
  | .copyR x c => [wordOf 0xD1 [(18, x.toNat), (9, c.toNat)]]
  | .chain x c => [wordOf 0xD2 [(18, x.toNat), (9, c.toNat)]]
  | .gather x y c => [wordOf 0xD3 [(18, x.toNat), (12, y.toNat), (9, c.toNat)]]
  | .scatter x y c => [wordOf 0xD4 [(18, x.toNat), (12, y.toNat), (9, c.toNat)]]
  | .commit c => [wordOf 0xD5 [(9, c.toNat)]]
  | .enq x y c => [wordOf 0xD6 [(18, x.toNat), (12, y.toNat), (9, c.toNat)]]
  | .evt x c e => [wordOf 0xD7 [(18, x.toNat), (9, c.toNat), (0, e.toNat)]]
  | .atomR x c => [wordOf 0xD8 [(18, x.toNat), (9, c.toNat)]]
  | .tcfg t a => [wordOf 0xE0 [(20, t.toNat), (12, a.toNat)]]
  | .tld t a b c => [wordOf 0xE1 [(20, t.toNat), (14, a.toNat), (8, b.toNat), (5, c.toNat)]]
  | .tst t a b c => [wordOf 0xE2 [(20, t.toNat), (14, a.toNat), (8, b.toNat), (5, c.toNat)]]
  | .tzero t c => [wordOf 0xE3 [(20, t.toNat), (5, c.toNat)]]
  | .qnt d s h a c => [wordOf 0xE4 [(20, d.toNat), (16, s.toNat), (13, h.toNat), (7, a.toNat), (4, c.toNat)]]
  | .tcvt d s c => [wordOf 0xE5 [(20, d.toNat), (16, s.toNat), (13, c.toNat)]]
  | .mmaBf16 a t u c f k => [wordOf 0xE6 [(19, a.toNat), (15, t.toNat), (11, u.toNat), (8, c.toNat), (6, f.toNat), (0, k.toNat)]]
  | .mmaF16 a t u c f k => [wordOf 0xE7 [(19, a.toNat), (15, t.toNat), (11, u.toNat), (8, c.toNat), (6, f.toNat), (0, k.toNat)]]
  | .mmaE4m3 a t u c f k => [wordOf 0xE8 [(19, a.toNat), (15, t.toNat), (11, u.toNat), (8, c.toNat), (6, f.toNat), (0, k.toNat)]]
  | .mmaE5m2 a t u c f k => [wordOf 0xE9 [(19, a.toNat), (15, t.toNat), (11, u.toNat), (8, c.toNat), (6, f.toNat), (0, k.toNat)]]
  | .mmaE2m3 a t u c f k => [wordOf 0xEA [(19, a.toNat), (15, t.toNat), (11, u.toNat), (8, c.toNat), (6, f.toNat), (0, k.toNat)]]
  | .mmaE3m2 a t u c f k => [wordOf 0xEB [(19, a.toNat), (15, t.toNat), (11, u.toNat), (8, c.toNat), (6, f.toNat), (0, k.toNat)]]
  | .mmaE2m1 a t u c f k => [wordOf 0xEC [(19, a.toNat), (15, t.toNat), (11, u.toNat), (8, c.toNat), (6, f.toNat), (0, k.toNat)]]
  | .mmaDl8 a t u c f k => [wordOf 0xED [(19, a.toNat), (15, t.toNat), (11, u.toNat), (8, c.toNat), (6, f.toNat), (0, k.toNat)]]
  | .mmaS8 a t u c f k => [wordOf 0xEE [(19, a.toNat), (15, t.toNat), (11, u.toNat), (8, c.toNat), (6, f.toNat), (0, k.toNat)]]
  | .mmaS4 a t u c f k => [wordOf 0xEF [(19, a.toNat), (15, t.toNat), (11, u.toNat), (8, c.toNat), (6, f.toNat), (0, k.toNat)]]
  | .segn d a b => [wordOf 0xF0 [(18, d.toNat), (12, a.toNat), (6, b.toNat)]]
  | .scacc d p a c => [wordOf 0xF1 [(19, d.toNat), (14, p.toNat), (8, a.toNat), (5, c.toNat)]]
  | .aclr a c => [wordOf 0xF2 [(19, a.toNat), (5, c.toNat)]]
  | .amov a t r c => [wordOf 0xF3 [(19, a.toNat), (15, t.toNat), (14, r.toNat), (5, c.toNat)]]
  | .ast a x b c => [wordOf 0xF4 [(19, a.toNat), (13, x.toNat), (7, b.toNat), (4, c.toNat)]]
  | .ald a x b c => [wordOf 0xF5 [(19, a.toNat), (13, x.toNat), (7, b.toNat), (4, c.toNat)]]
  | .tchk d t c => [wordOf 0xF6 [(18, d.toNat), (14, t.toNat), (11, c.toNat)]]
  | .boostWithdraw _ => []
  | .replayAckTimeout _ => []
  | .lightHoldExpiry _ _ => []
  | .egressStallExpiry _ => []
  | .wadiDrained _ => []
  | .spillTimeout _ => []
  | .linkRequestTimeout _ => []
  | .slotCycle _ => []
  | .noticeExpiry _ _ => []
  | .regroup _ => []
  | .yieldExpiry _ _ => []
  | .deferredFaultDelivery _ _ => []
  | .convergeMismatch _ _ => []
  | .barrierDeadlock _ => []
  | .accessPerformed _ _ => []
  | .laneReplay _ _ => []
  | .pageRequestWrite _ => []
  | .mwaitTimeout _ _ => []
  | .commandComplete _ => []
  | .tileOpPerformed _ _ => []
  | .packetConsume _ => []
  | .packetReady _ => []
  | .kernelLaunch _ => []
  | .copyPacketRun _ => []
  | .packetFinish _ => []
  | .evtReleaseApply _ => []
  | .groupPlace _ _ _ => []
  | .groupEnd _ => []
  | .saveFrameWritten _ => []
  | .restoreComplete _ => []
  | .contextHalted _ => []
  | .stagingComplete _ => []
  | .destroyComplete _ => []
  | .fqRoomPoll _ => []
  | .eventRingWrite _ => []
  | .watchdogTick _ => []
  | .watchdogExpiry _ => []
  | .currentRecord _ => []
  | .vminSample _ _ => []
  | .throttleExpiry _ => []
  | .gatingIdleExpiry _ => []
  | .gatingConfirm _ => []
  | .wakeWaitExpiry _ => []
  | .softStartStep _ => []
  | .attestReport _ => []
  | .neighbourDrawFall _ => []
  | .boostBankRecharged _ => []
  | .bind _ _ => []
  | .preempt _ _ => []
  | .resume _ _ => []
  | .destroy _ _ => []
  | .queueAttach _ => []
  | .queueDetach _ => []
  | .resolve _ _ => []
  | .retire _ => []
  | .horizon _ _ => []
  | .dbgAttach _ _ _ => []
  | .dbgDetach _ _ => []
  | .dbgHalt _ _ _ => []
  | .dbgResume _ _ _ => []
  | .dbgStep _ _ => []
  | .capture _ => []
  | .mirageStop _ => []
  | .replay _ => []
  | .bootGo _ => []
  | .attestGo _ => []
  | .frzrelWrite _ => []
  | .vminvWrite _ => []
  | .lctlEnSet _ _ => []
  | .lctlEnClear _ _ => []
  | .fwwWrite _ _ _ _ => []
  | .expsWrite _ _ _ => []
  | .prqctlWrite _ _ => []
  | .evctlWrite _ _ => []
  | .routeWrite _ _ _ => []
  | .registerWrite _ _ _ _ _ => []
  | .packageColdReset => []
  | .dieWarmReset _ => []
  | .dieLoss _ => []
  | .oasisLoss => []
  | .phaseFail _ _ _ => []
  | .lossOfLight _ _ => []
  | .calicheThermal _ _ => []
  | .hostWrite _ _ _ => []
  | .hostRead _ _ _ => []
  | .hostAtomicop _ _ _ _ _ _ => []
  | .peerRequest _ _ _ => []
  | .flitReceive _ _ => []
  | .trainingLocked _ => []
  | .trainingTimeout _ _ _ => []
  | .restripeAgreed _ => []
  | .leaseExpiry => []
  | .memScrubDamage _ _ => []
  | .telemetryAdd => []
  | .tokenCharge => []
  | .tokenRefill => []
  | .accountSpill => []
  | .imageVerified => []
  | .lightRestored _ _ => []

/-- The class of a primary opcode (R64 to R67): 0 THREAD, 1 MEM, 2 TILE, 3 ENG, 4 CTRL; none where R70 leaves it
unassigned or it is the header mark. -/
def classOf (op : Nat) : Option Nat :=
  if op == 0xC7 then none
  else if op ≤ 0x3D || (0x40 ≤ op && op ≤ 0x4A) || (0x50 ≤ op && op ≤ 0x69) || (0x70 ≤ op && op ≤ 0x7C)
      || (0x80 ≤ op && op ≤ 0x84) then some 0
  else if 0x90 ≤ op && op ≤ 0xA8 then some 1
  else if (0xC0 ≤ op && op ≤ 0xCE) || (0xF8 ≤ op && op ≤ 0xFD) then some 4
  else if 0xD0 ≤ op && op ≤ 0xD8 then some 3
  else if 0xE0 ≤ op && op ≤ 0xF6 then some 2
  else none

/-- A guard that names a predicate beyond P23 (R61). -/
def badGuard (g : BitVec 6) : Bool := 24 ≤ g.toNat % 32 && g.toNat % 32 ≤ 30

/-- A plain predicate field beyond P23 (R61). -/
def badPred (p : Nat) : Bool := 24 ≤ p

/-- PLOG's PA and PB also accept 31, which reads as 1 (R61). -/
def badLogPred (p : Nat) : Bool := 24 ≤ p && p ≠ 31

/-- A register field that is not aligned to its pair or quad (R61). -/
def misPair (k : Nat) (r : BitVec 6) : Bool := r.toNat % k ≠ 0

/-- The registers a size names: 1, 2 or 4 (R206). -/
def szRegs (z : BitVec 4) : Nat := if z = 5#4 then 2 else if z = 6#4 then 4 else 1

/-- The bytes of a size (R207). -/
def szBytes (z : BitVec 4) : Nat :=
  if z = 0#4 ∨ z = 1#4 then 1 else if z = 2#4 ∨ z = 3#4 then 2 else if z = 4#4 then 4
  else if z = 5#4 then 8 else 16

/-- An atomic OP of 64 bits (R68, R213). -/
def op64 (o : BitVec 4) : Bool := o = 1#4 || o = 11#4 || o = 13#4 || o = 14#4 || o = 15#4

/-- The registers of an atomic's B operand (R68): CAS takes the compare and the new value. -/
def opBRegs (o : BitVec 4) : Nat := if o = 13#4 then 4 else if o = 12#4 || op64 o then 2 else 1

/-- The registers of an atomic's old value. -/
def opDRegs (o : BitVec 4) : Nat := if op64 o then 2 else 1

/-- The special registers of R73: `some true` where SWR writes it, `some false` where it is read-only. -/
def sprKind (n : Nat) : Option Bool :=
  if n ≤ 6 || (8 ≤ n && n ≤ 0xA) || (0xC ≤ n && n ≤ 0xE) || (0x10 ≤ n && n ≤ 0x17) then some false
  else if (0x20 ≤ n && n ≤ 0x27) || (0x30 ≤ n && n ≤ 0x41) then some true
  else if (0x42 ≤ n && n ≤ 0x44) || n == 0x50 || n == 0x51 || n == 0x60 || n == 0x61 || n == 0x70 then some false
  else if n == 0x71 || n == 0x72 then some true
  else if n == 0x73 || n == 0x74 then some false
  else none

/-- The first sub-code whose case holds; the cases stand in rising sub-code (R62 step 3). -/
def lowSub : List (Bool × BitVec 8) → Option (BitVec 8)
  | [] => none
  | (c, v) :: rest => if c then some v else lowSub rest

/-- R-format words with registers of widths `kd`, `ka`, `kb`. -/
def illR (kd ka kb : Nat) (d a b g : BitVec 6) : Option (BitVec 8) :=
  lowSub [(badGuard g, 5), (misPair kd d || misPair ka a || misPair kb b, 6)]

/-- Q- and I-format words: register alignment only. -/
def illQ (kd ka kb : Nat) (d a b : BitVec 6) : Option (BitVec 8) :=
  lowSub [(misPair kd d || misPair ka a || misPair kb b, 6)]

/-- Compares: CC 6 and 7 belong to FCMP (R68). -/
def illCmp (float : Bool) (k : Nat) (p a b : BitVec 6) (c : BitVec 3) : Option (BitVec 8) :=
  lowSub [(!float && 6 ≤ c.toNat, 4), (badPred p.toNat, 5), (misPair k a || misPair k b, 6)]

/-- M-format words: SZ and HINT by the word's list of sizes, the guard, the address's and the data's registers. -/
def illM (sizes : List (BitVec 4)) (ka : Nat) (d a : BitVec 6) (z : BitVec 4) (h : BitVec 2) (g : BitVec 6) :
    Option (BitVec 8) :=
  lowSub [(!sizes.contains z || h = 3#2, 4), (badGuard g, 5), (misPair ka a || misPair (szRegs z) d, 6)]

/-- The sizes of loads, of stores and of marked accesses (R206, R212). -/
def loadSizes : List (BitVec 4) := [0, 1, 2, 3, 4, 5, 6]
def storeSizes : List (BitVec 4) := [0, 2, 4, 5, 6]
def markedSizes : List (BitVec 4) := [4, 5]

/-- ATOM and REDA: operand alignment; REDA takes no XCHG, CAS, acquire or acq_rel (R213, R215). -/
def illAtom (red : Bool) (d a b : BitVec 6) (r : BitVec 2) (o : BitVec 4) : Option (BitVec 8) :=
  lowSub [(red && ((10 ≤ o.toNat && o.toNat ≤ 13) || r = 1#2 || r = 3#2), 4),
    (misPair 2 a || misPair (opBRegs o) b || (!red && misPair (opDRegs o) d), 6)]

/-- MMA under FUSE 0 reads TA to TA + 3, TB to TB + 3 and writes ACC to ACC + 3 (R290). -/
def illMma (a : BitVec 5) (t u : BitVec 4) (f : BitVec 2) : Option (BitVec 8) :=
  lowSub [(f = 0#2 && (12 < t.toNat || 12 < u.toNat || 28 < a.toNat), 7)]

/-- The ILLEGAL_OP sub-code of a decoded word, the lowest that holds (R62 step 3, R68, R69, R71). -/
def illegal : Instr → Option (BitVec 8)
  | .nop => none
  | .mov _ _ g => lowSub [(badGuard g, 5)]
  | .movi _ _ => none
  | .movhi _ i => lowSub [(i.toNat / 2 ^ 14 != 0, 7)]
  | .movx d _ _ => lowSub [(misPair 2 d, 6)]
  | .sel _ _ _ c => lowSub [(badGuard c, 5)]
  | .srd _ s => lowSub [(sprKind s.toNat = none, 0x0A)]
  | .swr _ s => lowSub [(sprKind s.toNat = none, 0x0A), (sprKind s.toNat = some false, 0x0B)]
  | .add _ _ _ g => lowSub [(badGuard g, 5)]
  | .sub _ _ _ g => lowSub [(badGuard g, 5)]
  | .addi _ _ _ => none
  | .addc _ _ _ c => lowSub [(badPred c.toNat, 5)]
  | .addSatS32 _ _ _ g => lowSub [(badGuard g, 5)]
  | .addSatZ32 _ _ _ g => lowSub [(badGuard g, 5)]
  | .subSatS32 _ _ _ g => lowSub [(badGuard g, 5)]
  | .subSatZ32 _ _ _ g => lowSub [(badGuard g, 5)]
  | .mul _ _ _ g => lowSub [(badGuard g, 5)]
  | .mulhS32 _ _ _ g => lowSub [(badGuard g, 5)]
  | .mulhZ32 _ _ _ g => lowSub [(badGuard g, 5)]
  | .mad _ _ _ _ => none
  | .mulwS32 d a b g => illR 2 1 1 d a b g
  | .mulwZ32 d a b g => illR 2 1 1 d a b g
  | .divS32 _ _ _ g => lowSub [(badGuard g, 5)]
  | .divZ32 _ _ _ g => lowSub [(badGuard g, 5)]
  | .remS32 _ _ _ g => lowSub [(badGuard g, 5)]
  | .remZ32 _ _ _ g => lowSub [(badGuard g, 5)]
  | .minS32 _ _ _ g => lowSub [(badGuard g, 5)]
  | .minZ32 _ _ _ g => lowSub [(badGuard g, 5)]
  | .maxS32 _ _ _ g => lowSub [(badGuard g, 5)]
  | .maxZ32 _ _ _ g => lowSub [(badGuard g, 5)]
  | .absS32 _ _ g => lowSub [(badGuard g, 5)]
  | .neg _ _ g => lowSub [(badGuard g, 5)]
  | .and _ _ _ g => lowSub [(badGuard g, 5)]
  | .or _ _ _ g => lowSub [(badGuard g, 5)]
  | .xor _ _ _ g => lowSub [(badGuard g, 5)]
  | .andn _ _ _ g => lowSub [(badGuard g, 5)]
  | .not _ _ g => lowSub [(badGuard g, 5)]
  | .andi _ _ _ => none
  | .ori _ _ _ => none
  | .xori _ _ _ => none
  | .shl _ _ _ g => lowSub [(badGuard g, 5)]
  | .shr _ _ _ g => lowSub [(badGuard g, 5)]
  | .sra _ _ _ g => lowSub [(badGuard g, 5)]
  | .shli _ _ _ => none
  | .shri _ _ _ => none
  | .srai _ _ _ => none
  | .rotl _ _ _ g => lowSub [(badGuard g, 5)]
  | .rotli _ _ _ => none
  | .popc _ _ g => lowSub [(badGuard g, 5)]
  | .clz _ _ g => lowSub [(badGuard g, 5)]
  | .brev _ _ g => lowSub [(badGuard g, 5)]
  | .bfxS _ _ l p => lowSub [(32 < p.toNat + l.toNat + 1, 7)]
  | .bfxZ _ _ l p => lowSub [(32 < p.toNat + l.toNat + 1, 7)]
  | .bfi _ _ l p => lowSub [(32 < p.toNat + l.toNat + 1, 7)]
  | .lea d a b _ => illQ 2 2 1 d a b
  | .add64 d a b g => illR 2 2 2 d a b g
  | .sub64 d a b g => illR 2 2 2 d a b g
  | .addi64 d a _ => illQ 2 2 1 d a 0
  | .shl64i d a _ => illQ 2 2 1 d a 0
  | .shr64i d a _ => illQ 2 2 1 d a 0
  | .fkeyF16 _ _ g => lowSub [(badGuard g, 5)]
  | .fkeyF32 _ _ g => lowSub [(badGuard g, 5)]
  | .cmpS32 p a b c => illCmp false 1 p a b c
  | .cmpZ32 p a b c => illCmp false 1 p a b c
  | .cmpS64 p a b c => illCmp false 2 p a b c
  | .cmpZ64 p a b c => illCmp false 2 p a b c
  | .cmpiS32 p a _ c => illCmp false 1 p a 0 c
  | .cmpiZ32 p a _ c => illCmp false 1 p a 0 c
  | .fcmpF32 p a b c => illCmp true 1 p a b c
  | .fcmpF16 p a b c => illCmp true 1 p a b c
  | .plog d a b _ => lowSub [(badPred d.toNat || badLogPred a.toNat || badLogPred b.toNat, 5)]
  | .pmov _ _ => none
  | .vote d s o => if o = 3#2 then lowSub [(badGuard s, 5), (misPair 2 d, 6)]
      else lowSub [(32 ≤ d.toNat, 3), (badPred (d.toNat % 32) || badGuard s, 5)]
  | .faddF32 _ _ _ g => lowSub [(badGuard g, 5)]
  | .fsubF32 _ _ _ g => lowSub [(badGuard g, 5)]
  | .fmulF32 _ _ _ g => lowSub [(badGuard g, 5)]
  | .ffmaF32 _ _ _ _ => none
  | .fminF32 _ _ _ g => lowSub [(badGuard g, 5)]
  | .fmaxF32 _ _ _ g => lowSub [(badGuard g, 5)]
  | .fabsF32 _ _ g => lowSub [(badGuard g, 5)]
  | .fnegF32 _ _ g => lowSub [(badGuard g, 5)]
  | .frcpF32 _ _ g => lowSub [(badGuard g, 5)]
  | .frsqF32 _ _ g => lowSub [(badGuard g, 5)]
  | .fsqrtF32 _ _ g => lowSub [(badGuard g, 5)]
  | .fexp2F32 _ _ g => lowSub [(badGuard g, 5)]
  | .flog2F32 _ _ g => lowSub [(badGuard g, 5)]
  | .fdivF32 _ _ _ g => lowSub [(badGuard g, 5)]
  | .faddRzF32 _ _ _ g => lowSub [(badGuard g, 5)]
  | .ffmaRzF32 _ _ _ _ => none
  | .hadd2 _ _ _ g => lowSub [(badGuard g, 5)]
  | .hmul2 _ _ _ g => lowSub [(badGuard g, 5)]
  | .hfma2 _ _ _ _ => none
  | .hmin2 _ _ _ g => lowSub [(badGuard g, 5)]
  | .hmax2 _ _ _ g => lowSub [(badGuard g, 5)]
  | .badd2 _ _ _ g => lowSub [(badGuard g, 5)]
  | .bmul2 _ _ _ g => lowSub [(badGuard g, 5)]
  | .bfma2 _ _ _ _ => none
  | .bmin2 _ _ _ g => lowSub [(badGuard g, 5)]
  | .bmax2 _ _ _ g => lowSub [(badGuard g, 5)]
  | .cvtF32S32 _ _ g => lowSub [(badGuard g, 5)]
  | .cvtF32Z32 _ _ g => lowSub [(badGuard g, 5)]
  | .cvtS32F32Rz _ _ g => lowSub [(badGuard g, 5)]
  | .cvtS32F32Rn _ _ g => lowSub [(badGuard g, 5)]
  | .cvtZ32F32Rz _ _ g => lowSub [(badGuard g, 5)]
  | .cvtF16F32 _ _ g => lowSub [(badGuard g, 5)]
  | .cvtF16F32Sat _ _ g => lowSub [(badGuard g, 5)]
  | .cvtBf16F32 _ _ g => lowSub [(badGuard g, 5)]
  | .cvtF32F16 _ _ g => lowSub [(badGuard g, 5)]
  | .cvtF32Bf16 _ _ g => lowSub [(badGuard g, 5)]
  | .cvtb _ _ f t => lowSub [(!(3 ≤ f.toNat && f.toNat ≤ 10) || !(0x10 ≤ t.toNat && t.toNat ≤ 0x17), 4)]
  | .widb _ _ f t => lowSub [(!(3 ≤ f.toNat && f.toNat ≤ 10) || !(0x10 ≤ t.toNat && t.toNat ≤ 0x17), 4)]
  | .cvtw _ _ f => lowSub [(!(3 ≤ f.toNat && f.toNat ≤ 11), 4)]
  | .xshf _ _ m => lowSub [(64 ≤ m.toNat, 7)]
  | .xshfw _ _ k => lowSub [(k.toNat == 0 || 7 ≤ k.toNat, 7)]
  | .red _ _ o => lowSub [(10 < o.toNat, 4)]
  | .scan _ _ o _ => lowSub [(10 < o.toNat, 4)]
  | .permb _ _ _ _ => none
  | .ldG d a z h g => illM loadSizes 2 d a z h g
  | .stG d a z h g => illM storeSizes 2 d a z h g
  | .ldS d a z g => illM loadSizes 1 d a z 0 g
  | .stS d a z g => illM storeSizes 1 d a z 0 g
  | .ldD d a z g => illM loadSizes 2 d a z 0 g
  | .stD d a z g => illM storeSizes 2 d a z 0 g
  | .ldaCore d a z h g => illM markedSizes 2 d a z h g
  | .ldaDev d a z h g => illM markedSizes 2 d a z h g
  | .ldaSys d a z h g => illM markedSizes 2 d a z h g
  | .stlCore d a z h g => illM markedSizes 2 d a z h g
  | .stlDev d a z h g => illM markedSizes 2 d a z h g
  | .stlSys d a z h g => illM markedSizes 2 d a z h g
  | .atomCore d a b r o => illAtom false d a b r o
  | .atomDev d a b r o => illAtom false d a b r o
  | .atomSys d a b r o => illAtom false d a b r o
  | .redaDev a b r o => illAtom true 0 a b r o
  | .redaSys a b r o => illAtom true 0 a b r o
  | .fence s => lowSub [(s = 3#2, 4)]
  | .fenceAlias a => lowSub [(misPair 2 a, 6)]
  | .pref a h g => lowSub [(h = 3#2, 4), (badGuard g, 5), (misPair 2 a, 6)]
  | .marm a g => lowSub [(badGuard g, 5), (misPair 2 a, 6)]
  | .maps _ v _ => lowSub [(misPair 2 v, 6)]
  | .flushs _ _ => none
  | .invs _ _ => none
  | .tlbp d a => lowSub [(misPair 2 d || misPair 2 a, 6)]
  | .bra _ g => lowSub [(badGuard g, 5)]
  | .brx a g => lowSub [(badGuard g, 5), (misPair 2 a, 6)]
  | .call _ g => lowSub [(badGuard g, 5)]
  | .callx a g => lowSub [(badGuard g, 5), (misPair 2 a, 6)]
  | .ret g => lowSub [(badGuard g, 5)]
  | .rep _ _ _ => none
  | .exit g => lowSub [(badGuard g, 5)]
  | .wait _ _ _ _ => none
  | .mwait _ a t => lowSub [(t = 0#1 && a ≠ 0#6, 3)]
  | .bar o _ p => if o = 3#2 then lowSub [(badPred p.toNat, 5)] else lowSub [(p ≠ 0#5, 3)]
  | .barcfg _ _ => none
  | .cvdecl _ l a => if l = 1#1 then lowSub [(a ≠ 0#6, 3)] else lowSub [(misPair 2 a, 6)]
  | .yield => none
  | .ckm m => lowSub [(m = 3#2, 4)]
  | .trap _ => none
  | .bkpt _ => none
  | .rft => none
  | .haltg _ => none
  | .acmark _ => none
  | .trk _ _ => none
  | .copy _ _ => none
  | .copyR _ _ => none
  | .chain _ _ => none
  | .gather _ _ _ => none
  | .scatter _ _ _ => none
  | .commit _ => none
  | .enq x _ _ => lowSub [(misPair 2 x, 6)]
  | .evt x _ e => lowSub [(e ≠ 0x20#8 && e ≠ 0x21#8, 4), (e = 0x20#8 && misPair 2 x, 6)]
  | .atomR _ _ => none
  | .tcfg _ _ => none
  | .tld _ a _ _ => lowSub [(misPair 2 a, 6)]
  | .tst _ a _ _ => lowSub [(misPair 2 a, 6)]
  | .tzero _ _ => none
  | .qnt _ _ _ _ _ => none
  | .tcvt _ _ _ => none
  | .mmaBf16 a t u _ f _ => illMma a t u f
  | .mmaF16 a t u _ f _ => illMma a t u f
  | .mmaE4m3 a t u _ f _ => illMma a t u f
  | .mmaE5m2 a t u _ f _ => illMma a t u f
  | .mmaE2m3 a t u _ f _ => illMma a t u f
  | .mmaE3m2 a t u _ f _ => illMma a t u f
  | .mmaE2m1 a t u _ f _ => illMma a t u f
  | .mmaDl8 a t u _ f _ => illMma a t u f
  | .mmaS8 a t u _ f _ => illMma a t u f
  | .mmaS4 a t u _ f _ => illMma a t u f
  | .segn d _ _ => lowSub [(misPair 2 d, 6)]
  | .scacc _ _ _ _ => none
  | .aclr _ _ => none
  | .amov _ _ _ _ => none
  | .ast _ x _ _ => lowSub [(misPair 2 x, 6)]
  | .ald _ x _ _ => lowSub [(misPair 2 x, 6)]
  | .tchk _ _ _ => none
  | .boostWithdraw _ => none
  | .replayAckTimeout _ => none
  | .lightHoldExpiry _ _ => none
  | .egressStallExpiry _ => none
  | .wadiDrained _ => none
  | .spillTimeout _ => none
  | .linkRequestTimeout _ => none
  | .slotCycle _ => none
  | .noticeExpiry _ _ => none
  | .regroup _ => none
  | .yieldExpiry _ _ => none
  | .deferredFaultDelivery _ _ => none
  | .convergeMismatch _ _ => none
  | .barrierDeadlock _ => none
  | .accessPerformed _ _ => none
  | .laneReplay _ _ => none
  | .pageRequestWrite _ => none
  | .mwaitTimeout _ _ => none
  | .commandComplete _ => none
  | .tileOpPerformed _ _ => none
  | .packetConsume _ => none
  | .packetReady _ => none
  | .kernelLaunch _ => none
  | .copyPacketRun _ => none
  | .packetFinish _ => none
  | .evtReleaseApply _ => none
  | .groupPlace _ _ _ => none
  | .groupEnd _ => none
  | .saveFrameWritten _ => none
  | .restoreComplete _ => none
  | .contextHalted _ => none
  | .stagingComplete _ => none
  | .destroyComplete _ => none
  | .fqRoomPoll _ => none
  | .eventRingWrite _ => none
  | .watchdogTick _ => none
  | .watchdogExpiry _ => none
  | .currentRecord _ => none
  | .vminSample _ _ => none
  | .throttleExpiry _ => none
  | .gatingIdleExpiry _ => none
  | .gatingConfirm _ => none
  | .wakeWaitExpiry _ => none
  | .softStartStep _ => none
  | .attestReport _ => none
  | .neighbourDrawFall _ => none
  | .boostBankRecharged _ => none
  | .bind _ _ => none
  | .preempt _ _ => none
  | .resume _ _ => none
  | .destroy _ _ => none
  | .queueAttach _ => none
  | .queueDetach _ => none
  | .resolve _ _ => none
  | .retire _ => none
  | .horizon _ _ => none
  | .dbgAttach _ _ _ => none
  | .dbgDetach _ _ => none
  | .dbgHalt _ _ _ => none
  | .dbgResume _ _ _ => none
  | .dbgStep _ _ => none
  | .capture _ => none
  | .mirageStop _ => none
  | .replay _ => none
  | .bootGo _ => none
  | .attestGo _ => none
  | .frzrelWrite _ => none
  | .vminvWrite _ => none
  | .lctlEnSet _ _ => none
  | .lctlEnClear _ _ => none
  | .fwwWrite _ _ _ _ => none
  | .expsWrite _ _ _ => none
  | .prqctlWrite _ _ => none
  | .evctlWrite _ _ => none
  | .routeWrite _ _ _ => none
  | .registerWrite _ _ _ _ _ => none
  | .packageColdReset => none
  | .dieWarmReset _ => none
  | .dieLoss _ => none
  | .oasisLoss => none
  | .phaseFail _ _ _ => none
  | .lossOfLight _ _ => none
  | .calicheThermal _ _ => none
  | .hostWrite _ _ _ => none
  | .hostRead _ _ _ => none
  | .hostAtomicop _ _ _ _ _ _ => none
  | .peerRequest _ _ _ => none
  | .flitReceive _ _ => none
  | .trainingLocked _ => none
  | .trainingTimeout _ _ _ => none
  | .restripeAgreed _ => none
  | .leaseExpiry => none
  | .memScrubDamage _ _ => none
  | .telemetryAdd => none
  | .tokenCharge => none
  | .tokenRefill => none
  | .accountSpill => none
  | .imageVerified => none
  | .lightRestored _ _ => none

/-- A row's word, its bits above `nbits` zero, as the decoder reads it (bit 0 is the least significant bit of the
first word). -/
def decodeTableWord (_nbits w : Nat) : Option Instr :=
  match decodeBytes (leBytes 8 w) with
  | .ok i => some i
  | .error _ => none

end Sys2Proof
end

