-- ==== Sys2Proof/Machine/Table.lean ====
section
/-! DEFINITION. Tables as sorted lists of key and value pairs. `get`/`set` use a default that is never listed,
so that equal tables are equal lists; `find?`/`put` list every value written. -/

namespace Sys2Proof.Machine

/-- A table keyed by numbers: keys strictly rising. -/
abbrev Tbl (α : Type) := List (Nat × α)

/-- The value listed at `k`. -/
def Tbl.find? {α : Type} : Tbl α → Nat → Option α
  | [], _ => none
  | (k', v) :: t, k => if k' = k then some v else Tbl.find? t k

/-- The value at `k`, `d` where none is listed. -/
def Tbl.get {α : Type} (d : α) (t : Tbl α) (k : Nat) : α := (Tbl.find? t k).getD d

/-- List `v` at `k`, in place of what was there. -/
def Tbl.put {α : Type} : Tbl α → Nat → α → Tbl α
  | [], k, v => [(k, v)]
  | (k', v') :: t, k, v =>
    if k < k' then (k, v) :: (k', v') :: t
    else if k = k' then (k, v) :: t
    else (k', v') :: Tbl.put t k v

/-- Remove what is listed at `k`. -/
def Tbl.erase {α : Type} : Tbl α → Nat → Tbl α
  | [], _ => []
  | (k', v') :: t, k => if k' = k then Tbl.erase t k else (k', v') :: Tbl.erase t k

/-- Make `k` read as `v` in a table whose default is `d`. -/
def Tbl.set {α : Type} [DecidableEq α] (d : α) (t : Tbl α) (k : Nat) (v : α) : Tbl α :=
  if v = d then Tbl.erase t k else Tbl.put t k v

/-- Change the value listed at `k`, if any. -/
def Tbl.modify {α : Type} : Tbl α → Nat → (α → α) → Tbl α
  | [], _, _ => []
  | (k', v') :: t, k, f => if k' = k then (k', f v') :: t else (k', v') :: Tbl.modify t k f

/-- The values in key order. -/
def Tbl.vals {α : Type} (t : Tbl α) : List α := t.map Prod.snd

/-- Keys strictly rising. -/
def Tbl.sorted {α : Type} : Tbl α → Bool
  | [] => true
  | [_] => true
  | (k, _) :: (k', v') :: t => decide (k < k') && Tbl.sorted ((k', v') :: t)

/-- The canonical form: keys strictly rising and no entry equal to the default. -/
def Tbl.canonical {α : Type} [DecidableEq α] (d : α) (t : Tbl α) : Bool :=
  Tbl.sorted t && t.all fun e => decide (e.2 ≠ d)

end Sys2Proof.Machine
end

