-- ==== Sys2Proof/Machine/State.lean ====
section
/-! DEFINITION. The state of the package as plain data: everything the spec gives the machine, and State.reset,
the package right after a cold reset. INVENTORY.md lists each field with its rule. -/

namespace Sys2Proof.Machine

/-! ### Threads (07_thread.md) -/

/-- A position: the PC, the words left in the clause and the clause's header word (R58). `left = 0`: the thread
stands before the header at `pc`, which it has not entered yet. -/
structure Pos where
  pc : W64
  left : Nat
  hdr : W32
  deriving DecidableEq, Repr

/-- The repeat state of an active REP (R129, R138): `word` is the repeated word as the REP checked it, with its base
fields. -/
structure Rep where
  count : Nat
  stride : Nat
  mark : BitVec 4
  iter : Nat
  word : W32
  deriving DecidableEq, Repr

/-- The fault a handler is handling: XCODE, XPC with the words left, XADDR, the repeat state it interrupted (kept apart
from that of a REP the handler itself runs; DESIGN CHOICE, log 21), and whether the handler wrote XPCL or XPCH (R58, R73,
R130, R176). -/
structure Handler where
  code : Byte
  sub : Byte
  addr : W64
  saved : Pos
  rep : Option Rep
  moved : Bool
  deriving DecidableEq, Repr

/-- The thresholds of a WAIT or a header for the counters L, S, C and M; 7 asks for nothing (R53, R240). -/
structure Waits where
  l : Nat
  s : Nat
  c : Nat
  m : Nat
  deriving DecidableEq, Repr

/-- What a WAITING thread waits on (R130, R393). -/
inductive Wait where
  | header (w : Waits)          -- a clause header's counters (R54)
  | notice                      -- a PN notice (R55)
  | counters (w : Waits)        -- a WAIT's counters (R240)
  | fence                       -- FENCE (R230)
  | aliased (page bits node : Nat) -- FENCE.ALIAS, for the thread's stores and atomics to a physical page (R233)
  | barrier (b : Nat)           -- a BAR, for the open generation (R245)
  | rearrive (b : Nat) (sync : Bool) -- a BAR's re-arrival, blocked by the open generation (R244, R245)
  | converge                    -- a convergent word (R140)
  | monitor (limit : Option Nat) -- MWAIT (R220)
  | haltg                       -- HALTG (R128)
  | sign (cv : Nat)             -- waiting to sign a register again (R293)
  | engine (cv : Nat)           -- a signer of an ENQ or EVT not performed yet (R100, R110)
  deriving DecidableEq, Repr

/-- Run states (R130). A STOPPED thread remembers what it waited on. -/
inductive RunState where
  | runnable
  | waiting (w : Wait)
  | stopped (w : Option Wait)
  | exited
  deriving DecidableEq, Repr

/-- A thread's monitor: the physical sector, when it was armed, the first wake's code and its time (R217, R218). -/
structure Monitor where
  sector : Nat
  stamp : Nat
  code : Option Nat
  woken : Nat
  deriving DecidableEq, Repr

/-- A failure found after issue, still to be delivered (R259, R294, R394): the number of its operation, in issue order;
the class (0 L, 1 S, 2 C, 3 M) and operation that a WAIT or header must find performed first, if any; its fault, the
word of its record, whether its record is written, and whether it was known when an earlier one was delivered and so
waits for the return from that handler. -/
structure Late where
  stamp : Nat
  needs : Option (Nat × Nat)
  code : Byte
  sub : Byte
  addr : W64
  word : W64
  recorded : Bool
  held : Bool
  deriving DecidableEq, Repr

/-- A thread (R129). `again` is the operation a memory word already counts as when the thread takes it again: after a
page fault (R209) or in a replay pass (R211, `pass`); `last` is the word or header it completed last (R146); `notice` is the header
whose notice `noticeLeft` counts down (R55). -/
structure Thread where
  tid : Nat
  pos : Pos
  x : Tbl W32
  p : BitVec 24
  stack : List Pos
  rep : Option Rep
  ptimeh : W32
  handler : Option Handler
  run : RunState
  monitor : Option Monitor
  late : List Late
  yieldLeft : Nat
  noticeLeft : Nat
  notice : Option W64
  skipBreak : Bool
  stepping : Bool
  again : Option Nat
  pass : Bool
  part : Option Nat
  last : W64
  deriving DecidableEq, Repr

/-! ### Warps and groups (06_group.md, 11_ordering.md, 12_barrier.md, 16_tile.md) -/

/-- A frontier entry: its threads and their key (PC, depth, handler flag, REP iteration), its age and, once due, its place
in the slot's due order (R133, R134). -/
structure Entry where
  key : W64 × Nat × Bool × Nat
  tids : List Nat
  age : Nat
  due : Option Nat
  deriving DecidableEq, Repr

/-- A warp: its outstanding operations of each class, oldest first (R236, R237), check mode, CHKSTAT, open copy
batch, core position and frontier. `mode`: 0 EXACT, 1 CHECKED, 2 TOLERANT. -/
structure Warp where
  lq : List Nat
  sq : List Nat
  cq : List Nat
  mq : List Nat
  mode : Nat
  chkstat : W32
  batch : Option Nat
  place : Nat
  entries : List Entry
  deriving DecidableEq, Repr

/-- A named barrier: member warps and the threads with a pending arrival (R243). -/
structure Barrier where
  wmask : BitVec 16
  pend : List Nat
  deriving DecidableEq, Repr

/-- States of a convergence register (R293). -/
inductive CvState where
  | unset | ready | gathering
  deriving DecidableEq, Repr

/-- A convergence register: its set, whether it is an all set, the signatures, the recorded word and its PC, and the
accesses the signers had not yet performed when they signed (R239, R292, R293). -/
structure Cv where
  st : CvState
  all : Bool
  members : List Nat
  signed : List Nat
  pc : W64
  word : Option Instr
  waits : List Nat
  deriving DecidableEq, Repr

/-- A scratch window: scratch offset, virtual base, length, the filled blocks, those that a store may change, those of them
filled under WR (R276), and the marked bytes; of these, the ones a write-back in flight has captured and no store has changed
since (R275); what a peer has answered to a fill, by block and request, and a fill's failure (R274). -/
structure Window where
  s : Nat
  v : W64
  len : Nat
  filled : List Nat
  writable : List Nat
  underWr : List Nat
  marks : List Nat
  flushing : List Nat
  got : List (Nat × Nat × List Byte)
  failed : Option (Nat × Byte × Byte)
  deriving DecidableEq, Repr

/-- A hold on a group (R123): by another group's HALTG, by a debugger at a scope, by a frozen core. -/
inductive Hold where
  | group (uid : Nat)
  | debugger (scope : Nat)
  | freeze
  deriving DecidableEq, Repr

/-- States of a group (R123). A HALTED group remembers whether it was DUMPING. -/
inductive GroupState where
  | running | dumping
  | halted (dump : Bool)
  | saving | saved | restoring | ended
  deriving DecidableEq, Repr

/-- Storage the spec leaves undefined until written: the number of its undefined content and the cells written. -/
structure Store (α : Type) where
  seed : Nat
  cells : Tbl α
  deriving DecidableEq, Repr

/-- A fault record held or about to be written (R89). -/
structure FaultRec where
  fin : Bool
  hnd : Bool
  die : Nat
  sub : Byte
  code : Byte
  time : Nat
  pc : W64
  addr : W64
  grp : Nat
  kern : Nat
  detail : Nat
  core : Nat
  tid : Nat
  item : W64
  deriving DecidableEq, Repr

/-- How far an ENQ with a peer has come (R100): the image is being written; the tail link is read; it is exchanged for the value
expected, with the places of that packet's NEXT; NEXT is being written. -/
inductive SwapPhase where
  | image
  | read
  | exchange (old : W64) (pas vas : List Nat) (node : Nat)
  | link (old : W64)
  deriving DecidableEq, Repr

/-- An ENQ that awaits a peer's answer (R100): the member that issues, the word, the tail link with its place and node, P, the
number of what was asked, and how far it has come. -/
structure Swap where
  tid : Nat
  pc : W64
  tl : W64
  p : W64
  tpa : Nat
  node : Nat
  num : Nat
  phase : SwapPhase
  deriving DecidableEq, Repr

/-- A group (R121, R122). `count`, `why` and `active`: its hang count in µs, the sub-code of what last advanced it, and
whether it made progress in the running µs (R126). `pages` are the addresses it faulted on (R273); `saveSize` the bytes of
its frame in use (R124); `deepIn`: its deep scratch lies in its die's units, saved or not (R85); `ending`: the record that ends
it, while that is held (R91). -/
structure Group where
  ctx : Nat
  kern : Nat
  lin : Nat
  gx : Nat
  gy : Nat
  gz : Nat
  core : Nat
  firstCore : Nat
  st : GroupState
  ret : GroupState
  threads : Tbl Thread
  warps : Tbl Warp
  barriers : Tbl Barrier
  cvs : Tbl Cv
  hseed : Tbl W32
  retrymax : W32
  tcs : Store W32
  scratch : Store Byte
  deep : Store Byte
  tiles : Tbl (Store Byte)
  accs : Tbl (Store W32)
  windows : List Window
  holds : List Hold
  holder : Option Nat
  scope : Nat
  targets : List Nat
  count : Nat
  why : Nat
  active : Bool
  frame : Option Nat
  cause : Nat
  pages : List W64
  saveTime : Nat
  saveSize : Nat
  deepIn : Bool
  swaps : List Swap
  failing : Option (Byte × Byte)
  ending : Option FaultRec
  deriving DecidableEq, Repr

/-! ### Operations in flight (10_memory.md, 11_ordering.md, 13_engines.md, 17_tile_instructions.md) -/

/-- Scopes (R222). -/
inductive Scope where
  | core | device | system
  deriving DecidableEq, Repr

/-- The level an access names (R197). -/
inductive Level where
  | global | scratch | deep
  deriving DecidableEq, Repr

/-- What an access does (R207, R213, R215, R276, R277). -/
inductive AccKind where
  | load
  | store
  | atom (op : BitVec 4)
  | reda (op : BitVec 4)
  | tlbp
  | writeBack
  deriving DecidableEq, Repr

/-- One thread's access, issued and not yet performed (R208). `pas` are the physical bytes, lowest address first,
`vas` the virtual bytes behind them; `node` a peer (R274); `req` the request that carries it. For a write-back `data`
holds the bytes it captured, `offs` their scratch offsets, and `wr` says that its block was not filled under WR (R276).
`ctx`, `kern` and `lin` outlive its group (R90); `paged` is the page it waits for (R270). -/
structure Access where
  id : Nat
  grp : Nat
  tid : Nat
  warp : Nat
  core : Nat
  op : Nat
  kind : AccKind
  level : Level
  scope : Scope
  marked : Bool
  acquire : Bool
  release : Bool
  pc : W64
  va : W64
  pas : List Nat
  node : Nat
  size : Nat
  data : Nat
  cmp : Nat
  dst : Nat
  sext : Bool
  expiry : Nat
  req : Option Nat
  vas : List Nat
  ctx : Nat
  kern : Nat
  lin : Nat
  paged : Option W64
  key : Option Nat
  offs : List Nat
  wr : Bool
  deriving DecidableEq, Repr

/-- Life of an engine command (R250, R259): not run yet, its requests to a peer sent, or ended. -/
inductive CmdState where
  | waiting | sent | done
  deriving DecidableEq, Repr

/-- The engine's command kinds (R255, R256, R345, R346). -/
inductive CmdKind where
  | copy | copyR | chain | gather | scatter | atomR
  deriving DecidableEq, Repr

/-- An engine command with its block as read at issue (R251, R252). `owner` is the issuing group and thread; a
packet's command has none (R262). `paged` is the page it waits for, `got` what a peer has answered, by request, `wrote`:
its writes have been made or sent. -/
structure Cmd where
  id : Nat
  batch : Nat
  idx : Nat
  ctx : Nat
  cluster : Nat
  owner : Option (Nat × Nat)
  warp : Nat
  pc : W64
  kind : CmdKind
  block : List W64
  list : Nat
  seed : W32
  st : CmdState
  paged : Option W64
  got : List (Nat × List Byte)
  wrote : Bool
  deriving DecidableEq, Repr

/-- A copy batch (R238, R250): the warp it counts in, or the packet that runs it. -/
structure Batch where
  no : Nat
  ctx : Nat
  grp : Option (Nat × Nat)
  pkt : Option Nat
  cluster : Nat
  next : Nat
  closed : Bool
  deriving DecidableEq, Repr

/-- The tile operations with their operands as read at issue (R302). -/
inductive TileKind where
  | tld (t : Nat) (addr : W64) (stride : W64)
  | tst (t : Nat) (addr : W64) (stride : W64)
  | tzero (t : Nat)
  | qnt (d s thr : Nat) (off : Nat)
  | tcvt (d s : Nat)
  | mma (fmt acc ta tb fuse : Nat) (off len : Nat) (mode retry : Nat)
  | scacc (ad ap : Nat) (sa sb : List Byte)
  | aclr (a : Nat)
  | amovIn (a t : Nat)
  | amovOut (a t : Nat)
  | ast (a : Nat) (addr : W64) (cfg : W32)
  | ald (a : Nat) (addr : W64) (cfg : W32)
  | tchk (d t : Nat) (signers : List Nat)
  deriving DecidableEq, Repr

/-- A tile operation in a core's matrix queue: the TCn values and seeds it read at issue (R287, R302), the page it waits for,
what peers have been asked and have answered, the first element on a peer that failed, and how many elements a store has
written (R304). -/
structure TileOp where
  id : Nat
  grp : Nat
  warp : Nat
  tid : Nat
  pc : W64
  kind : TileKind
  tcs : Tbl W32
  seeds : Tbl W32
  nbv : Nat
  paged : Option W64
  asked : Bool
  got : List (Nat × List Byte)
  failed : Option (Nat × Byte × Byte)
  wrote : Nat
  deriving DecidableEq, Repr

/-! ### Contexts, queues, kernels (03 to 05) -/

/-- STATE values of a context (R86). -/
inductive CtxState where
  | unbound | saved | running | halting | staging | stopped | destroying
  deriving DecidableEq, Repr

/-- A bound context (R81): the CCB as read at BIND or RESUME and the fields the device keeps. -/
structure Ctx where
  st : CtxState
  pre : Bool
  port : Fin 2
  ccb : Nat
  tenant : Nat
  nbvd : Nat
  deep : Nat
  lease : Nat
  ptroot : Nat
  lhor : Nat
  accb : Nat
  accn : Nat
  accw : W32
  spb : Nat
  spn : Nat
  spw : W32
  fqb : Nat
  fqvec : Nat
  fqi : Bool
  fqsz : Nat
  fqwr : W32
  saveb : W64
  vtab : Nat
  snum : Nat
  sden : Nat
  tdies : BitVec 8
  dlost : BitVec 8
  lastop : Nat
  kernNext : Nat
  batchNext : Nat
  held : List FaultRec
  frames : List Nat
  debug : Option Nat
  requests : List (W64 × Nat)
  deriving DecidableEq, Repr

/-- A sum of shares of a core-µs, exact: `num / den` tokens (R106). -/
structure Share where
  num : Nat
  den : Nat
  deriving DecidableEq, Repr

/-- A region pushed on a queue's stack, with its RCB's fields as read at the push (R103, R104), the tokens its subtree has
spent in the period, its context and cluster, and the count it has still to write to TUSED, with the page that write waits
for (R395). -/
structure Region where
  rcb : W64
  parent : Option Nat
  tok : Nat
  fd : Nat
  prio : Option Nat
  maxc : Nat
  mq : Nat
  depth : Nat
  spent : Share
  ctx : Nat
  clu : Nat
  owed : Option Nat
  paged : Option W64
  deriving DecidableEq, Repr

/-- An attached queue (R93, R94). `blocked`: the last read of NEXT or packet failed and awaits a write (R395);
`monitor`: the armed sector and when it was armed; `link`: the bytes of a NEXT whose packet failed, which is tried again when
they are written; `failed`: the fault of a NEXT that could not be translated, and when it
is read again; `detachPort`: a DETACH is running. -/
structure Queue where
  qcb : Nat
  ctx : Nat
  clu : Nat
  dop : Nat
  last : W64
  region : Nat
  blocked : Bool
  paged : Option W64
  monitor : Option (Nat × Nat)
  link : Option (List Nat)
  failed : Option (Byte × Byte × Nat)
  detachPort : Option (Fin 2)
  detached : Bool
  deriving DecidableEq, Repr

/-- The life of a consumed packet (R96, R101, R102, R115). `pending` waits for its dependences; a `finished` one has its
status still to be written, and is gone afterwards. -/
inductive PktState where
  | pending | ready | launching | running | finished
  deriving DecidableEq, Repr

/-- A consumed packet: its image as read, region, owner and outcome (R95 to R102). `quiet`: it ends without a record
(R84, R94). -/
structure Pkt where
  addr : W64
  ctx : Nat
  queue : Nat
  owner : Nat
  img : List W64
  region : Nat
  st : PktState
  paged : Option W64
  status : Nat
  code : Byte
  sub : Byte
  val : Nat
  readyTime : Nat
  startTime : Nat
  point : Nat
  released : Nat
  wrote : Bool
  quiet : Bool
  deriving DecidableEq, Repr

/-- States of a kernel (R115). -/
inductive KernState where
  | placing | running | failing | done | failed | discarded
  deriving DecidableEq, Repr

/-- A launched kernel: its descriptor's fields (R111), the values fixed at launch (R113) and its progress; `fail`: the code,
sub-code, group and die of its first failure (R89, R117). -/
structure Kernel where
  ctx : Nat
  id : Nat
  pkt : Nat
  entry : W64
  trapv : W64
  gdimx : Nat
  gdimy : Nat
  gdimz : Nat
  gszx : Nat
  gszy : Nat
  gszz : Nat
  allot : Nat
  tiles : Nat
  accs : Nat
  ckm : Nat
  nbv : Nat
  scru : Nat
  deepu : Nat
  agel : Nat
  aest : Bool
  kdesc : W64
  args : W64
  est : Nat
  point : Nat
  prio : Nat
  readyTime : Nat
  region : Nat
  next : Nat
  st : KernState
  fail : Option (Byte × Byte × Nat × Nat)
  start : Option Nat
  tolerant : Bool
  floatUnits : List Nat
  units : List Nat
  estimate : Option Nat
  deriving DecidableEq, Repr

/-- A completion record or an event posted to a cluster's event queue (R107, R110). -/
structure Completion where
  pkt : W64
  val : Nat
  late : Bool
  sub : Byte
  code : Byte
  kind : Nat
  time : Nat
  ctx : Nat
  deriving DecidableEq, Repr

/-! ### Cores, clusters, dies, ports -/

/-- Slipface states (R324). -/
inductive SlipState where
  | track | hold | pinned | escalated
  deriving DecidableEq, Repr

/-- A core's accumulator (R351). -/
structure Accum where
  ctx : Nat
  kern : Nat
  pc : W64
  cause : Nat
  count : Nat
  last : Nat
  deriving DecidableEq, Repr

/-- A slot's charge of a cycle that no accumulator holds yet (R348). -/
structure Charge where
  ctx : Nat
  kern : Nat
  pc : W64
  cause : Nat
  deriving DecidableEq, Repr

/-- An L1 sector of 64 bytes, held by view address (R285); `line` is the virtual address div 64, `pas` its physical
bytes; `bad` are the threads that have written or read newer bytes of it under another view address, and may not read it
(R225, R234). -/
structure L1Line where
  ctx : Nat
  line : Nat
  data : List (Nat × Byte)
  pas : List Nat
  expiry : Nat
  bad : List (Nat × Nat)
  deriving DecidableEq, Repr

/-- Extra passes that a slot still owes a word: whose they are, and how many (R200, R202). -/
structure Busy where
  ctx : Nat
  kern : Nat
  pc : W64
  left : Nat
  deriving DecidableEq, Repr

/-- A Slipface update that waits for an earlier MMA of the queue (R323): its MMA's number, num, den and c. -/
structure SlipDue where
  op : Nat
  num : Nat
  den : Nat
  c : Nat
  deriving DecidableEq, Repr

/-- Slot-cycles granted in a µs to a context's kernels under a region (R106): the tenant and region to be charged. -/
structure Grant where
  ctx : Nat
  tenant : Nat
  region : Option Nat
  n : Nat
  deriving DecidableEq, Repr

/-- A core: trim and Slipface (R321 to R325), cycle counts (R350), accumulators (R351), the charges of its last cycle, the
slot-cycles granted in the running µs by context, tenant and region (R106), the last ACMARK's operation (R353), matrix queue
(R291), L1, slot preferences (R53), sample count (R354), the passes its slots still owe (R200), Slipface updates held back
(R323). -/
structure Core where
  trim : Nat
  debt : Int
  slip : SlipState
  holdn : Nat
  kept : Nat
  keptState : SlipState
  keptHoldn : Nat
  ramp : Nat
  cyc : Nat
  idle : Nat
  accums : List Accum
  charges : List Charge
  granted : List Grant
  marks : List Nat
  tileq : List TileOp
  l1 : List L1Line
  yh : Tbl Nat
  dueNext : Nat
  sample : Nat
  busy : Tbl Busy
  slipDue : List SlipDue
  deriving DecidableEq, Repr

/-- A packet that an EVT RELEASE named, with the page its word waits for (R110, R395). -/
structure Release where
  ctx : Nat
  pkt : W64
  paged : Option W64
  deriving DecidableEq, Repr

/-- Gating states of a cluster (R120). -/
inductive GateState where
  | awake | idle | handshake | gated | waking
  deriving DecidableEq, Repr

/-- A cluster: gating and wake progress, and when it was asked to wake (R120, R331), point (R319), boost bank (R326),
darkness (R330), the event queue of its SCC with the sequence number of the next record (R107), and the records held while
the SCC is frozen (R372), events awaiting the SCC (R110). -/
structure Cluster where
  gate : GateState
  idleCount : Nat
  step : Nat
  asked : Nat
  waitUntil : Option Nat
  point : Nat
  boost : Bool
  bankFull : Bool
  throttled : Bool
  changing : Nat
  dark : Bool
  events : List Completion
  seq : Nat
  unposted : List Completion
  releases : List Release
  deriving DecidableEq, Repr

/-- A compute die: thermal limit (R202), failed phases (R330), voltage latch (R329), loss (R88), and the µs of the running ms in
which a cluster withheld slots with the last of them (R328). -/
structure Die where
  therm : Bool
  thn : Byte
  failed : List (Nat × Nat)
  vminv : BitVec 16
  vmint : Nat
  lost : Bool
  thrus : Nat
  thrAt : Option Nat
  deriving DecidableEq, Repr

/-- STATE values of a link port (R341). -/
inductive LinkState where
  | down | training | up | restripe | degraded | replay | spilling | failed
  deriving DecidableEq, Repr

/-- What a response to a peer says: the data, that the target refuses, or that its data is damaged (R205, R342). -/
inductive PeerAnswer where
  | data (bytes : List Byte)
  | refused
  | damaged
  deriving DecidableEq, Repr

/-- The translation that a queued request was made under: its context, the core whose TLB it used, its virtual address, what it
needs of the page, and when it was made (R268, R274). -/
structure Via where
  ctx : Nat
  core : Nat
  va : W64
  needs : Nat
  time : Nat
  deriving DecidableEq, Repr

/-- What a flit carries (R332): a request of this package, with its number, target, size, data, operation and translation;
or the response to the peer's request of that number. -/
structure OutFlit where
  req : Nat
  node : Nat
  addr : Nat
  size : Nat
  data : Option Nat
  op : Option (BitVec 4)
  answer : Option PeerAnswer
  via : Option Via
  deriving DecidableEq, Repr

/-- A link port (R333 to R341): EN, state, active mask, lost latches and counts, the change in progress and its
time, the wavelengths that have light again and since when, those locked in training and those dark, replay failures; the
flits in its share of the wadi, in the egress queue, and in the replay buffer with their sequence numbers, the number of the
last one sent and of the last one received whole and in sequence, and whether the replay's receiver has named its last flit
(R337, R339); when it came to its state, and when a flit last left it; peers' requests held while it is frozen (R372); the half
of LSTAT that system software has written, and by which master, while the other half has not followed (R10, R374). -/
structure Link where
  en : Bool
  st : LinkState
  act : BitVec 16
  lost : BitVec 16
  newLost : BitVec 16
  rstr : Byte
  rply : Byte
  changeTime : Option Nat
  lit : Tbl Nat
  locked : BitVec 16
  dark : BitVec 16
  fails : Nat
  wadi : List OutFlit
  egress : List OutFlit
  buffer : List (Nat × OutFlit)
  seq : Nat
  rx : Nat
  named : Bool
  since : Nat
  lastOut : Nat
  waiting : List (BitVec 9 × PeerReq)
  lostHalf : Option (Master × Nat)
  deriving DecidableEq, Repr

/-- What a request is for (R340): an access, a part of an engine command, a part of a tile operation of a core, a packet's
effect, the exchange of a group's ENQ, the fill of a window's block, or a write of the device itself. -/
inductive ReqFor where
  | acc (id : Nat)
  | cmd (id part : Nat)
  | tile (core op part : Nat)
  | pkt (n : Nat)
  | enq (grp tid num : Nat)
  | fill (grp start blk part : Nat)
  | device
  deriving DecidableEq, Repr

/-- A request that a port carries (R340): what for, to which node, on which port, since when, how many bytes it asks for,
whether it waits in the wadi, and the address that its failure is reported with: the virtual one, or the remote one (R344). -/
structure LinkReq where
  id : Nat
  whose : ReqFor
  node : Nat
  port : Option Nat
  time : Nat
  size : Nat
  wadi : Bool
  addr : W64
  deriving DecidableEq, Repr

/-- A held or posted page request (R271). -/
structure PageReq where
  va : W64
  ctx : Nat
  size : Nat
  kind : Nat
  time : Nat
  deriving DecidableEq, Repr

/-- A management event (R375). -/
structure MgmtEvent where
  time : Nat
  code : Nat
  detail : W64
  addr : W64
  deriving DecidableEq, Repr

/-- An ATTACH that waits for a page of its root's RCB (R395): the QCB, its context, and the page's address until it is
resolved. -/
structure Attach where
  qcb : Nat
  ctx : Nat
  paged : Option W64
  deriving DecidableEq, Repr

/-- A host port's registers and rings (R83, R94, R272, R271, R357, R370, R375). -/
structure Port where
  cxaddr : W64
  cxcmd : W32
  qaddr : W64
  qcmd : W32
  attach : Option Attach
  pgaddr : W64
  pgcmd : W32
  pgdata : W64
  dbgcmd : W32
  dbgtgt : W64
  dbgtid : W32
  dbpa : Tbl W64
  dbpc : Tbl W32
  bootResult : Nat
  prqbase : W64
  prqctl : W32
  prqwr : W32
  prqrd : W32
  reqs : List PageReq
  evbase : W64
  evctl : W32
  evwr : W32
  evrd : W32
  evs : List MgmtEvent
  lastEvent : Nat
  nonce : List Byte
  attDone : Bool
  attResult : Nat
  attBusy : Bool
  attNonce : List Byte
  report : List Byte
  posted : List (Nat × List Byte)
  deriving DecidableEq, Repr

/-- The cache a translation is held in (R267). -/
inductive TlbPlace where
  | core (n : Nat)
  | die (n : Nat)
  | hashed
  deriving DecidableEq, Repr

/-- A cached translation: page base and size of its virtual page, the leaf, its expiry (R266, R267). -/
structure TlbEntry where
  place : TlbPlace
  ctx : Nat
  page : Nat
  bits : Nat
  leaf : W64
  expiry : Nat
  deriving DecidableEq, Repr

/-- A cached view entry (R281): its index and four words. -/
structure ViewEntry where
  ctx : Nat
  idx : Nat
  words : List W64
  expiry : Nat
  deriving DecidableEq, Repr

/-- States of Mirage (R361). -/
inductive MirState where
  | idle | capturing | replaying | matched | differed | logFull | snapFull
  deriving DecidableEq, Repr

/-- A kernel launched while its context is captured: its packet, its launch identifier, NBV and check mode, and whether the
capture has logged its folds (R362, R365). -/
structure Launch where
  pkt : W64
  kern : Nat
  nbv : Nat
  ckm : Nat
  ended : Bool
  deriving DecidableEq, Repr

/-- Mirage (R361 to R365): registers, the units copied in order, which context the log belongs to, units excused, the kernels
of the capture, those of them that a replay has not launched again, the identifiers of its kernels with those of the capture's,
how far it has come, and the queue that stands for the context's in it. -/
structure Mirage where
  cmd : W32
  base : W64
  snap : W64
  len : W32
  units : W32
  wr : W32
  copies : W32
  kern : W32
  ndiff : Nat
  st : MirState
  ctx : Nat
  copied : List W64
  hostUnits : List Nat
  launches : List Launch
  owed : List Launch
  twins : List (Nat × Nat)
  pos : Nat
  logEnd : Nat
  queue : Option Nat
  deriving DecidableEq, Repr

/-- States of boot (R368). -/
inductive BootState where
  | waiting | verifying | running
  deriving DecidableEq, Repr

/-- Boot and identity (R366 to R369). -/
structure Boot where
  st : BootState
  port : Fin 2
  locked : Bool
  m0 : BitVec 256
  svn : W32
  deriving DecidableEq, Repr

/-- The package's registers (R374). -/
structure Mgmt where
  tbbase : W64
  tperiod : W32
  gwdlim : W32
  spctl : W32
  tlmbase : W64
  curbase : W64
  nodeid : W32
  fwwb : Tbl W64
  fwws : Tbl W32
  route : Tbl W32
  expb : Tbl W64
  exps : Tbl W32
  frozen : List (Nat × Nat)
  deriving DecidableEq, Repr

/-- What the package sends out (R335, R337, R343): interrupts, read data, refusals, the name of the last flit a port has
received, flits, and requests to a host. -/
inductive Output where
  | msix (port : Fin 2) (vector : Nat)
  | readData (port : Fin 2) (data : List Byte)
  | unsupported (port : Fin 2)
  | acked (link last : Nat)
  | flit (link seq : Nat) (waves : List Nat) (f : OutFlit)
  | request (id : Nat) (node : Nat) (addr : Nat) (size : Nat) (data : Option Nat) (op : Option (BitVec 4))
  deriving DecidableEq, Repr

/-- A thread that still has to issue in the current core cycle, its bundle's operation number, the word's PC when it was
selected, whether the word is an EXIT, and the convergence register it signs (R293; log 2). -/
structure Issue where
  grp : Nat
  tid : Nat
  op : Nat
  key : Nat
  exits : Bool
  cv : Option Nat
  deriving DecidableEq, Repr

/-- A bundle that a slot has selected in the current core cycle, with its place in the cycle's order (R128, R134, R136,
R291): its group, warp, word and PC, its threads, and those of them that its pass serves (R210, R211). -/
structure Bundle where
  order : List Nat
  grp : Nat
  warp : Nat
  word : Option Instr
  pc : W64
  tids : List Nat
  now : List Nat
  deriving DecidableEq, Repr

/-- A sampled key issue whose spoor record is still to be written (R354): its number, group and warp, what the record tells of
its word and first issue, the lanes that have issued it, the sectors and, by operation, the segments they touched, the lane
performed last, its passes beyond the first, the miss-status entries it took, and when a lane was last issued or performed. -/
structure Sample where
  num : Nat
  grp : Nat
  warp : Nat
  ctx : Nat
  core : Nat
  pc : W64
  time : Nat
  kern : Nat
  lin : Nat
  opc : Nat
  lanes : List Nat
  sectors : List Nat
  segs : List (Nat × Nat)
  last : Option Nat
  passes : Nat
  miss : Nat
  done : Nat
  deriving DecidableEq, Repr

/-- Why the model stops. -/
inductive Fault where
  /-- Raised by the meaning of an instruction word when no thread stands to issue it (`State.issuing` names no live
  thread): not an event of the hardware, which issues words only for threads. Safe: the machine stops. -/
  | noIssuer
  deriving DecidableEq, Repr

/-- Why the model refuses. -/
inductive Refusal where
  /-- Raised by `exec` for an instruction whose meaning is not written. Safe: the machine stops. -/
  | notModelled (mnemonic : String)
  deriving DecidableEq, Repr

/-- The state of the package. -/
structure State where
  time : Nat
  mem : List Host.Cell
  damaged : Tbl Nat
  ctxs : Tbl Ctx
  queues : Tbl Queue
  regions : Tbl Region
  pkts : Tbl Pkt
  kernels : Tbl Kernel
  groups : Tbl Group
  accs : List Access
  batches : List Batch
  cmds : List Cmd
  cores : Tbl Core
  clusters : Tbl Cluster
  dies : Tbl Die
  links : Tbl Link
  reqs : List LinkReq
  ports : Tbl Port
  mgmt : Mgmt
  mirage : Mirage
  boot : Boot
  tlb : List TlbEntry
  views : List ViewEntry
  samples : List Sample
  telemetry : List (Nat × Nat × Nat × Nat)
  borrowed : Nat
  shares : Tbl Share
  oasisLost : Bool
  selected : List Bundle
  issuing : List Issue
  due : List Instr
  timers : List (Nat × Instr)
  agenda : List (Nat × Instr)
  scan : Nat
  output : List Output
  fresh : Nat
  deriving DecidableEq, Repr

/-- A core after reset (R321, R325, R350). -/
def Core.reset : Core where
  trim := 700
  debt := 0
  slip := .track
  holdn := 0
  kept := 700
  keptState := .track
  keptHoldn := 0
  ramp := 0
  cyc := 0
  idle := 0
  accums := []
  charges := []
  granted := []
  marks := []
  tileq := []
  l1 := []
  yh := []
  dueNext := 0
  sample := 0
  busy := []
  slipDue := []

/-- A cluster after reset: awake, OP0, bank full (log 3). -/
def Cluster.reset : Cluster where
  gate := .awake
  idleCount := 0
  step := 0
  asked := 0
  waitUntil := none
  point := 0
  boost := false
  bankFull := true
  throttled := false
  changing := 0
  dark := false
  events := []
  seq := 0
  unposted := []
  releases := []

/-- A compute die after reset (R202, R329). -/
def Die.reset : Die where
  therm := false
  thn := 0
  failed := []
  vminv := 0xFFFF
  vmint := 0
  lost := false
  thrus := 0
  thrAt := none

/-- A link port after reset (R341). -/
def Link.reset : Link where
  en := false
  st := .down
  act := 0
  lost := 0
  newLost := 0
  rstr := 0
  rply := 0
  changeTime := none
  lit := []
  locked := 0
  dark := 0
  fails := 0
  wadi := []
  egress := []
  buffer := []
  seq := 0
  rx := 0
  named := false
  since := 0
  lastOut := 0
  waiting := []
  lostHalf := none

/-- A host port after reset (R83, R94, R271, R272, R357, R370, R375). -/
def Port.reset : Port where
  cxaddr := 0
  cxcmd := 0
  qaddr := 0
  qcmd := 0
  attach := none
  pgaddr := 0
  pgcmd := 0
  pgdata := 0
  dbgcmd := 0
  dbgtgt := 0
  dbgtid := 0
  dbpa := []
  dbpc := []
  bootResult := 0
  prqbase := 0
  prqctl := 4
  prqwr := 0
  prqrd := 0
  reqs := []
  evbase := 0
  evctl := 4
  evwr := 0
  evrd := 0
  evs := []
  lastEvent := 0
  nonce := []
  attDone := false
  attResult := 0
  attBusy := false
  attNonce := []
  report := []
  posted := []

/-- The package registers after reset (R106, R125, R301, R328, R333, R354, R373). -/
def Mgmt.reset : Mgmt where
  tbbase := 0
  tperiod := 1000
  gwdlim := 100000
  spctl := 0
  tlmbase := 0
  curbase := 0
  nodeid := 0
  fwwb := [(0, 0x000000FFFC000001)]
  fwws := [(0, 26)]
  route := []
  expb := []
  exps := []
  frozen := []

/-- Mirage after reset (R361). -/
def Mirage.reset : Mirage where
  cmd := 0
  base := 0
  snap := 0
  len := 0
  units := 0
  wr := 0
  copies := 0
  kern := 0
  ndiff := 0
  st := .idle
  ctx := 0
  copied := []
  hostUnits := []
  launches := []
  owed := []
  twins := []
  pos := 0
  logEnd := 0
  queue := none

/-- Boot after reset (R366, R368). -/
def Boot.reset : Boot where
  st := .waiting
  port := 0
  locked := false
  m0 := 0
  svn := 0

/-- The package right after a cold reset (R6, R10, R366). Tables list only what differs from its reset value. -/
def State.reset : State where
  time := 0
  mem := []
  damaged := []
  ctxs := []
  queues := []
  regions := []
  pkts := []
  kernels := []
  groups := []
  accs := []
  batches := []
  cmds := []
  cores := []
  clusters := []
  dies := []
  links := []
  reqs := []
  ports := []
  mgmt := Mgmt.reset
  mirage := Mirage.reset
  boot := Boot.reset
  tlb := []
  views := []
  samples := []
  telemetry := []
  borrowed := 0
  shares := []
  oasisLost := false
  selected := []
  issuing := []
  due := []
  timers := []
  agenda := []
  scan := 0
  output := []
  fresh := 0

end Sys2Proof.Machine
end

