-- ==== Sys2Proof/Machine/Memory.lean ====
section
/-! DEFINITION. Physical memory (R396), free values, the parts of the package by number, and the wake of
monitors by what reaches a sector (R218). -/

namespace Sys2Proof.Machine

/-! ### Bit fields of numbers -/

/-- The field of `n`'s bits `[lo + len - 1 : lo]`. -/
def bits (n lo len : Nat) : Nat := n / 2 ^ lo % 2 ^ len

/-- Bit `i` of `n`. -/
def bit (n i : Nat) : Bool := bits n i 1 == 1

/-- A Bool as a bit. -/
def b2n (b : Bool) : Nat := if b then 1 else 0

/-- `n` rounded up to a multiple of `m`. -/
def roundUp (n m : Nat) : Nat := (n + m - 1) / m * m

/-- The bits set in the low `w` bits of `n`, in rising order. -/
def bitList (w n : Nat) : List Nat := (List.range w).filter fun i => bit n i

/-- The value of `n` as a signed number of `w` bits. -/
def toSigned (w n : Nat) : Int := if n % 2 ^ w < 2 ^ (w - 1) then (n % 2 ^ w : Nat) else (n % 2 ^ w : Nat) - (2 ^ w : Nat)

/-- `v` modulo 2^64. -/
def wrap64 (v : Int) : Nat := (v % (2 ^ 64 : Int)).toNat

/-- `v` modulo 2^32. -/
def wrap32 (v : Int) : Nat := (v % (2 ^ 32 : Int)).toNat

/-! ### Sizes of the package (R2, R396) -/

def hbmBytes : Nat := 2 ^ 40
def warpSize : Nat := 64
def coresPerDie : Nat := 128
def clusterOf (core : Nat) : Nat := core / 8
def dieOfCore (core : Nat) : Nat := core / coresPerDie
def dieOfCluster (c : Nat) : Nat := c / 16
/-- The compute die whose HBM4 holds a local physical address (R396). -/
def dieOfAddr (pa : Nat) : Nat := pa / 2 ^ 37 % 8

/-! ### Free values (log 5) -/

/-- The next number of a free value, and the state that has used it. -/
def State.free (s : State) : Nat × State := (s.fresh, { s with fresh := s.fresh + 1 })

/-! ### The parts of the package -/

def State.core (s : State) (n : Nat) : Core := Tbl.get Core.reset s.cores n
def State.setCore (s : State) (n : Nat) (c : Core) : State := { s with cores := Tbl.set Core.reset s.cores n c }
def State.cluster (s : State) (n : Nat) : Cluster := Tbl.get Cluster.reset s.clusters n
def State.setCluster (s : State) (n : Nat) (c : Cluster) : State :=
  { s with clusters := Tbl.set Cluster.reset s.clusters n c }
def State.die (s : State) (n : Nat) : Die := Tbl.get Die.reset s.dies n
def State.setDie (s : State) (n : Nat) (d : Die) : State := { s with dies := Tbl.set Die.reset s.dies n d }
def State.link (s : State) (n : Nat) : Link := Tbl.get Link.reset s.links n
def State.setLink (s : State) (n : Nat) (l : Link) : State := { s with links := Tbl.set Link.reset s.links n l }
def State.port (s : State) (n : Nat) : Port := Tbl.get Port.reset s.ports n
def State.setPort (s : State) (n : Nat) (p : Port) : State := { s with ports := Tbl.set Port.reset s.ports n p }
def State.ctx? (s : State) (id : Nat) : Option Ctx := Tbl.find? s.ctxs id
def State.modCtx (s : State) (id : Nat) (f : Ctx → Ctx) : State := { s with ctxs := Tbl.modify s.ctxs id f }
def State.group? (s : State) (g : Nat) : Option Group := Tbl.find? s.groups g
def State.modGroup (s : State) (g : Nat) (f : Group → Group) : State := { s with groups := Tbl.modify s.groups g f }
def State.kernel? (s : State) (k : Nat) : Option Kernel := Tbl.find? s.kernels k
def State.modKernel (s : State) (k : Nat) (f : Kernel → Kernel) : State :=
  { s with kernels := Tbl.modify s.kernels k f }
def State.pkt? (s : State) (p : Nat) : Option Pkt := Tbl.find? s.pkts p
def State.modPkt (s : State) (p : Nat) (f : Pkt → Pkt) : State := { s with pkts := Tbl.modify s.pkts p f }
def State.queue? (s : State) (q : Nat) : Option Queue := Tbl.find? s.queues q
def State.modQueue (s : State) (q : Nat) (f : Queue → Queue) : State := { s with queues := Tbl.modify s.queues q f }

/-- Change one thread of a group. -/
def Group.modThread (g : Group) (tid : Nat) (f : Thread → Thread) : Group :=
  { g with threads := Tbl.modify g.threads tid f }
def State.modThread (s : State) (g tid : Nat) (f : Thread → Thread) : State := s.modGroup g fun gr => gr.modThread tid f
def State.thread? (s : State) (g tid : Nat) : Option Thread := (s.group? g).bind fun gr => Tbl.find? gr.threads tid

/-- The warp of a thread and its lane (R73). -/
def warpOf (tid : Nat) : Nat := tid / warpSize
def laneOf (tid : Nat) : Nat := tid % warpSize
def Group.modWarp (g : Group) (w : Nat) (f : Warp → Warp) : Group := { g with warps := Tbl.modify g.warps w f }

/-- Every thread of a table, changed. -/
def mapVals {α : Type} (f : Nat → α → α) : Tbl α → Tbl α
  | [] => []
  | (k, v) :: t => (k, f k v) :: mapVals f t

def State.mapGroups (s : State) (f : Nat → Group → Group) : State := { s with groups := mapVals f s.groups }
def Group.mapThreads (g : Group) (f : Thread → Thread) : Group := { g with threads := mapVals (fun _ t => f t) g.threads }

/-- The threads of a group that have not exited (R111, R243). -/
def Thread.live (t : Thread) : Bool := t.run != .exited
def Group.live (g : Group) : List Thread := (Tbl.vals g.threads).filter Thread.live
def Group.liveIn (g : Group) (w : Nat) : List Thread := g.live.filter fun t => warpOf t.tid == w

/-! ### Physical bytes -/

/-- The canonical form of memory: addresses strictly rising and below 1 TiB, no entry equal to what an unlisted address reads
as (log 1). -/
def Memory.wf (m : List Host.Cell) : Bool := Tbl.canonical (0 : Byte) m && m.all fun c => decide (c.1 < hbmBytes)

/-- One byte of local HBM4; what nothing has written reads 0 (log 1). -/
def State.byte (s : State) (pa : Nat) : Byte := Tbl.get 0 s.mem pa

/-- Make one byte of local HBM4 read as `b`. There is no byte beyond 1 TiB (R396). -/
def State.setByte (s : State) (pa : Nat) (b : Byte) : State :=
  if pa < hbmBytes then { s with mem := Tbl.set 0 s.mem pa b } else s

def State.bytes (s : State) (pa : Nat) : Nat → List Byte
  | 0 => []
  | n + 1 => s.byte pa :: State.bytes s (pa + 1) n

def State.setBytes (s : State) (pa : Nat) : List Byte → State
  | [] => s
  | b :: bs => State.setBytes (s.setByte pa b) (pa + 1) bs

/-- `n` little-endian bytes at `pa` as a number (R9). -/
def State.readN (s : State) (pa n : Nat) : Nat := leNat (s.bytes pa n)

/-- Bytes written at a list of places. -/
def State.setAt (s : State) : List Nat → List Byte → State
  | p :: ps, b :: bs => State.setAt (s.setByte p b) ps bs
  | _, _ => s

/-- The 32-byte half-sectors some bytes lie in. -/
def halfSectors (pas : List Nat) : List Nat := (pas.map (· / 32)).eraseDups

/-- A write that covers a whole damaged half-sector ends its damage (R205). -/
def State.repair (s : State) (pas : List Nat) : State :=
  { s with damaged := s.damaged.filter fun d => !((List.range 32).all fun i => pas.contains (d.1 * 32 + i)) }

/-- The level code of damage under some bytes, 0 where there is none (R205). -/
def State.damageAt (s : State) (pas : List Nat) : Nat :=
  ((s.damaged.filter fun d => pas.any fun p => p / 32 == d.1).head?.map Prod.snd).getD 0

/-! ### Monitors (R217 to R219) -/

/-- An armed monitor records the first wake, and of several at one time the lowest code (R218). -/
def Monitor.wake (m : Monitor) (now code : Nat) : Monitor :=
  match m.code with
  | none => { m with code := some code, woken := now }
  | some c => if m.woken == now && code < c then { m with code := some code } else m

/-- A queue that watches a sector that `p` picks, or waits for a write to NEXT among the bytes that `w` picks, goes on (R99,
R395). -/
def Queue.wake (q : Queue) (p w : Nat → Bool) : Queue :=
  if (q.monitor.any fun m => p m.1) || q.link.any fun l => l.any w then
    { q with blocked := false, monitor := none, link := none }
  else q

/-- Wake every monitor armed on a sector that `p` picks with `code` (R218); `w` picks the bytes written. -/
def State.wakeWhere (s : State) (p w : Nat → Bool) (code : Nat) : State :=
  { s.mapGroups (fun _ g => g.mapThreads fun t =>
      { t with monitor := t.monitor.map fun m => if p m.sector then m.wake s.time code else m }) with
    queues := mapVals (fun _ q => q.wake p w) s.queues }

/-- Wake every monitor armed on one of `sectors`, without a write. -/
def State.wake (s : State) (sectors : List Nat) (code : Nat) : State :=
  s.wakeWhere sectors.contains (fun _ => false) code

/-- The 64-byte sectors of some bytes. -/
def sectorsOf (pas : List Nat) : List Nat := (pas.map (· / 64)).eraseDups

/-- A write of bytes performed at their homes: it repairs damage and wakes monitors (R205, R218). -/
def State.homeWrite (s : State) (code : Nat) (pas : List Nat) (bs : List Byte) : State :=
  ((s.setAt pas bs).repair pas).wakeWhere (sectorsOf pas).contains pas.contains code

/-- `n` consecutive places from `pa`. -/
def span (pa : Nat) : Nat → List Nat
  | 0 => []
  | n + 1 => pa :: span (pa + 1) n

/-- A write of `n` little-endian bytes by the device at a physical address (R9). -/
def State.deviceWrite (s : State) (pa n v : Nat) : State := s.homeWrite 1 (span pa n) (leBytes n v)

/-- 64-bit words as bytes, in rising order. -/
def wordBytes : List Nat → List Byte
  | [] => []
  | w :: ws => leBytes 8 w ++ wordBytes ws

/-- A record of 64-bit words written by the device. -/
def State.deviceWords (s : State) (pa : Nat) (ws : List Nat) : State :=
  s.homeWrite 1 (span pa (8 * ws.length)) (wordBytes ws)

/-- Send something out of the package. -/
def State.emit (s : State) (o : Output) : State := { s with output := s.output ++ [o] }

/-- An internal step to be taken next (log 4). -/
def State.later (s : State) (i : Instr) : State := if s.due.contains i then s else { s with due := s.due ++ [i] }

/-- An internal step to be taken after `dt` ns. -/
def State.after (s : State) (dt : Nat) (i : Instr) : State := { s with timers := s.timers ++ [(s.time + dt, i)] }

end Sys2Proof.Machine
end

