-- ==== Sys2Proof/Machine/Num.lean ====
section
/-! DEFINITION. Element formats, exact values and rounding (R15 to R27), DL8 (R20, R21), the correctly rounded
functions (R30, R184), rotation (R39 to R43) and block boundaries (R48). -/

namespace Sys2Proof.Machine

/-! ### Values -/

/-- What a pattern stands for: NaN (NaR), an infinity, or `±m · 2^e` (R27). -/
inductive FVal where
  | nan
  | inf (neg : Bool)
  | fin (neg : Bool) (m : Nat) (e : Int)
  deriving DecidableEq, Repr

/-- The element formats of R15. -/
inductive Fmt where
  | f32 | bf16 | f16 | e4m3 | e5m2 | e2m3 | e3m2 | e2m1 | dl8 | s8 | s4 | e8m0
  deriving DecidableEq, Repr

/-- FMT codes of TCn (R187, 16_tile.md); 12 to 15 are reserved. -/
def Fmt.ofCode (n : Nat) : Option Fmt :=
  [Fmt.f32, .bf16, .f16, .e4m3, .e5m2, .e2m3, .e3m2, .e2m1, .dl8, .s8, .s4, .e8m0][n]?

def Fmt.width : Fmt → Nat
  | .f32 => 32 | .bf16 => 16 | .f16 => 16 | .e4m3 => 8 | .e5m2 => 8 | .e2m3 => 6 | .e3m2 => 6 | .e2m1 => 4
  | .dl8 => 8 | .s8 => 8 | .s4 => 4 | .e8m0 => 8

/-- The narrow formats have 8 bits or fewer (R15). -/
def Fmt.narrow (f : Fmt) : Bool := f.width ≤ 8

/-- Mantissa width and bias of the binary floating formats (R15). -/
def Fmt.mant : Fmt → Nat
  | .f32 => 23 | .bf16 => 7 | .f16 => 10 | .e4m3 => 3 | .e5m2 => 2 | .e2m3 => 3 | .e3m2 => 2 | .e2m1 => 1 | _ => 0
def Fmt.bias : Fmt → Nat
  | .f32 => 127 | .bf16 => 127 | .f16 => 15 | .e4m3 => 7 | .e5m2 => 15 | .e2m3 => 1 | .e3m2 => 3 | .e2m1 => 1 | _ => 0

/-- The pattern of the largest finite magnitude (R19). -/
def Fmt.maxCode : Fmt → Nat
  | .f32 => 0x7F7FFFFF | .bf16 => 0x7F7F | .f16 => 0x7BFF | .e4m3 => 0x7E | .e5m2 => 0x7B | .e2m3 => 0x1F
  | .e3m2 => 0x1F | .e2m1 => 7 | .dl8 => 0x7F | .s8 => 0x7F | .s4 => 7 | .e8m0 => 0xFE

/-- The pattern of +∞, where the format has one (R19). -/
def Fmt.infCode : Fmt → Option Nat
  | .f32 => some 0x7F800000 | .bf16 => some 0x7F80 | .f16 => some 0x7C00 | .e5m2 => some 0x7C | _ => none

/-- The canonical NaN (R18); where there is none, the largest positive finite value (R40). -/
def Fmt.nanCode : Fmt → Nat
  | .f32 => 0x7FC00000 | .bf16 => 0x7FC0 | .f16 => 0x7E00 | .e4m3 => 0x7F | .e5m2 => 0x7F | .e2m3 => 0x1F
  | .e3m2 => 0x1F | .e2m1 => 7 | .dl8 => 0x80 | .s8 => 0x7F | .s4 => 7 | .e8m0 => 0xFF

/-! ### Exact arithmetic -/

def FVal.zero : FVal := .fin false 0 0

/-- `v · 2^e` for an integer; 0 is +0. -/
def FVal.ofInt (v e : Int) : FVal := .fin (decide (v < 0)) v.natAbs e

def FVal.neg : FVal → FVal
  | .nan => .nan
  | .inf n => .inf !n
  | .fin n m e => .fin (!n) m e

def FVal.abs : FVal → FVal
  | .nan => .nan
  | .inf _ => .inf false
  | .fin _ m e => .fin false m e

def FVal.isNan : FVal → Bool
  | .nan => true
  | _ => false

def FVal.isFin : FVal → Bool
  | .fin _ _ _ => true
  | _ => false

def FVal.isZero : FVal → Bool
  | .fin _ m _ => m == 0
  | _ => false

/-- The integer a finite value is at exponent `x`, `x` at or below its own. -/
def FVal.at_ (v : FVal) (x : Int) : Int :=
  match v with
  | .fin n m e => let k : Int := (m * 2 ^ (e - x).toNat : Nat); if n then -k else k
  | _ => 0

def FVal.exp : FVal → Int
  | .fin _ _ e => e
  | _ => 0

/-- An exact sum; zero is +0 unless both terms are −0 (R180, R35). -/
def FVal.add (a b : FVal) : FVal :=
  match a, b with
  | .nan, _ => .nan
  | _, .nan => .nan
  | .inf n, .inf k => if n == k then .inf n else .nan
  | .inf n, _ => .inf n
  | _, .inf n => .inf n
  | .fin n m e, .fin k j f =>
    if m == 0 && j == 0 then .fin (n && k) 0 0
    else
      let x := min e f
      FVal.ofInt ((FVal.fin n m e).at_ x + (FVal.fin k j f).at_ x) x

/-- An exact product (R180). -/
def FVal.mul (a b : FVal) : FVal :=
  match a, b with
  | .nan, _ => .nan
  | _, .nan => .nan
  | .inf n, .inf k => .inf (xor n k)
  | .inf n, .fin k m _ => if m == 0 then .nan else .inf (xor n k)
  | .fin n m _, .inf k => if m == 0 then .nan else .inf (xor n k)
  | .fin n m e, .fin k j f => .fin (xor n k) (m * j) (e + f)

/-- A value times a power of two. -/
def FVal.scale (v : FVal) (k : Int) : FVal :=
  match v with
  | .fin n m e => .fin n m (e + k)
  | x => x

/-- The order of two values that are no NaN. -/
def FVal.lt (a b : FVal) : Bool :=
  match a, b with
  | .nan, _ => false
  | _, .nan => false
  | .inf n, .inf k => n && !k
  | .inf n, _ => n
  | _, .inf k => !k
  | .fin n m e, .fin k j f => let x := min e f; decide ((FVal.fin n m e).at_ x < (FVal.fin k j f).at_ x)

/-- Equality of values; −0 equals +0. -/
def FVal.eqv (a b : FVal) : Bool := !a.isNan && !b.isNan && !a.lt b && !b.lt a

/-- floor(log2) of a magnitude, none for zero. -/
def FVal.log : FVal → Option Int
  | .fin _ m e => if m == 0 then none else some (m.log2 + e)
  | _ => none

/-- FMIN and FMAX (R181). -/
def fmin (a b : FVal) : FVal :=
  if a.isNan || b.isNan then .nan
  else if a.eqv b then (match a with | .fin true _ _ => a | _ => b)
  else if a.lt b then a else b
def fmax (a b : FVal) : FVal :=
  if a.isNan || b.isNan then .nan
  else if a.eqv b then (match a with | .fin true _ _ => b | _ => a)
  else if a.lt b then b else a

/-! ### Rounding (R22 to R24) -/

/-- `m / 2^sh` rounded to nearest, ties to even, or toward zero. -/
def roundShift (rz : Bool) (m sh : Nat) : Nat :=
  let q := m / 2 ^ sh
  let r := m % 2 ^ sh
  if rz || sh == 0 then q
  else if r > 2 ^ (sh - 1) || (r == 2 ^ (sh - 1) && q % 2 == 1) then q + 1 else q

/-- A magnitude rounded to an integer. -/
def roundInt (rz : Bool) (m : Nat) (e : Int) : Nat :=
  if 0 ≤ e then m * 2 ^ e.toNat else roundShift rz m (-e).toNat

/-- The magnitude code of `m · 2^e` in a format of unbounded exponent: the code counts the representable values. -/
def roundMag (f : Fmt) (rz : Bool) (m : Nat) (e : Int) : Nat :=
  if m == 0 then 0
  else
    let emin : Int := 1 - f.bias - f.mant
    let q := max (m.log2 + e - f.mant) emin
    (q - emin).toNat * 2 ^ f.mant + roundInt rz m (e - q)

/-! ### DL8 (R20, R21) -/

/-- `num / den` rounded to nearest, ties to even. -/
def roundDiv (num den : Nat) : Nat :=
  let q := num / den
  let r := num % den
  if 2 * r > den || (2 * r == den && q % 2 == 1) then q + 1 else q

/-- `round_sig16 (num / den)`. -/
def roundSig16 (num den : Nat) : Nat × Int :=
  let k0 : Int := (num.log2 : Int) - den.log2
  let k := if num * 2 ^ (-k0).toNat < den * 2 ^ k0.toNat then k0 - 1 else k0
  (roundDiv (num * 2 ^ (15 - k).toNat) (den * 2 ^ (k - 15).toNat), k - 15)

/-- The run of bits equal to `b` that leads the low `n` bits of `m`. -/
def leadRun (b : Bool) (m : Nat) : Nat → Nat
  | 0 => 0
  | n + 1 => if bit m n == b then leadRun b m n + 1 else 0

/-- The magnitude of a DL8 code from 1 to 127. -/
def dl8Mag (m : Nat) : Nat × Int :=
  let l := leadRun (bit m 6) m 7
  let e : Int := if bit m 6 then l - 1 else -l
  let n := 6 - l
  let fr := m % 2 ^ n
  roundSig16 (10 ^ e.toNat * (2 ^ n + 9 * fr)) (10 ^ (-e).toNat * 2 ^ n)

def dl8Decode (b : Nat) : FVal :=
  if b % 256 == 0 then FVal.zero
  else if b % 256 == 0x80 then .nan
  else let (m, e) := dl8Mag (b % 128); .fin (bit b 7) m e

/-- The largest magnitude code at or below `m · 2^e`, among those below `n`. -/
def dl8Below (v : FVal) : Nat → Nat
  | 0 => 0
  | n + 1 => if v.lt (dl8Decode n) then dl8Below v n else n

/-- The magnitude code nearest to a magnitude, or the largest not above it (R21, R23). -/
def dl8Round (rz : Bool) (v : FVal) : Nat :=
  let c := dl8Below v 128
  if rz || c == 127 then c
  else
    let lo := v.add (dl8Decode c).neg
    let hi := (dl8Decode (c + 1)).add v.neg
    if lo.lt hi then c else if hi.lt lo then c + 1 else c + c % 2

/-! ### Patterns -/

/-- `decode(fmt, b)` (R27). -/
def Fmt.decode (f : Fmt) (b : Nat) : FVal :=
  match f with
  | .dl8 => dl8Decode b
  | .s8 => FVal.ofInt (toSigned 8 b) 0
  | .s4 => FVal.ofInt (toSigned 4 b) 0
  | .e8m0 => if b % 256 == 255 then .nan else .fin false 1 ((b % 256 : Nat) - 127)
  | f =>
    let c := b % 2 ^ (f.width - 1)
    let neg := bit b (f.width - 1)
    match f.infCode with
    | some i =>
      if i < c then .nan else if c == i then .inf neg
      else .fin neg (if c < 2 ^ f.mant then c else c % 2 ^ f.mant + 2 ^ f.mant) ((max (c / 2 ^ f.mant) 1 : Nat) - f.bias - f.mant)
    | none =>
      if f == .e4m3 && c == 0x7F then .nan
      else .fin neg (if c < 2 ^ f.mant then c else c % 2 ^ f.mant + 2 ^ f.mant) ((max (c / 2 ^ f.mant) 1 : Nat) - f.bias - f.mant)

/-- The E8M0 code of the power of two nearest to a magnitude, saturated (R26). -/
def e8m0Code (m : Nat) (e : Int) : Nat :=
  if m == 0 then 0
  else
    let k : Int := m.log2 + e
    let up := m * 2 > 3 * 2 ^ m.log2 || (m * 2 == 3 * 2 ^ m.log2 && (k + 127) % 2 != 0)
    (min (max (k + 127 + (if up then 1 else 0)) 0) 254).toNat

/-- The pattern of a value rounded to a format: to nearest or toward zero, saturating or to infinity (R22 to R27). -/
def Fmt.encodeWith (f : Fmt) (rz sat : Bool) (v : FVal) : Nat :=
  match v with
  | .nan => f.nanCode
  | .inf n =>
    match f with
    | .s8 => if n then 0x81 else 0x7F
    | .s4 => if n then 9 else 7
    | .e8m0 => 0xFE
    | f => (if sat then f.maxCode else f.infCode.getD f.maxCode) + b2n n * 2 ^ (f.width - 1)
  | .fin n m e =>
    match f with
    | .s8 => let k := min (roundInt rz m e) 127; (if n then 256 - k else k) % 256
    | .s4 => let k := min (roundInt rz m e) 7; (if n then 16 - k else k) % 16
    | .e8m0 => e8m0Code m e
    | .dl8 => let c := dl8Round rz (.fin false m e); if c == 0 then 0 else c + b2n n * 128
    | f =>
      let c := roundMag f rz m e
      let c := if f.maxCode < c then (if rz || sat then f.maxCode else f.infCode.getD f.maxCode) else c
      c + b2n n * 2 ^ (f.width - 1)

/-- `encode_rn(fmt, v)` (R27). -/
def Fmt.encode (f : Fmt) (v : FVal) : Nat := f.encodeWith false false v
/-- `round_rn(sat(v, fmt), fmt)` (R25, R26). -/
def Fmt.saturate (f : Fmt) (v : FVal) : Nat := f.encodeWith false true v
/-- `round_rn(v, fmt)` as a value. -/
def Fmt.round (f : Fmt) (v : FVal) : FVal := f.decode (f.encode v)

/-- A conversion to an integer range `[lo, hi]` (R25). -/
def toIntSat (rz : Bool) (lo hi : Int) : FVal → Int
  | .nan => 0
  | .inf n => if n then lo else hi
  | .fin n m e =>
    let k : Int := roundInt rz m e
    let v := if n then -k else k
    if v < lo then lo else if hi < v then hi else v

/-! ### Correctly rounded functions (R30, R182, R184)

A result that is no dyadic number is handed on with one more bit, set, below bits that no rounding to FP32 keeps. -/

/-- A quotient of finite values with a nonzero divisor. -/
def FVal.quot (a b : FVal) : FVal :=
  match a, b with
  | .fin n m e, .fin k j f =>
    let q := m * 2 ^ 80 / j
    .fin (xor n k) (2 * q + b2n (m * 2 ^ 80 % j != 0)) (e - f - 81)
  | _, _ => .nan

/-- FDIV with its table of special values (R182). -/
def fdiv (a b : FVal) : FVal :=
  match a, b with
  | .nan, _ => .nan
  | _, .nan => .nan
  | .inf _, .inf _ => .nan
  | .inf n, .fin k _ _ => .inf (xor n k)
  | .fin n _ _, .inf k => .fin (xor n k) 0 0
  | .fin n m e, .fin k j f =>
    if j == 0 then (if m == 0 then .nan else .inf (xor n k)) else (FVal.fin n m e).quot (.fin k j f)

/-- The integer square root, bit by bit. -/
def isqrt (x : Nat) : (i : Nat) → (r : Nat) → Nat
  | 0, r => if (r + 1) * (r + 1) ≤ x then r + 1 else r
  | i + 1, r => isqrt x i (if (r + 2 ^ (i + 1)) * (r + 2 ^ (i + 1)) ≤ x then r + 2 ^ (i + 1) else r)

/-- √(m · 2^e), e even. -/
def sqrtMag (m : Nat) (e : Int) : FVal :=
  let x := m * 2 ^ 80
  let r := isqrt x 70 0
  .fin false (2 * r + b2n (r * r != x)) (e / 2 - 41)

/-- 1/√(m · 2^e), e even. -/
def rsqrtMag (m : Nat) (e : Int) : FVal :=
  let r := isqrt (2 ^ 160 / m) 82 0
  .fin false (2 * r + b2n (r * r * m != 2 ^ 160)) (-(e / 2) - 81)

def evenExp (m : Nat) (e : Int) : Nat × Int := if e % 2 == 0 then (m, e) else (2 * m, e - 1)

def fsqrt : FVal → FVal
  | .nan => .nan
  | .inf n => if n then .nan else .inf false
  | .fin n m e =>
    if m == 0 then .fin n 0 0
    else if n then .nan
    else let (m, e) := evenExp m e; sqrtMag m e

def frsq : FVal → FVal
  | .nan => .nan
  | .inf n => if n then .nan else FVal.zero
  | .fin n m e =>
    if m == 0 then .inf n
    else if n then .nan
    else let (m, e) := evenExp m e; rsqrtMag m e

def frcp (v : FVal) : FVal := fdiv (.fin false 1 0) v

/-- ln 2 · 2^p, from the series of 2^-n / n. -/
def ln2 (p : Nat) : Nat → Nat
  | 0 => 0
  | n + 1 => ln2 p n + 2 ^ (p - (n + 1)) / (n + 1)

/-- The sum of z^i / i! from i = k on, for `n` terms, `term` the term k, in units of 2^-192. -/
def expSeries (z : Nat) : (n k term : Nat) → Nat
  | 0, _, _ => 0
  | n + 1, k, term => term + expSeries z n (k + 1) (term * z / 2 ^ 192 / (k + 1))

/-- 2^f for `0 < f < 1` given in units of 2^-192. -/
def exp2Frac (f : Nat) : FVal :=
  let y := expSeries (f * ln2 192 192 / 2 ^ 192) 60 0 (2 ^ 192)
  .fin false (2 * (y / 2 ^ 64) + 1) (-129)

def fexp2 : FVal → FVal
  | .nan => .nan
  | .inf n => if n then FVal.zero else .inf false
  | .fin n m e =>
    if !(FVal.fin n m e).lt (.fin false 128 0) then .inf false
    else if !(FVal.fin true 150 0).lt (.fin n m e) then FVal.zero
    else
      let v := (FVal.fin n m e).at_ (min e (-192))
      let u := (2 ^ (max (-e) 192).toNat : Nat)
      let k := v / (u : Int)
      let r := (v % (u : Int)).toNat
      if r == 0 then .fin false 1 k else (exp2Frac (r * 2 ^ 192 / u)).scale k

/-- `n` binary digits of log2 z, for z in [1, 2) in units of 2^-320. -/
def log2Digits : (n z acc : Nat) → Nat
  | 0, _, acc => acc
  | n + 1, z, acc =>
    let y := z * z / 2 ^ 320
    if 2 ^ 321 ≤ y then log2Digits n (y / 2) (2 * acc + 1) else log2Digits n y (2 * acc)

def flog2 : FVal → FVal
  | .nan => .nan
  | .inf n => if n then .nan else .inf false
  | .fin n m e =>
    if m == 0 then .inf true
    else if n then .nan
    else
      let k : Int := m.log2 + e
      if m == 2 ^ m.log2 then FVal.ofInt k 0
      else
        let d : Int := log2Digits 128 (m * 2 ^ (320 - m.log2)) 0
        FVal.ofInt (2 * (k * 2 ^ 128 + d) + 1) (-129)

/-! ### Rotation (R39 to R43) -/

/-- `sign_hash` under the seed register's value (R41). -/
def signHash (seed : W32) (b j : Nat) : Bool :=
  let t := seed ^^^ BitVec.ofNat 32 (b * 0x9E3779B1) ^^^ BitVec.ofNat 32 (j * 0x85EBCA77)
  let t := t ^^^ (t >>> 15)
  let t := t * 0x2C1B3C6D
  let t := t ^^^ (t >>> 12)
  t.getLsbD 31

/-- One butterfly stage at distance `h`. -/
def butterfly (h : Nat) (xs : List Int) : List Int :=
  (List.range xs.length).map fun i =>
    if i / h % 2 == 0 then xs.getD i 0 + xs.getD (i + h) 0 else xs.getD (i - h) 0 - xs.getD i 0

/-- The stages of a block of 16 or 64. -/
def butterflies (xs : List Int) : List Int :=
  let xs := butterfly 8 (butterfly 4 (butterfly 2 (butterfly 1 xs)))
  if xs.length == 64 then butterfly 32 (butterfly 16 xs) else xs

/-- 1/√n as an exponent. -/
def rotShift (n : Nat) : Int := if n == 16 then 2 else 3

/-- `rotate_block` of block `b`; none is NONFINITE (R39). -/
def rotateBlock (seed : W32) (b : Nat) (xs : List FVal) : Option (List FVal) :=
  if xs.any fun x => !x.isFin then none
  else
    match (xs.filterMap FVal.log).max? with
    | none => some (xs.map fun _ => FVal.zero)
    | some e =>
      let ms := xs.zipIdx.map fun p =>
        match p.1 with
        | .fin n m f =>
          let k : Int := roundInt false m (f + 23 - e)
          if xor n (signHash seed b p.2) then -k else k
        | _ => 0
      some ((butterflies ms).map fun m => FVal.ofInt m (e - 23 - rotShift xs.length))

/-- `unrotate_block` of block `b` (R43). -/
def unrotateBlock (seed : W32) (b : Nat) (xs : List FVal) : Option (List FVal) :=
  if xs.any fun x => !x.isFin then none
  else
    let x := (xs.map FVal.exp).foldl min 0
    let zs := butterflies (xs.map fun v => v.at_ x)
    some (zs.zipIdx.map fun p =>
      FVal.ofInt (if signHash seed b p.2 then -p.1 else p.1) (x - rotShift xs.length))

/-! ### Block boundaries (R48) -/

/-- The boundary bits of one panel from the floor(log2) of its granules' largest magnitudes. -/
def blockStarts (thr : Nat) : List (Option Int) → (g : Nat) → (cur : Option Int) → Nat
  | [], _, _ => 0
  | none :: ms, g, cur => blockStarts thr ms (g + 1) cur
  | some lg :: ms, g, none => blockStarts thr ms (g + 1) (some lg)
  | some lg :: ms, g, some c =>
    if (thr : Int) < (lg - c).natAbs then 2 ^ g + blockStarts thr ms (g + 1) (some lg)
    else blockStarts thr ms (g + 1) (some (max c lg))

/-- Bit 0 is always a boundary. -/
def panelStarts (thr : Nat) (ms : List (Option Int)) : Nat := 1 + blockStarts thr ms 0 none

end Sys2Proof.Machine
end

