-- ==== Sys2Proof/Machine/Operands.lean ====
section
/-! DEFINITION. Operand forms: which thread registers each word's fields name, with their widths and whether the
word reads or writes them (R59, R60, R64 to R69), the tiles and accumulators it names (R121), and its guard. -/

namespace Sys2Proof.Machine

/-- A register field: its place in the word, the register, how many registers it names, read and written. -/
structure RegUse where
  at_ : Nat
  reg : BitVec 6
  k : Nat
  rd : Bool
  wr : Bool
  deriving DecidableEq, Repr

/-- A source field. -/
def src (at_ : Nat) (r : BitVec 6) (k : Nat := 1) : RegUse := ⟨at_, r, k, true, false⟩
/-- A destination field. -/
def dst (at_ : Nat) (r : BitVec 6) (k : Nat := 1) : RegUse := ⟨at_, r, k, false, true⟩

/-- The thread-register fields of a word. -/
def regUses : Instr → List RegUse
  | .nop => []
  | .mov d a _ => [dst 18 d, src 12 a]
  | .movi d _ => [dst 18 d]
  | .movhi d _ => [⟨18, d, 1, true, true⟩]
  | .movx d _ _ => [dst 18 d 2]
  | .sel d a b _ => [dst 18 d, src 12 a, src 6 b]
  | .srd d _ => [dst 18 d]
  | .swr a _ => [src 12 a]
  | .add d a b _ => [dst 18 d, src 12 a, src 6 b]
  | .sub d a b _ => [dst 18 d, src 12 a, src 6 b]
  | .addi d a _ => [dst 18 d, src 12 a]
  | .addc d a b _ => [dst 18 d, src 12 a, src 6 b]
  | .addSatS32 d a b _ => [dst 18 d, src 12 a, src 6 b]
  | .addSatZ32 d a b _ => [dst 18 d, src 12 a, src 6 b]
  | .subSatS32 d a b _ => [dst 18 d, src 12 a, src 6 b]
  | .subSatZ32 d a b _ => [dst 18 d, src 12 a, src 6 b]
  | .mul d a b _ => [dst 18 d, src 12 a, src 6 b]
  | .mulhS32 d a b _ => [dst 18 d, src 12 a, src 6 b]
  | .mulhZ32 d a b _ => [dst 18 d, src 12 a, src 6 b]
  | .mad d a b c => [dst 18 d, src 12 a, src 6 b, src 0 c]
  | .mulwS32 d a b _ => [dst 18 d 2, src 12 a, src 6 b]
  | .mulwZ32 d a b _ => [dst 18 d 2, src 12 a, src 6 b]
  | .divS32 d a b _ => [dst 18 d, src 12 a, src 6 b]
  | .divZ32 d a b _ => [dst 18 d, src 12 a, src 6 b]
  | .remS32 d a b _ => [dst 18 d, src 12 a, src 6 b]
  | .remZ32 d a b _ => [dst 18 d, src 12 a, src 6 b]
  | .minS32 d a b _ => [dst 18 d, src 12 a, src 6 b]
  | .minZ32 d a b _ => [dst 18 d, src 12 a, src 6 b]
  | .maxS32 d a b _ => [dst 18 d, src 12 a, src 6 b]
  | .maxZ32 d a b _ => [dst 18 d, src 12 a, src 6 b]
  | .absS32 d a _ => [dst 18 d, src 12 a]
  | .neg d a _ => [dst 18 d, src 12 a]
  | .and d a b _ => [dst 18 d, src 12 a, src 6 b]
  | .or d a b _ => [dst 18 d, src 12 a, src 6 b]
  | .xor d a b _ => [dst 18 d, src 12 a, src 6 b]
  | .andn d a b _ => [dst 18 d, src 12 a, src 6 b]
  | .not d a _ => [dst 18 d, src 12 a]
  | .andi d a _ => [dst 18 d, src 12 a]
  | .ori d a _ => [dst 18 d, src 12 a]
  | .xori d a _ => [dst 18 d, src 12 a]
  | .shl d a b _ => [dst 18 d, src 12 a, src 6 b]
  | .shr d a b _ => [dst 18 d, src 12 a, src 6 b]
  | .sra d a b _ => [dst 18 d, src 12 a, src 6 b]
  | .shli d a _ => [dst 18 d, src 12 a]
  | .shri d a _ => [dst 18 d, src 12 a]
  | .srai d a _ => [dst 18 d, src 12 a]
  | .rotl d a b _ => [dst 18 d, src 12 a, src 6 b]
  | .rotli d a _ => [dst 18 d, src 12 a]
  | .popc d a _ => [dst 18 d, src 12 a]
  | .clz d a _ => [dst 18 d, src 12 a]
  | .brev d a _ => [dst 18 d, src 12 a]
  | .bfxS d a _ _ => [dst 18 d, src 12 a]
  | .bfxZ d a _ _ => [dst 18 d, src 12 a]
  | .bfi d a _ _ => [⟨18, d, 1, true, true⟩, src 12 a]
  | .lea d a b _ => [dst 18 d 2, src 12 a 2, src 6 b]
  | .add64 d a b _ => [dst 18 d 2, src 12 a 2, src 6 b 2]
  | .sub64 d a b _ => [dst 18 d 2, src 12 a 2, src 6 b 2]
  | .addi64 d a _ => [dst 18 d 2, src 12 a 2]
  | .shl64i d a _ => [dst 18 d 2, src 12 a 2]
  | .shr64i d a _ => [dst 18 d 2, src 12 a 2]
  | .fkeyF16 d a _ => [dst 18 d, src 12 a]
  | .fkeyF32 d a _ => [dst 18 d, src 12 a]
  | .cmpS32 _ a b _ => [src 12 a, src 6 b]
  | .cmpZ32 _ a b _ => [src 12 a, src 6 b]
  | .cmpS64 _ a b _ => [src 12 a 2, src 6 b 2]
  | .cmpZ64 _ a b _ => [src 12 a 2, src 6 b 2]
  | .cmpiS32 _ a _ _ => [src 12 a]
  | .cmpiZ32 _ a _ _ => [src 12 a]
  | .fcmpF32 _ a b _ => [src 12 a, src 6 b]
  | .fcmpF16 _ a b _ => [src 12 a, src 6 b]
  | .plog _ _ _ _ => []
  | .pmov x r => [⟨18, x, 1, r = 1#1, r = 0#1⟩]
  | .vote d _ o => if o = 3#2 then [dst 18 d 2] else []
  | .faddF32 d a b _ => [dst 18 d, src 12 a, src 6 b]
  | .fsubF32 d a b _ => [dst 18 d, src 12 a, src 6 b]
  | .fmulF32 d a b _ => [dst 18 d, src 12 a, src 6 b]
  | .ffmaF32 d a b c => [dst 18 d, src 12 a, src 6 b, src 0 c]
  | .fminF32 d a b _ => [dst 18 d, src 12 a, src 6 b]
  | .fmaxF32 d a b _ => [dst 18 d, src 12 a, src 6 b]
  | .fabsF32 d a _ => [dst 18 d, src 12 a]
  | .fnegF32 d a _ => [dst 18 d, src 12 a]
  | .frcpF32 d a _ => [dst 18 d, src 12 a]
  | .frsqF32 d a _ => [dst 18 d, src 12 a]
  | .fsqrtF32 d a _ => [dst 18 d, src 12 a]
  | .fexp2F32 d a _ => [dst 18 d, src 12 a]
  | .flog2F32 d a _ => [dst 18 d, src 12 a]
  | .fdivF32 d a b _ => [dst 18 d, src 12 a, src 6 b]
  | .faddRzF32 d a b _ => [dst 18 d, src 12 a, src 6 b]
  | .ffmaRzF32 d a b c => [dst 18 d, src 12 a, src 6 b, src 0 c]
  | .hadd2 d a b _ => [dst 18 d, src 12 a, src 6 b]
  | .hmul2 d a b _ => [dst 18 d, src 12 a, src 6 b]
  | .hfma2 d a b c => [dst 18 d, src 12 a, src 6 b, src 0 c]
  | .hmin2 d a b _ => [dst 18 d, src 12 a, src 6 b]
  | .hmax2 d a b _ => [dst 18 d, src 12 a, src 6 b]
  | .badd2 d a b _ => [dst 18 d, src 12 a, src 6 b]
  | .bmul2 d a b _ => [dst 18 d, src 12 a, src 6 b]
  | .bfma2 d a b c => [dst 18 d, src 12 a, src 6 b, src 0 c]
  | .bmin2 d a b _ => [dst 18 d, src 12 a, src 6 b]
  | .bmax2 d a b _ => [dst 18 d, src 12 a, src 6 b]
  | .cvtF32S32 d a _ => [dst 18 d, src 12 a]
  | .cvtF32Z32 d a _ => [dst 18 d, src 12 a]
  | .cvtS32F32Rz d a _ => [dst 18 d, src 12 a]
  | .cvtS32F32Rn d a _ => [dst 18 d, src 12 a]
  | .cvtZ32F32Rz d a _ => [dst 18 d, src 12 a]
  | .cvtF16F32 d a _ => [dst 18 d, src 12 a]
  | .cvtF16F32Sat d a _ => [dst 18 d, src 12 a]
  | .cvtBf16F32 d a _ => [dst 18 d, src 12 a]
  | .cvtF32F16 d a _ => [dst 18 d, src 12 a]
  | .cvtF32Bf16 d a _ => [dst 18 d, src 12 a]
  | .cvtb d a _ _ => [dst 18 d, src 12 a]
  | .widb d a _ _ => [dst 18 d, src 12 a]
  | .cvtw d a _ => [dst 18 d, src 12 a]
  | .xshf d a _ => [dst 18 d, src 12 a]
  | .xshfw d a _ => [dst 18 d, src 12 a]
  | .red d a _ => [dst 18 d, src 12 a]
  | .scan d a _ _ => [dst 18 d, src 12 a]
  | .permb d a b _ => [dst 18 d, src 12 a, src 6 b]
  | .ldG d a z _ _ => [dst 18 d (szRegs z), src 12 a 2]
  | .stG d a z _ _ => [src 18 d (szRegs z), src 12 a 2]
  | .ldS d a z _ => [dst 18 d (szRegs z), src 12 a]
  | .stS d a z _ => [src 18 d (szRegs z), src 12 a]
  | .ldD d a z _ => [dst 18 d (szRegs z), src 12 a 2]
  | .stD d a z _ => [src 18 d (szRegs z), src 12 a 2]
  | .ldaCore d a z _ _ => [dst 18 d (szRegs z), src 12 a 2]
  | .ldaDev d a z _ _ => [dst 18 d (szRegs z), src 12 a 2]
  | .ldaSys d a z _ _ => [dst 18 d (szRegs z), src 12 a 2]
  | .stlCore d a z _ _ => [src 18 d (szRegs z), src 12 a 2]
  | .stlDev d a z _ _ => [src 18 d (szRegs z), src 12 a 2]
  | .stlSys d a z _ _ => [src 18 d (szRegs z), src 12 a 2]
  | .atomCore d a b _ o => [dst 18 d (opDRegs o), src 12 a 2, src 6 b (opBRegs o)]
  | .atomDev d a b _ o => [dst 18 d (opDRegs o), src 12 a 2, src 6 b (opBRegs o)]
  | .atomSys d a b _ o => [dst 18 d (opDRegs o), src 12 a 2, src 6 b (opBRegs o)]
  | .redaDev a b _ o => [src 12 a 2, src 6 b (opBRegs o)]
  | .redaSys a b _ o => [src 12 a 2, src 6 b (opBRegs o)]
  | .fence _ => []
  | .fenceAlias a => [src 12 a 2]
  | .pref a _ _ => [src 12 a 2]
  | .marm a _ => [src 12 a 2]
  | .maps s v l => [src 18 s, src 12 v 2, src 6 l]
  | .flushs s l => [src 18 s, src 12 l]
  | .invs s l => [src 18 s, src 12 l]
  | .tlbp d a => [dst 18 d 2, src 12 a 2]
  | .bra _ _ => []
  | .brx a _ => [src 12 a 2]
  | .call _ _ => []
  | .callx a _ => [src 12 a 2]
  | .ret _ => []
  | .rep _ _ _ => []
  | .exit _ => []
  | .wait _ _ _ _ => []
  | .mwait d a t => if t = 1#1 then [dst 18 d, src 12 a] else [dst 18 d]
  | .bar _ _ _ => []
  | .barcfg _ a => [src 12 a]
  | .cvdecl _ l a => if l = 1#1 then [] else [src 12 a 2]
  | .yield => []
  | .ckm _ => []
  | .trap _ => []
  | .bkpt _ => []
  | .rft => []
  | .haltg _ => []
  | .acmark _ => []
  | .trk a _ => [src 12 a]
  | .copy x _ => [src 18 x]
  | .copyR x _ => [src 18 x]
  | .chain x _ => [src 18 x]
  | .gather x y _ => [src 18 x, src 12 y]
  | .scatter x y _ => [src 18 x, src 12 y]
  | .commit _ => []
  | .enq x y _ => [src 18 x 2, src 12 y]
  | .evt x _ e => [src 18 x (if e = 0x20#8 then 2 else 1)]
  | .atomR x _ => [src 18 x]
  | .tcfg _ a => [src 12 a]
  | .tld _ a b _ => [src 14 a 2, src 8 b]
  | .tst _ a b _ => [src 14 a 2, src 8 b]
  | .tzero _ _ => []
  | .qnt _ _ _ a _ => [src 7 a]
  | .tcvt _ _ _ => []
  | .mmaBf16 _ _ _ _ _ k => [src 0 k]
  | .mmaF16 _ _ _ _ _ k => [src 0 k]
  | .mmaE4m3 _ _ _ _ _ k => [src 0 k]
  | .mmaE5m2 _ _ _ _ _ k => [src 0 k]
  | .mmaE2m3 _ _ _ _ _ k => [src 0 k]
  | .mmaE3m2 _ _ _ _ _ k => [src 0 k]
  | .mmaE2m1 _ _ _ _ _ k => [src 0 k]
  | .mmaDl8 _ _ _ _ _ k => [src 0 k]
  | .mmaS8 _ _ _ _ _ k => [src 0 k]
  | .mmaS4 _ _ _ _ _ k => [src 0 k]
  | .segn d a b => [dst 18 d 2, src 12 a, src 6 b]
  | .scacc _ _ a _ => [src 8 a]
  | .aclr _ _ => []
  | .amov _ _ _ _ => []
  | .ast _ x b _ => [src 13 x 2, src 7 b]
  | .ald _ x b _ => [src 13 x 2, src 7 b]
  | .tchk d _ _ => [dst 18 d]
  | .boostWithdraw _ => []
  | .replayAckTimeout _ => []
  | .lightHoldExpiry _ _ => []
  | .egressStallExpiry _ => []
  | .wadiDrained _ => []
  | .spillTimeout _ => []
  | .linkRequestTimeout _ => []
  | .slotCycle _ => []
  | .noticeExpiry _ _ => []
  | .regroup _ => []
  | .yieldExpiry _ _ => []
  | .deferredFaultDelivery _ _ => []
  | .convergeMismatch _ _ => []
  | .barrierDeadlock _ => []
  | .accessPerformed _ _ => []
  | .laneReplay _ _ => []
  | .pageRequestWrite _ => []
  | .mwaitTimeout _ _ => []
  | .commandComplete _ => []
  | .tileOpPerformed _ _ => []
  | .packetConsume _ => []
  | .packetReady _ => []
  | .kernelLaunch _ => []
  | .copyPacketRun _ => []
  | .packetFinish _ => []
  | .evtReleaseApply _ => []
  | .groupPlace _ _ _ => []
  | .groupEnd _ => []
  | .saveFrameWritten _ => []
  | .restoreComplete _ => []
  | .contextHalted _ => []
  | .stagingComplete _ => []
  | .destroyComplete _ => []
  | .fqRoomPoll _ => []
  | .eventRingWrite _ => []
  | .watchdogTick _ => []
  | .watchdogExpiry _ => []
  | .currentRecord _ => []
  | .vminSample _ _ => []
  | .throttleExpiry _ => []
  | .gatingIdleExpiry _ => []
  | .gatingConfirm _ => []
  | .wakeWaitExpiry _ => []
  | .softStartStep _ => []
  | .attestReport _ => []
  | .neighbourDrawFall _ => []
  | .boostBankRecharged _ => []
  | .bind _ _ => []
  | .preempt _ _ => []
  | .resume _ _ => []
  | .destroy _ _ => []
  | .queueAttach _ => []
  | .queueDetach _ => []
  | .resolve _ _ => []
  | .retire _ => []
  | .horizon _ _ => []
  | .dbgAttach _ _ _ => []
  | .dbgDetach _ _ => []
  | .dbgHalt _ _ _ => []
  | .dbgResume _ _ _ => []
  | .dbgStep _ _ => []
  | .capture _ => []
  | .mirageStop _ => []
  | .replay _ => []
  | .bootGo _ => []
  | .attestGo _ => []
  | .frzrelWrite _ => []
  | .vminvWrite _ => []
  | .lctlEnSet _ _ => []
  | .lctlEnClear _ _ => []
  | .fwwWrite _ _ _ _ => []
  | .expsWrite _ _ _ => []
  | .prqctlWrite _ _ => []
  | .evctlWrite _ _ => []
  | .routeWrite _ _ _ => []
  | .registerWrite _ _ _ _ _ => []
  | .packageColdReset => []
  | .dieWarmReset _ => []
  | .dieLoss _ => []
  | .oasisLoss => []
  | .phaseFail _ _ _ => []
  | .lossOfLight _ _ => []
  | .calicheThermal _ _ => []
  | .hostWrite _ _ _ => []
  | .hostRead _ _ _ => []
  | .hostAtomicop _ _ _ _ _ _ => []
  | .peerRequest _ _ _ => []
  | .flitReceive _ _ => []
  | .trainingLocked _ => []
  | .trainingTimeout _ _ _ => []
  | .restripeAgreed _ => []
  | .leaseExpiry => []
  | .memScrubDamage _ _ => []
  | .telemetryAdd => []
  | .tokenCharge => []
  | .tokenRefill => []
  | .accountSpill => []
  | .imageVerified => []
  | .lightRestored _ _ => []

/-- The guard of a guarded word (R60); words without one act as under index 31. -/
def guardOf : Instr → BitVec 6
  | .mov _ _ g => g
  | .add _ _ _ g => g
  | .sub _ _ _ g => g
  | .addSatS32 _ _ _ g => g
  | .addSatZ32 _ _ _ g => g
  | .subSatS32 _ _ _ g => g
  | .subSatZ32 _ _ _ g => g
  | .mul _ _ _ g => g
  | .mulhS32 _ _ _ g => g
  | .mulhZ32 _ _ _ g => g
  | .mulwS32 _ _ _ g => g
  | .mulwZ32 _ _ _ g => g
  | .divS32 _ _ _ g => g
  | .divZ32 _ _ _ g => g
  | .remS32 _ _ _ g => g
  | .remZ32 _ _ _ g => g
  | .minS32 _ _ _ g => g
  | .minZ32 _ _ _ g => g
  | .maxS32 _ _ _ g => g
  | .maxZ32 _ _ _ g => g
  | .absS32 _ _ g => g
  | .neg _ _ g => g
  | .and _ _ _ g => g
  | .or _ _ _ g => g
  | .xor _ _ _ g => g
  | .andn _ _ _ g => g
  | .not _ _ g => g
  | .shl _ _ _ g => g
  | .shr _ _ _ g => g
  | .sra _ _ _ g => g
  | .rotl _ _ _ g => g
  | .popc _ _ g => g
  | .clz _ _ g => g
  | .brev _ _ g => g
  | .add64 _ _ _ g => g
  | .sub64 _ _ _ g => g
  | .fkeyF16 _ _ g => g
  | .fkeyF32 _ _ g => g
  | .faddF32 _ _ _ g => g
  | .fsubF32 _ _ _ g => g
  | .fmulF32 _ _ _ g => g
  | .fminF32 _ _ _ g => g
  | .fmaxF32 _ _ _ g => g
  | .fabsF32 _ _ g => g
  | .fnegF32 _ _ g => g
  | .frcpF32 _ _ g => g
  | .frsqF32 _ _ g => g
  | .fsqrtF32 _ _ g => g
  | .fexp2F32 _ _ g => g
  | .flog2F32 _ _ g => g
  | .fdivF32 _ _ _ g => g
  | .faddRzF32 _ _ _ g => g
  | .hadd2 _ _ _ g => g
  | .hmul2 _ _ _ g => g
  | .hmin2 _ _ _ g => g
  | .hmax2 _ _ _ g => g
  | .badd2 _ _ _ g => g
  | .bmul2 _ _ _ g => g
  | .bmin2 _ _ _ g => g
  | .bmax2 _ _ _ g => g
  | .cvtF32S32 _ _ g => g
  | .cvtF32Z32 _ _ g => g
  | .cvtS32F32Rz _ _ g => g
  | .cvtS32F32Rn _ _ g => g
  | .cvtZ32F32Rz _ _ g => g
  | .cvtF16F32 _ _ g => g
  | .cvtF16F32Sat _ _ g => g
  | .cvtBf16F32 _ _ g => g
  | .cvtF32F16 _ _ g => g
  | .cvtF32Bf16 _ _ g => g
  | .ldG _ _ _ _ g => g
  | .stG _ _ _ _ g => g
  | .ldS _ _ _ g => g
  | .stS _ _ _ g => g
  | .ldD _ _ _ g => g
  | .stD _ _ _ g => g
  | .ldaCore _ _ _ _ g => g
  | .ldaDev _ _ _ _ g => g
  | .ldaSys _ _ _ _ g => g
  | .stlCore _ _ _ _ g => g
  | .stlDev _ _ _ _ g => g
  | .stlSys _ _ _ _ g => g
  | .pref _ _ g => g
  | .marm _ g => g
  | .bra _ g => g
  | .brx _ g => g
  | .call _ g => g
  | .callx _ g => g
  | .ret g => g
  | .exit g => g
  | _ => 31

/-- The tiles a word names (R121, R290). -/
def tileUses : Instr → List Nat
  | .tcfg t _ => [t.toNat]
  | .tld t _ _ _ => [t.toNat]
  | .tst t _ _ _ => [t.toNat]
  | .tzero t _ => [t.toNat]
  | .qnt d s _ _ _ => [d.toNat, s.toNat]
  | .tcvt d s _ => [d.toNat, s.toNat]
  | .amov _ t _ _ => [t.toNat]
  | .tchk _ t _ => [t.toNat]
  | .mmaBf16 _ t u _ f _ => if f = 0#2 then [t.toNat + 3, u.toNat + 3] else [t.toNat, u.toNat]
  | .mmaF16 _ t u _ f _ => if f = 0#2 then [t.toNat + 3, u.toNat + 3] else [t.toNat, u.toNat]
  | .mmaE4m3 _ t u _ f _ => if f = 0#2 then [t.toNat + 3, u.toNat + 3] else [t.toNat, u.toNat]
  | .mmaE5m2 _ t u _ f _ => if f = 0#2 then [t.toNat + 3, u.toNat + 3] else [t.toNat, u.toNat]
  | .mmaE2m3 _ t u _ f _ => if f = 0#2 then [t.toNat + 3, u.toNat + 3] else [t.toNat, u.toNat]
  | .mmaE3m2 _ t u _ f _ => if f = 0#2 then [t.toNat + 3, u.toNat + 3] else [t.toNat, u.toNat]
  | .mmaE2m1 _ t u _ f _ => if f = 0#2 then [t.toNat + 3, u.toNat + 3] else [t.toNat, u.toNat]
  | .mmaDl8 _ t u _ f _ => if f = 0#2 then [t.toNat + 3, u.toNat + 3] else [t.toNat, u.toNat]
  | .mmaS8 _ t u _ f _ => if f = 0#2 then [t.toNat + 3, u.toNat + 3] else [t.toNat, u.toNat]
  | .mmaS4 _ t u _ f _ => if f = 0#2 then [t.toNat + 3, u.toNat + 3] else [t.toNat, u.toNat]
  | _ => []

/-- The accumulators a word names (R121, R290). -/
def accUses : Instr → List Nat
  | .scacc d p _ _ => [d.toNat, p.toNat]
  | .aclr a _ => [a.toNat]
  | .amov a _ _ _ => [a.toNat]
  | .ast a _ _ _ => [a.toNat]
  | .ald a _ _ _ => [a.toNat]
  | .mmaBf16 a _ _ _ f _ => if f = 0#2 then [a.toNat + 3] else [a.toNat]
  | .mmaF16 a _ _ _ f _ => if f = 0#2 then [a.toNat + 3] else [a.toNat]
  | .mmaE4m3 a _ _ _ f _ => if f = 0#2 then [a.toNat + 3] else [a.toNat]
  | .mmaE5m2 a _ _ _ f _ => if f = 0#2 then [a.toNat + 3] else [a.toNat]
  | .mmaE2m3 a _ _ _ f _ => if f = 0#2 then [a.toNat + 3] else [a.toNat]
  | .mmaE3m2 a _ _ _ f _ => if f = 0#2 then [a.toNat + 3] else [a.toNat]
  | .mmaE2m1 a _ _ _ f _ => if f = 0#2 then [a.toNat + 3] else [a.toNat]
  | .mmaDl8 a _ _ _ f _ => if f = 0#2 then [a.toNat + 3] else [a.toNat]
  | .mmaS8 a _ _ _ f _ => if f = 0#2 then [a.toNat + 3] else [a.toNat]
  | .mmaS4 a _ _ _ f _ => if f = 0#2 then [a.toNat + 3] else [a.toNat]
  | _ => []

/-- The words of an instruction: MOVX has an extension word (R60). -/
def wordsOf : Instr → Nat
  | .movx _ _ _ => 2
  | _ => 1

/-- The lowest REG_RANGE sub-code of a word under an allotment and the tiles and accumulators held (R62 step 4,
R71, R121). The pair of VOTE.BALLOT beyond the allotment is 0x02 (R195). -/
def regRange (allot tiles accs : Nat) (i : Instr) : Option Byte :=
  let us := regUses i
  let ballot := match i with | .vote _ _ o => o == 3#2 | _ => false
  if !ballot && us.any fun u => allot ≤ u.reg.toNat then some 1
  else if us.any fun u => allot < u.reg.toNat + u.k then some 2
  else if (tileUses i).any (tiles ≤ ·) then some 4
  else if (accUses i).any (accs ≤ ·) then some 5
  else none

end Sys2Proof.Machine
end

