-- ==== Sys2Proof/Machine/Translate.lean ====
section
/-! DEFINITION. From a virtual address to physical bytes: the walk (R264 to R266), cached translations with
leases (R267, R268), the view table and its mappings (R278 to R284), routes to peers (R335). -/

namespace Sys2Proof.Machine

/-- What an access needs of a page: read 1, write 2, fetch 4, as KIND of a page request codes it (R266, R271). -/
abbrev Needs := Nat
def needsRead : Needs := 1
def needsWrite : Needs := 2
def needsFetch : Needs := 4
def needsBoth : Needs := 3

/-- The end of a translation: the physical address with the peer's node and the expiry; a fault; an address in a page that
the scheduler must bring in, with the page's size and whether a request is to be posted (R270). -/
inductive Trans where
  | ok (pa : Nat) (node : Nat) (expiry : Nat)
  | fault (code sub : Byte)
  | page (base : W64) (size : Nat) (absent : Bool)
  deriving DecidableEq, Repr

/-! ### Routes (R335) -/

/-- A port that may carry requests: UP, UP_DEGRADED, SPILLING, RESTRIPE or REPLAY. -/
def Link.usable (l : Link) : Bool :=
  match l.st with
  | .up | .degraded | .spilling | .restripe | .replay => true
  | _ => false

/-- The usable ports of a node's mask, as a mask. -/
def State.usablePorts (s : State) (node : Nat) : Nat :=
  ((List.range 32).filter fun p => bit (Tbl.get 0 s.mgmt.route node).toNat p && (s.link p).usable).foldl
    (fun m p => m + 2 ^ p) 0

/-- A node is one of this package's hosts (R335). -/
def isHostNode (node : Nat) : Bool := node == 510 || node == 511

def State.hasRoute (s : State) (node : Nat) : Bool :=
  isHostNode node || (1 ≤ node && node ≤ 288 && s.usablePorts node != 0)

/-! ### Page-table entries (R264, R265) -/

/-- The index of a level's entry. -/
def levelIndex (lvl va : Nat) : Nat :=
  match lvl with
  | 4 => bits va 48 9
  | 3 => bits va 39 9
  | 2 => bits va 30 9
  | 1 => bits va 21 9
  | _ => bits va 16 5

/-- log2 of the page a leaf of a level maps. -/
def levelBits (lvl : Nat) : Nat := match lvl with | 2 => 30 | 1 => 21 | _ => 16

/-- SIZE coding of a page (R271). -/
def sizeCode (pageBits : Nat) : Nat := if pageBits == 30 then 2 else if pageBits == 21 then 1 else 0

/-- A malformed entry (R265). -/
def malformed (e lvl : Nat) : Bool :=
  bit e 0 || bits e 52 12 != 0 ||
  (if bit e 6 then
    3 ≤ lvl || (lvl == 1 && bits e 16 5 != 0) || (lvl == 2 && bits e 16 14 != 0)
  else
    lvl == 0 || 2 ≤ bits e 4 2 || bits e 1 3 != 0 || bit e 7 || (lvl != 1 && bits e 8 4 != 0))

/-- What a walk finds: a PRESENT leaf and its level, or why there is none (R266). -/
inductive Found where
  | leaf (e lvl : Nat)
  | fault (sub : Byte) (state : Nat) (e lvl : Nat)
  | page (lvl : Nat) (absent : Bool) (e : Nat)
  deriving DecidableEq, Repr

/-- The walk from table `t` at level `lvl`, with the physical places of the entries it read (R266). -/
def walk (s : State) (va : Nat) : (lvl : Nat) → (t : Nat) → List Nat → Found × List Nat
  | lvl, t, seen =>
    let at_ := t + 8 * levelIndex lvl va
    let e := if at_ + 8 ≤ hbmBytes then s.readN at_ 8 else 0
    let seen := at_ :: seen
    let st := bits e 4 2
    if st == 0 then (.fault 2 0 0 lvl, seen)
    else if malformed e lvl then (.fault 3 0 0 lvl, seen)
    else if bit e 6 then
      let size := levelBits lvl
      let node := bits e 7 9
      let page := bits e 16 36 * 2 ^ 16
      if st != 1 then (.page lvl (st == 2) e, seen)
      else if node == 0 && hbmBytes < page + 2 ^ size then (.fault 4 st e lvl, seen)
      else if node != 0 && !s.hasRoute node then (.fault 5 st e lvl, seen)
      else (.leaf e lvl, seen)
    else match lvl with
      | 0 => (.fault 3 0 0 0, seen)
      | l + 1 => walk s va l (bits e 8 44 * 2 ^ 8) seen

/-- A canonical virtual address (R263). -/
def canonicalVa (va : Nat) : Bool := bits va 57 7 == (if bit va 56 then 127 else 0)

/-- The permissions a leaf lacks, as the sub-code of ACCESS_VIOLATION; a peer page is never fetched (R266, R274). -/
def lacking (e : Nat) (needs : Needs) : Option Byte :=
  if bit needs 0 && !bit e 1 then some 1
  else if bit needs 1 && !bit e 2 then some 2
  else if bit needs 2 && (!bit e 3 || bits e 7 9 != 0) then some 3
  else none

/-- Set the TDIES bits of the dies some local physical addresses lie on (R87). -/
def State.touch (s : State) (ctx : Nat) (pas : List Nat) : State :=
  s.modCtx ctx fun c => { c with tdies := pas.foldl (fun m p => m ||| BitVec.ofNat 8 (2 ^ dieOfAddr p)) c.tdies }

/-- The cached translation a unit may use: its own core's, its die's, the shared table's; below its lease
(R267, R268). -/
def State.tlbFind (s : State) (ctx core va : Nat) : Option TlbEntry :=
  let fits := fun (e : TlbEntry) => e.ctx == ctx && e.page == va / 2 ^ e.bits && s.time + 2 < e.expiry
  (s.tlb.filter fun e => e.place == .core core && fits e).head?.or
    ((s.tlb.filter fun e => e.place == .die (dieOfCore core) && fits e).head?.or
      (s.tlb.filter fun e => e.place == .hashed && fits e).head?)

/-- Cache a PRESENT leaf at the three levels, with its lease, and raise LHOR in the same act (R266, R267). -/
def State.tlbFill (s : State) (ctx core va e lvl : Nat) : Nat × State :=
  let lease := ((s.ctx? ctx).map fun c => if c.lease == 0 then 50 else c.lease).getD 50
  let exp := s.time + 1000 * lease
  let entry := fun p => (TlbEntry.mk p ctx (va / 2 ^ levelBits lvl) (levelBits lvl) (BitVec.ofNat 64 e) exp)
  let fresh := [entry (.core core), entry (.die (dieOfCore core)), entry .hashed]
  let old := s.tlb.filter fun t =>
    !(t.ctx == ctx && t.bits == levelBits lvl && t.page == va / 2 ^ levelBits lvl && fresh.any (·.place == t.place))
  (exp, { s.modCtx ctx (fun c => { c with lhor := max c.lhor exp }) with tlb := old ++ fresh })

/-- The physical address a leaf gives. -/
def leafPa (e pageBits va : Nat) : Nat := bits e 16 36 * 2 ^ 16 + va % 2 ^ pageBits

/-- A local physical address lies on a die that is lost (R88, R396). -/
def State.lostPa (s : State) (pa : Nat) : Bool := (s.die (dieOfAddr pa)).lost

/-- A translated address: memory of a lost die is not reached (R88). -/
def State.reach (s : State) (pa node exp : Nat) : Trans :=
  if node == 0 && s.lostPa pa then .fault 0x40 3 else .ok pa node exp

/-- Walk and cache for an access of `core` (R266, R270). Damage under an entry fails the access (R205). -/
def State.walkFor (s : State) (ctx core va : Nat) (needs : Needs) (tdies : Bool) : State × Trans :=
  let root := ((s.ctx? ctx).map Ctx.ptroot).getD 0
  let (found, seen) := walk s va 4 root []
  let s := if tdies then s.touch ctx seen else s
  let damage := s.damageAt (seen.flatMap fun a => span a 8)
  if seen.any s.lostPa then (s, .fault 0x40 3)
  else if damage != 0 then (s, .fault 0x42 (BitVec.ofNat 8 damage))
  else match found with
  | .fault sub _ _ _ => (s, .fault 0x12 sub)
  | .page lvl absent _ =>
    (s, .page (BitVec.ofNat 64 va) (sizeCode (levelBits lvl)) absent)
  | .leaf e lvl =>
    let (exp, s) := s.tlbFill ctx core va e lvl
    match lacking e needs with
    | some sub => (s, .fault 0x11 sub)
    | none =>
      let pa := leafPa e (levelBits lvl) va
      let node := bits e 7 9
      (if tdies && node == 0 then s.touch ctx [pa] else s, s.reach pa node exp)

/-- Translate an ordinary address for a unit of `core` (R266 to R268). A cached entry is used when it is still held;
one that lacks a permission is walked again. -/
def State.translate (s : State) (ctx core va : Nat) (needs : Needs) : State × Trans :=
  if !canonicalVa va then (s, .fault 0x12 1)
  else match s.tlbFind ctx core va with
    | none => s.walkFor ctx core va needs true
    | some t =>
      let (n, s) := s.free
      let e := t.leaf.toNat
      if Config.tlbHeld n && (lacking e needs).isNone then
        let pa := leafPa e t.bits va
        (if bits e 7 9 == 0 then s.touch ctx [pa] else s, s.reach pa (bits e 7 9) t.expiry)
      else s.walkFor ctx core va needs true

/-! ### Views (15_view.md) -/

/-- A view entry's fields (R280). -/
structure View where
  wbase : Nat
  ebase : Nat
  ec : Nat
  er : Nat
  we : Bool
  e : Nat
  view : Nat
  bad : Bool
  expiry : Nat
  deriving DecidableEq, Repr

def View.rows (v : View) : Nat := 64 * (v.er + 1)
def View.cols (v : View) : Nat := 64 / v.e * (v.ec + 1)
def View.size (v : View) : Nat := v.e * v.rows * v.cols
def View.window (v : View) : Nat := roundUp v.size 65536
/-- The tile edge of TILEt. -/
def View.edge (v : View) : Nat := 2 ^ (v.view + 1)

/-- A range stays canonical (R263). -/
def canonicalRange (base len : Nat) : Bool :=
  base + len ≤ 2 ^ 64 && canonicalVa base && canonicalVa (base + len - 1) && bit base 56 == bit (base + len - 1) 56

/-- Decode a valid entry; none when V is 0 (R280). -/
def viewOf (ws : List Nat) : Option View :=
  let w := fun i => ws.getD i 0
  if !bit (w 0) 0 then none
  else
    let esz := bits (w 3) 3 2
    let v := View.mk (bits (w 0) 16 48 * 2 ^ 16) (bits (w 1) 16 48 * 2 ^ 16) (bits (w 2) 16 16) (bits (w 2) 0 16)
      (bit (w 3) 7) (if esz == 0 then 1 else if esz == 1 then 2 else 4) (bits (w 3) 0 3) false 0
    let reserved := bits (w 0) 1 15 != 0 || bits (w 1) 0 16 != 0 || bits (w 2) 32 32 != 0 || bits (w 3) 8 56 != 0
      || bits (w 3) 5 2 != 0
    let bad := reserved || esz == 3 || 6 ≤ v.view
      || (2 ≤ v.view && v.view ≤ 5 && v.cols % v.edge != 0)
      || !canonicalRange v.wbase v.window || !canonicalRange v.ebase v.size
    some { v with bad := bad }

/-- The element (i, j) at element offset `k` of the window (R282). -/
def View.element (v : View) (k : Nat) : Nat × Nat :=
  if v.view == 0 then (k / v.cols, k % v.cols)
  else if v.view == 1 then (k % v.rows, k / v.rows)
  else
    let t := v.edge
    let tile := k / (t * t)
    let r := k % (t * t)
    (tile / (v.cols / t) * t + r / t, tile % (v.cols / t) * t + r % t)

/-- The canonical byte address of element (i, j) (R278). -/
def View.canon (v : View) (i j : Nat) : Nat :=
  v.ebase + 4096 * (i / 64 * (v.ec + 1) + j / (64 / v.e)) + 64 * (i % 64) + v.e * (j % (64 / v.e))

/-- The canonical virtual byte behind view offset `o` (R282). -/
def View.byteAt (v : View) (o : Nat) : Nat :=
  let (i, j) := v.element (o / v.e)
  v.canon i j + o % v.e

/-- Read the view entries that matter, cached or at their homes, each with a lease (R281). -/
def State.viewEntries (s : State) (ctx vtab : Nat) : Nat → State × List (Nat × View)
  | 0 => (s, [])
  | k + 1 =>
    let (s, rest) := s.viewEntries ctx vtab k
    let atHome := (List.range 4).map fun i => s.readN (vtab + 32 * k + 8 * i) 8
    let held := s.views.find? fun e => e.ctx == ctx && e.idx == k && s.time + 2 < e.expiry
    let (n, s) := if held.isSome then s.free else (0, s)
    let ws := match held with
      | some e => if Config.tlbHeld n then e.words.map BitVec.toNat else atHome
      | none => atHome
    match viewOf ws with
    | none => (s, rest)
    | some v =>
      let lease := ((s.ctx? ctx).map fun c => if c.lease == 0 then 50 else c.lease).getD 50
      let fromHome := held.isNone || !Config.tlbHeld n
      let exp := if fromHome then s.time + 1000 * lease else (held.map ViewEntry.expiry).getD 0
      let s := if fromHome then
          { s.modCtx ctx (fun c => { c with lhor := max c.lhor exp }) with
            views := (s.views.filter fun e => !(e.ctx == ctx && e.idx == k))
              ++ [ViewEntry.mk ctx k (ws.map (BitVec.ofNat 64)) exp] }
        else s
      (s, rest ++ [(k, { v with expiry := exp })])

/-- The entries of a context, none without a view table. -/
def State.viewsOf (s : State) (ctx : Nat) : State × List (Nat × View) :=
  match s.ctx? ctx with
  | none => (s, [])
  | some c => if c.vtab == 0 then (s, []) else s.viewEntries ctx c.vtab 64

/-- Damage under the entries of a context's table that are read at their homes (R205, R281). -/
def State.viewDamage (s : State) (ctx : Nat) : Nat :=
  let vtab := ((s.ctx? ctx).map Ctx.vtab).getD 0
  if s.damaged.isEmpty || vtab == 0 then 0
  else
    let held := fun (k : Nat) => s.views.any fun e => e.ctx == ctx && e.idx == k && s.time + 2 < e.expiry
    s.damageAt (((List.range 64).filter fun k => !held k).flatMap fun k => span (vtab + 32 * k) 32)

/-- The valid entries whose windows hold an address. -/
def claiming (vs : List (Nat × View)) (va : Nat) : List View :=
  (vs.map Prod.snd).filter fun v => v.wbase ≤ va && va < v.wbase + v.window

/-! ### Accesses -/

/-- Where an access's bytes lie: the physical bytes and the virtual bytes of the page table behind them. -/
inductive Mapped where
  | ok (pas vas : List Nat) (node : Nat) (expiry : Nat)
  | fault (code sub : Byte)
  | page (base : W64) (size : Nat) (absent : Bool)
  deriving DecidableEq, Repr

/-- Translate canonical bytes one by one, in rising order (R283). -/
def State.mapBytes (s : State) (ctx core : Nat) (needs : Needs) : List Nat → State × Mapped
  | [] => (s, .ok [] [] 0 (s.time + 10 ^ 12))
  | b :: bs =>
    match s.translate ctx core b needs with
    | (s, .fault c sub) => (s, .fault c sub)
    | (s, .page base size a) => (s, .page base size a)
    | (s, .ok pa node exp) =>
      if node != 0 then (s, .fault 0x13 4)
      else match s.mapBytes ctx core needs bs with
        | (s, .ok pas vas _ exp') => (s, .ok (pa :: pas) (b :: vas) 0 (min exp exp'))
        | r => r

/-- The tests of R284 against the one entry that claims an address, lowest first. -/
def viewTests (v : View) (va n : Nat) (marked fetch : Bool) : Option Byte :=
  let o := va - v.wbase
  if v.size < o + n then some 1
  else if v.bad then some 2
  else if marked && (n != v.e || o % v.e != 0) then some 3
  else if fetch then some 6
  else none

/-- An access of `n` bytes at `va`, within one page or one window (R281 to R284). -/
def State.mapAccess (s : State) (ctx core va n : Nat) (needs : Needs) (marked : Bool) : State × Mapped :=
  let damage := s.viewDamage ctx
  let (s, vs) := s.viewsOf ctx
  if damage != 0 then (s, .fault 0x42 (BitVec.ofNat 8 damage))
  else match claiming vs va with
  | [] =>
    match s.translate ctx core va needs with
    | (s, .ok pa node exp) => (s, .ok (span pa n) (span va n) node exp)
    | (s, .fault c sub) => (s, .fault c sub)
    | (s, .page b z a) => (s, .page b z a)
  | [v] =>
    match viewTests v va n marked (bit needs 2) with
    | some sub => (s, .fault 0x13 sub)
    | none =>
      if bit needs 1 && !v.we then (s, .fault 0x11 2)
      else match s.mapBytes ctx core needs ((span (va - v.wbase) n).map v.byteAt) with
        | (s, .ok pas vas node exp) => (s, .ok pas vas node (min exp v.expiry))
        | r => r
  | _ => (s, .fault 0x13 5)

/-- The bytes behind a mapping: local bytes as they stand, a peer's as unstated values (log 19). -/
def State.readMapped (s : State) (pas : List Nat) (node : Nat) : List Byte :=
  if node == 0 then pas.map s.byte
  else (pas.zipIdx).map fun p => Config.remoteByte (s.fresh + p.1) p.2

/-- The core whose TLB an engine or SCC of a cluster uses: the first of its cluster (log 11). -/
def coreOfCluster (c : Nat) : Nat := 8 * c

/-- A result of a device access in a context's space: a number, a fault, or a page to wait for. -/
inductive Got where
  | ok (v : Nat)
  | fault (code sub : Byte)
  | page (base : W64) (size : Nat) (absent : Bool)
  deriving DecidableEq, Repr

/-- Read `n` bytes in a context's space, aligned within one page (R395). Damage is DATA_UNCORRECTABLE (R205). -/
def State.vread (s : State) (ctx core va n : Nat) (needs : Needs) : State × Got :=
  match s.mapAccess ctx core va n needs false with
  | (s, .ok pas _ node _) =>
    if node == 0 && s.damageAt pas != 0 then (s, .fault 0x42 (BitVec.ofNat 8 (s.damageAt pas)))
    else (s, .ok (leNat (s.readMapped pas node)))
  | (s, .fault c sub) => (s, .fault c sub)
  | (s, .page b z a) => (s, .page b z a)

end Sys2Proof.Machine
end

