-- ==== Sys2Proof/Machine/Records.lean ====
section
/-! DEFINITION. What the device writes down: fault records and the fault queue (R89 to R91), CCB fields (R81),
management events (R375), page requests (R271), account and spoor records (R351 to R356), completion records
(R107), the snapshot of a Mirage capture (R362, R365). -/

namespace Sys2Proof.Machine

/-- A 64-bit word from fields, each a place and a value. -/
def pack (fs : List (Nat × Nat)) : Nat := (fs.map fun f => f.2 * 2 ^ f.1).sum

/-- A 32-bit count plus 1 (FQWR, ACCW, SPW, WR). -/
def bump (w : W32) : W32 := w + 1

/-! ### The fault queue -/

/-- Codes of the contexts' states (R86). -/
def CtxState.code : CtxState → Nat
  | .unbound => 0 | .saved => 1 | .running => 2 | .halting => 3 | .staging => 4 | .stopped => 5 | .destroying => 6

/-- Write the device's fields of a CCB back (R81). STATE, PRE and LASTOP go with every change of state (log 15). -/
def State.writeBack (s : State) (id : Nat) : State :=
  match s.ctx? id with
  | none => s
  | some c =>
    let s := s.deviceWrite (c.ccb + 5) 1 c.tdies.toNat
    let s := s.deviceWrite (c.ccb + 6) 1 c.dlost.toNat
    let s := s.deviceWrite (c.ccb + 0x10) 8 c.lhor
    let s := s.deviceWrite (c.ccb + 0x24) 4 c.accw.toNat
    let s := s.deviceWrite (c.ccb + 0x34) 4 c.spw.toNat
    let s := s.deviceWrite (c.ccb + 0x40) 4 c.fqwr.toNat
    s.deviceWrite (c.ccb + 0x60) 2 (pack [(8, c.lastop), (3, b2n c.pre), (0, c.st.code)])

/-- A context goes to another state, and its CCB shows it. -/
def State.setCtxState (s : State) (id : Nat) (st : CtxState) : State :=
  (s.modCtx id fun c => { c with st := st }).writeBack id

/-- FQWR − FQRD equals 2^FQSZ (R91); FQRD is read from the CCB. -/
def State.fqFull (s : State) (c : Ctx) : Bool :=
  (c.fqwr - BitVec.ofNat 32 (s.readN (c.ccb + 0x44) 4)).toNat == 2 ^ c.fqsz

/-- The eight words of a fault record (R89). -/
def FaultRec.words (r : FaultRec) (seq : Nat) : List Nat :=
  [pack [(32, seq), (31, b2n r.fin), (30, b2n r.hnd), (24, r.die), (8, r.sub.toNat), (0, r.code.toNat)],
   r.time, r.pc.toNat, r.addr.toNat, pack [(32, r.grp), (0, r.kern)],
   pack [(32, r.detail), (16, r.core), (0, r.tid)], r.item.toNat, 0]

/-- Write one record at entry FQWR mod 2^FQSZ, then FQWR, then raise the vector (R89, R343). -/
def State.writeRecord (s : State) (id : Nat) (r : FaultRec) : State :=
  match s.ctx? id with
  | none => s
  | some c =>
    let s := s.deviceWords (c.fqb + 64 * (c.fqwr.toNat % 2 ^ c.fqsz)) (r.words c.fqwr.toNat)
    let s := s.modCtx id fun c => { c with fqwr := bump c.fqwr }
    let s := s.deviceWrite (c.ccb + 0x40) 4 (bump c.fqwr).toNat
    if c.fqi then s.emit (.msix c.port c.fqvec) else s

/-- Count events of a tenant on a die for its telemetry entry, `field` its byte offset; none while TLMBASE is 0 (R301). -/
def State.count (s : State) (ctx die field n : Nat) : State :=
  if s.mgmt.tlmbase = 0 || n == 0 then s
  else { s with telemetry := s.telemetry ++ [(((s.ctx? ctx).map Ctx.tenant).getD 0, die, field, n)] }

/-- Enter a record: it is held behind others, or while the queue is full (R91). -/
def State.enter (s : State) (id : Nat) (r : FaultRec) : State :=
  match s.ctx? id with
  | none => s
  | some c =>
    if c.held.isEmpty && !s.fqFull c then s.writeRecord id r
    else s.modCtx id fun c => { c with held := c.held ++ [r] }

/-- Post the record of an item's own failure: a report of DATA_UNCORRECTABLE counts (R301). The records of what fails with it,
such as its kernel and the commands of its group, are entered and count no second report. -/
def State.post (s : State) (id : Nat) (r : FaultRec) : State :=
  (if r.code = 0x42 then s.count id r.die 0x38 1 else s).enter id r

/-- Write held records in order while there is room (R91). -/
def State.flushHeld (s : State) (id : Nat) : List FaultRec → State
  | [] => s.modCtx id fun c => { c with held := [] }
  | r :: rs =>
    match s.ctx? id with
    | none => s
    | some c =>
      if s.fqFull c then s.modCtx id fun c => { c with held := r :: rs }
      else State.flushHeld (s.writeRecord id r) id rs

/-- ITEM of a record: kind and identity (R90). -/
def item (kind n : Nat) : W64 := BitVec.ofNat 64 (kind * 2 ^ 60 + n % 2 ^ 60)

/-! ### Rings of a host port (R271, R375) -/

/-- A ring has room: its base is set and WR − RD is below 2^SZ. -/
def ringRoom (base : W64) (ctl wr rd : W32) : Bool :=
  base != 0 && (wr - rd).toNat != 2 ^ bits ctl.toNat 0 5

/-- Entry WR of a ring of 32-byte records. -/
def ringEntry (base : W64) (ctl wr : W32) : Nat := base.toNat / 4096 * 4096 + 32 * (wr.toNat % 2 ^ bits ctl.toNat 0 5)

/-- Hold a management event for both ports (R375). -/
def State.event (s : State) (code detail addr time : Nat) : State :=
  let add := fun (s : State) (p : Nat) =>
    s.setPort p { s.port p with
      evs := (s.port p).evs ++ [MgmtEvent.mk time code (BitVec.ofNat 64 detail) (BitVec.ofNat 64 addr)]
      lastEvent := code }
  add (add s 0) 1

/-- What the I3C sideband reports of a port: the unread events, held or in its ring, and the last CODE (R375). -/
def Port.sideband (r : Port) : Nat × Nat := ((r.evwr - r.evrd).toNat + r.evs.length, r.lastEvent)

/-- Write the first held event of a port, when there is room (R375). -/
def State.writeEvent (s : State) (p : Fin 2) : State :=
  let r := s.port p
  match r.evs with
  | [] => s
  | e :: es =>
    if ringRoom r.evbase r.evctl r.evwr r.evrd then
      let s := s.deviceWords (ringEntry r.evbase r.evctl r.evwr) [e.time, e.code, e.detail.toNat, e.addr.toNat]
      let s := s.setPort p { s.port p with evs := es, evwr := bump r.evwr }
      if bit r.evctl.toNat 5 then s.emit (.msix p 2) else s
    else s

/-- log2 of the page a SIZE code names (R271). -/
def pageLog (size : Nat) : Nat := match size with | 0 => 16 | 1 => 21 | _ => 30

/-- The base of the page of a SIZE code that holds an address. -/
def pageBase (va : W64) (size : Nat) : Nat := va.toNat / 2 ^ pageLog size * 2 ^ pageLog size

/-- Hold a page request for the page that holds `va`, unless one is outstanding for the context and page (R270, R271). -/
def State.request (s : State) (ctx : Nat) (va : W64) (size : Nat) (kind : Needs) : State :=
  match s.ctx? ctx with
  | none => s
  | some c =>
    let base := BitVec.ofNat 64 (pageBase va size)
    if c.requests.contains (base, size) then s
    else
      let s := s.modCtx ctx fun c => { c with requests := c.requests ++ [(base, size)] }
      s.setPort c.port { s.port c.port with reqs := (s.port c.port).reqs ++ [PageReq.mk base ctx size kind s.time] }

/-- A request for the page of one of some addresses of a context is still to be written to its ring. -/
def State.requestHeld (s : State) (ctx : Nat) (vas : List W64) : Bool :=
  match s.ctx? ctx with
  | none => false
  | some c => (s.port c.port).reqs.any fun r => r.ctx == ctx && vas.any fun v => pageBase v r.size == r.va.toNat

/-- Write the first held page request of a port, when there is room (R271). -/
def State.writeRequest (s : State) (p : Fin 2) : State :=
  let r := s.port p
  match r.reqs with
  | [] => s
  | q :: qs =>
    if ringRoom r.prqbase r.prqctl r.prqwr r.prqrd then
      let s := s.deviceWords (ringEntry r.prqbase r.prqctl r.prqwr)
        [q.va.toNat, pack [(32, r.prqwr.toNat), (8, q.ctx), (4, q.size), (0, q.kind)], q.time, 0]
      let s := s.setPort p { s.port p with reqs := qs, prqwr := bump r.prqwr }
      if bit r.prqctl.toNat 5 then s.emit (.msix p 1) else s
    else s

/-! ### Accounts (R351 to R353) and spoor (R354 to R356) -/

/-- One account record to a context's buffer (R351, R352): counted, not stored, while ACCN is 0. -/
def State.account (s : State) (id : Nat) (w0 w1 : Nat) : State :=
  match s.ctx? id with
  | none => s
  | some c =>
    let s := if c.accn == 0 then s else s.deviceWords (c.accb + 16 * (c.accw.toNat % c.accn)) [w0, w1]
    let s := s.modCtx id fun c => { c with accw := bump c.accw }
    s.deviceWrite (c.ccb + 0x24) 4 (bump c.accw).toNat

/-- Spill one accumulator as a count record (R352). -/
def State.spillOne (s : State) (a : Accum) : State :=
  s.account a.ctx a.pc.toNat (pack [(32, a.count), (16, a.kern), (0, a.cause)])

def State.spillList (s : State) : List Accum → State
  | [] => s
  | a :: as => State.spillList (s.spillOne a) as

/-- Spill the accumulators of a core that `p` picks (R351). -/
def State.spill (s : State) (core : Nat) (p : Accum → Bool) : State :=
  let c := s.core core
  (s.setCore core { c with accums := c.accums.filter fun a => !p a }).spillList (c.accums.filter p)

def State.spillCores (s : State) (p : Accum → Bool) : List Nat → State
  | [] => s
  | n :: ns => State.spillCores (s.spill n p) p ns

/-- Spill everywhere: every core that holds accumulators. -/
def State.spillAll (s : State) (p : Accum → Bool) : State := s.spillCores p (s.cores.map Prod.fst)

/-- One 64-byte spoor record (R354, R355). -/
def State.spoor (s : State) (id : Nat) (ws : List Nat) : State :=
  match s.ctx? id with
  | none => s
  | some c =>
    if c.spn == 0 then s
    else
      let s := s.deviceWords (c.spb + 64 * (c.spw.toNat % c.spn)) ws
      let s := s.modCtx id fun c => { c with spw := bump c.spw }
      s.deviceWrite (c.ccb + 0x34) 4 (bump c.spw).toNat

/-- The four words of an event record (R107). -/
def Completion.words (r : Completion) : List Nat :=
  [r.pkt.toNat, pack [(32, r.val), (31, b2n r.late), (16, r.sub.toNat), (8, r.code.toNat), (0, r.kind)], r.time, r.ctx]

/-! ### Freezing and the firmware windows (R371 to R373) -/

/-- KIND and ID of a master, as FRZSTAT codes them; a host is never frozen. -/
def Master.frozenAs : Master → Option (Nat × Nat)
  | .host _ => none
  | .core n => some (0, Config.coreNumber n)
  | .engine c => some (1, c)
  | .scc c => some (1, 0x2000 + c)
  | .management => some (2, 0)
  | .link n => some (3, n)

/-- FRZSTAT: the master frozen most recently, and how many are. -/
def Mgmt.frzstat (m : Mgmt) : Nat :=
  match m.frozen.getLast? with
  | none => 0
  | some (kind, id) => pack [(30, kind), (16, id), (0, m.frozen.length % 256)]

/-- A master that issues no request now (R372). -/
def Mgmt.holdsBack (mg : Mgmt) (m : Master) : Bool := ((Master.frozenAs m).map mg.frozen.contains).getD false

/-- The SCC of a cluster is frozen (R372). -/
def State.sccFrozen (s : State) (cluster : Nat) : Bool := s.mgmt.frozen.contains (1, 0x2000 + cluster)

/-- A master that violates a limit is frozen, with its event. One that is frozen already has made no request. -/
def State.markFrozen (s : State) (m : Master) : State :=
  match Master.frozenAs m with
  | none => s
  | some key =>
    if s.mgmt.frozen.contains key then s
    else
      let s := { s with mgmt := { s.mgmt with frozen := s.mgmt.frozen ++ [key] } }
      s.event 6 s.mgmt.frzstat 0 s.time

/-- The base and size of firmware window `n` (R373). -/
def Mgmt.window (m : Mgmt) (n : Nat) : Nat × Nat :=
  (bits (Tbl.get 0 m.fwwb n).toNat 20 32 * 2 ^ 20, 2 ^ bits (Tbl.get 0 m.fwws n).toNat 0 6)

/-- One open firmware window holds `n` bytes at `pa` (R373). -/
def Mgmt.inWindow (m : Mgmt) (pa n : Nat) : Bool :=
  (List.range 4).any fun i =>
    let (base, size) := m.window i
    bit (Tbl.get 0 m.fwwb i).toNat 0 && base ≤ pa && pa + n ≤ base + size

/-- Where a cluster's event queue lies: in window 0 (R373), at a place there that the spec does not give (log 5). -/
def State.eventBase (s : State) (cluster : Nat) : Nat :=
  let (base, size) := s.mgmt.window 0
  base + 131072 * (Config.eventSlot cluster % max 1 (size / 131072))

/-- The SCC writes the next record of its event queue, at its sequence number modulo 4,096 (R107): a physical access, which
must lie within one open window (R371). -/
def State.postEvent (s : State) (cluster : Nat) (r : Completion) : State :=
  let k := s.cluster cluster
  let at_ := s.eventBase cluster + 32 * (k.seq % 4096)
  let s := s.setCluster cluster { k with events := k.events ++ [r], seq := k.seq + 1 }
  if s.mgmt.inWindow at_ 32 then s.deviceWords at_ r.words else s.markFrozen (.scc (Fin.ofNat 128 cluster))

/-- A record to a cluster's event queue: held while its SCC is frozen (R107, R372). -/
def State.complete (s : State) (cluster : Nat) (r : Completion) : State :=
  if s.sccFrozen cluster then
    s.setCluster cluster { s.cluster cluster with unposted := (s.cluster cluster).unposted ++ [r] }
  else s.postEvent cluster r

/-- The records held are written in order when the SCC is released. -/
def State.completeAll (s : State) (cluster : Nat) : List Completion → State
  | [] => s
  | r :: rs => State.completeAll (s.complete cluster r) cluster rs

/-! ### Requests to peers and hosts (R335, R339, R343) -/

/-- The largest aligned power of two at most 256 that starts at `a` and fits in `n` (R332). -/
def pieceSize (a n : Nat) : Nat := ([256, 128, 64, 32, 16, 8, 4, 2].find? fun p => a % p == 0 && p ≤ n).getD 1

/-- `n` bytes from `a` cut into requests: their offsets and sizes. -/
def pieces (a n o : Nat) : (fuel : Nat) → List (Nat × Nat)
  | 0 => []
  | f + 1 => if n ≤ o then [] else let p := pieceSize (a + o) (n - o); (o, p) :: pieces a n (o + p) f

/-- The length of the run of consecutive places that a list starts with. -/
def runLength : List Nat → Nat
  | [] => 0
  | [_] => 1
  | a :: b :: l => if b == a + 1 then 1 + runLength (b :: l) else 1

/-- Places and their bytes cut into runs of consecutive places. -/
def runs : (fuel : Nat) → List Nat → List Byte → List (Nat × List Byte)
  | 0, _, _ => []
  | _, [], _ => []
  | f + 1, a :: l, bs =>
    let n := runLength (a :: l)
    (a, bs.take n) :: runs f ((a :: l).drop n) (bs.drop n)

/-- The requests that write some bytes to a peer: place and bytes, each naturally aligned within 256 (R332). -/
def writeParts (pas : List Nat) (bs : List Byte) : List (Nat × List Byte) :=
  (runs pas.length pas bs).flatMap fun r =>
    (pieces r.1 r.2.length 0 r.2.length).map fun p => (r.1 + p.1, (r.2.drop p.1).take p.2)

/-- The port a request to a node takes: the hash over the usable ports of the route mask. -/
def State.portFor (s : State) (node pa : Nat) : Option Nat :=
  let m := s.usablePorts node
  let ps := (List.range 32).filter fun p => bit m p
  ps[Config.portHash (pa / 256) m % ps.length]?

/-- The flits that a Caravan die's 8 ports may hold in its wadi of 64 MiB (R339). -/
def wadiFlits : Nat := 2 ^ 26 / 640

/-- The flits that the ports of a port's Caravan die hold in its wadi. -/
def State.wadiUsed (s : State) (p : Nat) : Nat := ((List.range 8).map fun i => (s.link (p / 8 * 8 + i)).wadi.length).sum

/-- A port takes no new flit: its wadi is full while it spills, or its replay buffer (R337, R339). -/
def State.portFull (s : State) (p : Nat) : Bool :=
  let l := s.link p
  if l.st == .spilling then wadiFlits ≤ s.wadiUsed p else 1024 ≤ l.buffer.length

/-- The port that a request to a peer would take has no room for it (R337, R339). -/
def State.portBlocked (s : State) (node pa : Nat) : Bool :=
  node != 0 && !isHostNode node && ((s.portFor node pa).map s.portFull).getD false

/-- Egress flits of a spilling port move to the tail of its share of the wadi, as far as there is room (R339). -/
def State.toWadi (s : State) (p : Nat) : State :=
  let l := s.link p
  let n := wadiFlits - s.wadiUsed p
  let moved := ((l.egress.take n).filter fun f => f.answer.isNone).map OutFlit.req
  { s.setLink p { l with wadi := l.wadi ++ l.egress.take n, egress := l.egress.drop n } with
    reqs := s.reqs.map fun (r : LinkReq) => if moved.contains r.id then { r with wadi := true } else r }

/-- A flit joins the tail of a port's egress queue, behind every older one; while the port spills, it goes on to the wadi from
there as soon as there is room. -/
def State.enqueue (s : State) (p : Nat) (f : OutFlit) : State :=
  let l := s.link p
  let s := s.setLink p { l with egress := l.egress ++ [f], lastOut := if l.egress.isEmpty then s.time else l.lastOut }
  if l.st == .spilling then s.toWadi p else s

/-- Send a request: to a host at once, to a peer on a port, where its flit waits to leave. None where the node has no usable
port left. `via` is the translation it was made under, if any. -/
def State.sendReq (s : State) (whose : ReqFor) (node pa size : Nat) (data : Option Nat) (op : Option (BitVec 4))
    (via : Option Via) : State × Option Nat :=
  let (n, s) := s.free
  if isHostNode node then (s.emit (.request n node pa size data op), some n)
  else
    match s.portFor node pa with
    | none => (s, none)
    | some p =>
      let addr := (via.map Via.va).getD (BitVec.ofNat 64 (pack [(55, node), (0, pa)]))
      let s := { s with reqs := s.reqs ++ [LinkReq.mk n whose node (some p) s.time size false addr] }
      ((s.enqueue p ⟨n, node, pa, size, data, op, none, via⟩).after 1000000 (.linkRequestTimeout n), some n)

/-- The translation behind each physical place of a mapping, as a request made now carries it (R268). -/
def State.viaOf (s : State) (ctx core : Nat) (needs : Needs) (pas vas : List Nat) (pa : Nat) : Option Via :=
  (vas[pas.idxOf pa]?).map fun va => ⟨ctx, core, BitVec.ofNat 64 va, needs, s.time⟩

/-- A request is a part of an engine command. -/
def ReqFor.ofCmd (r : ReqFor) (id : Nat) : Bool := match r with | .cmd c _ => c == id | _ => false

/-- Send writes of bytes to a peer, numbered by `whose`, each under the translation of its place; false where its node lost its
last usable port on the way. -/
def State.sendWrites (s : State) (whose : Nat → ReqFor) (via : Nat → Option Via) (node part : Nat) :
    List (Nat × List Byte) → State × Bool
  | [] => (s, true)
  | (pa, bs) :: l =>
    match s.sendReq (whose part) node pa bs.length (some (leNat bs)) none (via pa) with
    | (s, none) => (s, false)
    | (s, some _) => State.sendWrites s whose via node (part + 1) l

/-- Send reads of elements on peers, numbered by `whose`: node, place, size, translation. None where all are sent, else the first
whose node has no usable port. -/
def State.sendReads (s : State) (whose : Nat → ReqFor) (part : Nat) :
    List (Nat × Nat × Nat × Option Via) → State × Option Nat
  | [] => (s, none)
  | (node, pa, n, via) :: l =>
    match s.sendReq (whose part) node pa n none none via with
    | (s, none) => (s, some part)
    | (s, some _) => State.sendReads s whose (part + 1) l

/-! ### Capture (R362, R365) -/

/-- Cells copied to another place. -/
def State.setCells (s : State) (src dst : Nat) : List (Nat × Byte) → State
  | [] => s
  | c :: cs => State.setCells (s.setByte (dst + (c.1 - src)) c.2) src dst cs

/-- The bytes of a list of places. -/
def State.bytesOf (s : State) (pas : List Nat) : List Byte := pas.map s.byte

/-- Copy `n` bytes of local memory, as a write of whole sectors at their homes. -/
def State.copyBytes (s : State) (src dst n : Nat) : State :=
  let cells := s.mem.filter fun (c : Nat × Byte) => src ≤ c.1 && c.1 < src + n
  let s := { s with
    mem := s.mem.filter fun (c : Nat × Byte) => !(dst ≤ c.1 && c.1 < dst + n)
    damaged := s.damaged.filter fun (d : Nat × Nat) => !(dst ≤ 32 * d.1 && 32 * d.1 + 32 ≤ dst + n) }
  (s.setCells src dst cells).wakeWhere (fun sec => dst ≤ 64 * sec && 64 * sec < dst + n)
    (fun a => dst ≤ a && a < dst + n) 1

/-- The places of `n` bytes of a context's own space for the device, if it may use them (R281, R365). -/
def State.ownPas (s : State) (ctx va n : Nat) (needs : Needs) : State × Option (List Nat) :=
  match s.mapAccess ctx 0 va n needs false with
  | (s, .ok pas _ 0 _) => (s, some pas)
  | (s, _) => (s, none)

/-- 64-bit words written at some places, one byte each. -/
def State.wordsAt (s : State) (pas : List Nat) (ws : List Nat) : State := s.homeWrite 1 pas (wordBytes ws)

/-- Directory units of a snapshot area of `n` units (R365). -/
def snapDir (n : Nat) : Nat := (16 * n + 65535) / 65536

/-- A run of places from the first. -/
def inOneRun (pas : List Nat) : Bool := pas == span (pas.headD 0) pas.length

/-- A unit is copied to the snapshot, and its directory entry written. -/
def State.copyUnit (s : State) (u src : Nat) (dst dir : List Nat) (copyVa : Nat) : State :=
  let s := if inOneRun dst then s.copyBytes src (dst.headD 0) 65536 else s.homeWrite 1 dst (s.bytesOf (span src 65536))
  let s := s.wordsAt dir [u, copyVa]
  { s with mirage := { s.mirage with
      copies := bump s.mirage.copies, copied := s.mirage.copied ++ [BitVec.ofNat 64 u] } }

/-- Before the first write to a unit of a captured context, copy the unit (R362). `va` is the unit's virtual base. -/
def State.captureUnit (s : State) (ctx va : Nat) : State :=
  let m := s.mirage
  let u := va / 65536 * 65536
  if m.st == .capturing && m.ctx == ctx && !m.copied.contains (BitVec.ofNat 64 u) then
    let h := snapDir m.units.toNat
    if h + m.copies.toNat == m.units.toNat then { s with mirage := { m with st := .snapFull } }
    else
      let k := m.copies.toNat
      let copyVa := m.snap.toNat + 65536 * (h + k)
      match s.translate ctx 0 u needsRead with
      | (s, .ok src 0 _) =>
        match s.ownPas ctx copyVa 65536 needsWrite with
        | (s, some dst) =>
          match s.ownPas ctx (m.snap.toNat + 16 * k) 16 needsWrite with
          | (s, some dir) => s.copyUnit u src dst dir copyVa
          | (s, none) => s
        | (s, none) => s
      | (s, _) => s
  else s

def State.captureUnits (s : State) (ctx : Nat) : List Nat → State
  | [] => s
  | v :: vs => State.captureUnits (s.captureUnit ctx v) ctx vs

/-- The units some virtual bytes lie in. -/
def unitsOf (vas : List Nat) : List Nat := (vas.map (· / 65536 * 65536)).eraseDups

/-- A unit a kernel has written, for the folds at its end (R362). -/
def State.noteUnits (s : State) (kern : Option Nat) (vas : List Nat) : State :=
  match kern with
  | none => s
  | some k =>
    if s.mirage.st == .capturing || s.mirage.st == .replaying then
      s.modKernel k fun kr => { kr with units := kr.units ++ (unitsOf vas).filter fun u => !kr.units.contains u }
    else s

/-- A write at local homes through a context's translation: captured first, then performed. -/
def State.localWrite (s : State) (ctx : Nat) (kern : Option Nat) (code : Nat) (pas vas : List Nat) (bs : List Byte) : State :=
  ((s.captureUnits ctx (unitsOf vas)).noteUnits kern vas).homeWrite code pas bs

/-- A write of the device through a context's translation: performed, or sent to its peer; false where the node has no usable
port (R340). -/
def State.ctxWrite (s : State) (ctx core : Nat) (code : Nat) (pas vas : List Nat) (node : Nat) (bs : List Byte) :
    State × Bool :=
  if node == 0 then (s.localWrite ctx none code pas vas bs, true)
  else s.sendWrites (fun _ => .device) (s.viaOf ctx core needsWrite pas vas) node 0 (writeParts pas bs)

/-- Write `n` bytes in a context's space, aligned within one page (R395). -/
def State.vwrite (s : State) (ctx core va n v : Nat) (code : Nat) : State × Got :=
  match s.mapAccess ctx core va n needsWrite false with
  | (s, .ok pas vas node _) =>
    match s.ctxWrite ctx core code pas vas node (leBytes n v) with
    | (s, true) => (s, .ok 0)
    | (s, false) => (s, .fault 0x50 2)
  | (s, .fault c sub) => (s, .fault c sub)
  | (s, .page b z a) => (s, .page b z a)

end Sys2Proof.Machine
end

