-- ==== Sys2Proof/Machine/Ops.lean ====
section
/-! DEFINITION. The named operations over registers, positions, groups and contexts: reading and writing
registers (R61), advancing through a clause (R58), holds (R123), the end of a group and of a kernel (R92, R115 to
R117), the save of a group (R273), TAKING AN EXCEPTION (`State.deliver`, R130, R175) and the return from one
(`Thread.returnFrom`, R177). -/

namespace Sys2Proof.Machine

/-! ### Registers and predicates (R59, R61) -/

def Thread.getX (t : Thread) (r : BitVec 6) : W32 := Tbl.get 0 t.x r.toNat
def Thread.setX (t : Thread) (r : BitVec 6) (v : W32) : Thread := { t with x := Tbl.set 0 t.x r.toNat v }
/-- A pair: the even register holds bits [31:0]. -/
def Thread.getX2 (t : Thread) (r : BitVec 6) : W64 := t.getX (r + 1) ++ t.getX r
def Thread.setX2 (t : Thread) (r : BitVec 6) (v : W64) : Thread :=
  (t.setX r (v.extractLsb' 0 32)).setX (r + 1) (v.extractLsb' 32 32)
/-- `k` registers from `r` as one number. -/
def Thread.getXs (t : Thread) (r : BitVec 6) : Nat → Nat
  | 0 => 0
  | k + 1 => (t.getX r).toNat + 2 ^ 32 * t.getXs (r + 1) k
def Thread.setXs (t : Thread) (r : BitVec 6) (v : Nat) : Nat → Thread
  | 0 => t
  | k + 1 => (t.setX r (BitVec.ofNat 32 v)).setXs (r + 1) (v / 2 ^ 32) k
def Thread.getP (t : Thread) (i : Nat) : Bool := t.p.getLsbD i
def Thread.setP (t : Thread) (i : Nat) (b : Bool) : Thread :=
  { t with p := (t.p &&& ~~~ (BitVec.ofNat 24 (2 ^ i))) ||| (if b then BitVec.ofNat 24 (2 ^ i) else 0) }

/-- A guard field (R61): 31 always, negated 31 never. -/
def Thread.guard (t : Thread) (g : BitVec 6) : Bool :=
  if g.toNat % 32 == 31 then !g.getLsbD 5 else xor (t.getP (g.toNat % 32)) (g.getLsbD 5)

/-! ### Positions (R58, R138) -/

/-- The position `n` words further in the clause. -/
def Pos.skip (p : Pos) (n : Nat) : Pos := { p with pc := p.pc + BitVec.ofNat 64 (4 * n), left := p.left - n }

/-- A position before the header at `pc`. -/
def Pos.header (pc : W64) : Pos := ⟨pc, 0, 0⟩

/-- A word of `n` words, or an iteration of a REP, is complete (R138, R139). -/
def Thread.advance (t : Thread) (n : Nat) : Thread :=
  match t.rep with
  | some r => if r.iter + 1 < r.count then { t with rep := some { r with iter := r.iter + 1 } }
              else { t with rep := none, pos := t.pos.skip n }
  | none => { t with pos := t.pos.skip n }

/-- A taken branch: the thread stands before the header `pc` (R168). -/
def Thread.jump (t : Thread) (pc : W64) : Thread := { t with pos := Pos.header pc }

/-- The iteration REPIDX reads (R139): of the active REP, or of the one the handler's fault interrupted. -/
def Thread.repidx (t : Thread) : Nat :=
  match t.rep with
  | some r => r.iter
  | none => ((t.handler.bind Handler.rep).map Rep.iter).getD 0

/-! ### The issuing thread (log 2) -/

/-- The thread whose word issues, with its group, kernel and context. -/
structure Env where
  g : Nat
  tid : Nat
  op : Nat
  gr : Group
  k : Kernel
  t : Thread
  deriving DecidableEq, Repr

/-- The head of the threads still to issue, when it stands in a group of a kernel. -/
def State.issuer (s : State) : Option Env :=
  match s.issuing with
  | [] => none
  | i :: _ =>
    match s.group? i.grp with
    | none => none
    | some gr =>
      match s.kernel? gr.kern, Tbl.find? gr.threads i.tid with
      | some k, some t => some ⟨i.grp, i.tid, i.op, gr, k, t⟩
      | _, _ => none

/-- The thread has issued. -/
def State.pop (s : State) : State := { s with issuing := s.issuing.tail }

/-- No thread of a group issues in what is left of this cycle. -/
def State.unissue (s : State) (g : Nat) : State := { s with issuing := s.issuing.filter fun i => i.grp != g }

def State.setThread (s : State) (g : Nat) (t : Thread) : State := s.modThread g t.tid fun _ => t

/-! ### Late faults (R259, R294, R394) -/

/-- A failure that may reach its thread now: found performed, and inside a handler not known before it. -/
def Late.ripe (t : Thread) (l : Late) : Bool := l.needs.isNone && !(t.handler.isSome && l.held)

/-- The failure of least operation number. -/
def firstLate : List Late → Option Late
  | [] => none
  | l :: ls =>
    match firstLate ls with
    | some m => if l.stamp ≤ m.stamp then some l else some m
    | none => some l

/-- The failure a thread takes next, where it stands at an instruction boundary. -/
def Thread.dueLate (t : Thread) : Option Late :=
  let here := match t.run with
    | .runnable => true
    | .waiting (.header _) => true
    | .waiting .notice => true
    | .waiting (.counters _) => true
    | .waiting .converge => true
    | .waiting (.sign _) => true
    | _ => false
  if here then firstLate (t.late.filter (Late.ripe t)) else none

/-! ### Resident groups, points, Slipface pinning -/

/-- A group occupies its core (R121). -/
def GroupState.resident : GroupState → Bool
  | .saved => false
  | .ended => false
  | _ => true

/-- A group whose threads may issue (R133). -/
def GroupState.issues : GroupState → Bool
  | .running => true
  | .dumping => true
  | _ => false

/-- The group's threads may issue: it is RUNNING or DUMPING, no page it has met keeps it where it is until its request is
written (R271), and it is not about to end (R91). -/
def Group.runs (gr : Group) : Bool := gr.st.issues && gr.pages.isEmpty && gr.ending.isNone

/-- The resident groups of a core. -/
def State.residents (s : State) (core : Nat) : List (Nat × Group) :=
  s.groups.filter fun g => g.2.core == core && g.2.st.resident

/-- Its gating lets a cluster take work at once (R120). -/
def GateState.up : GateState → Bool
  | .awake => true
  | .idle => true
  | .handshake => true
  | _ => false

/-- The highest point among a cluster's resident kernels and the COPY packets on its engine (R108, R319). -/
def State.pointOf (s : State) (c : Nat) : Nat :=
  let ks := (s.groups.filter fun g => clusterOf g.2.core == c && g.2.st.resident).filterMap fun g => s.kernel? g.2.kern
  let ps := (Tbl.vals s.pkts).filter fun p => p.owner == c && p.st == .running && bits (p.img.getD 1 0).toNat 0 4 == 4
  (ks.map Kernel.point ++ ps.map Pkt.point).foldl max 0

/-- Move a cluster to the point its work asks for; its slots issue nothing for at most 100 ns (R319, R320). -/
def State.repoint (s : State) (c : Nat) : State :=
  let k := s.cluster c
  let p := s.pointOf c
  if p == k.point then s
  else
    let (n, s) := s.free
    s.setCluster c { k with point := p, boost := p == 3, changing := s.time + Config.freeNat n % 101 }

/-- So for some clusters. -/
def State.repoints (s : State) : List Nat → State
  | [] => s
  | c :: cs => State.repoints (s.repoint c) cs

/-- A resident warp of the core is in EXACT mode with a live thread (R324). -/
def State.exactOn (s : State) (core : Nat) : Bool :=
  (s.residents core).any fun g => g.2.warps.any fun w => w.2.mode == 0 && !(g.2.liveIn w.1).isEmpty

/-- Pin or unpin a core's trim as its warps enter or leave EXACT (R322, R324). -/
def State.slipCheck (s : State) (core : Nat) : State :=
  let c := s.core core
  if s.exactOn core then
    match c.slip with
    | .track => s.setCore core { c with kept := c.trim, keptState := c.slip, keptHoldn := c.holdn, trim := 700,
                                        slip := .pinned, ramp := s.time + 200 }
    | .hold => s.setCore core { c with kept := c.trim, keptState := c.slip, keptHoldn := c.holdn, trim := 700,
                                       slip := .pinned, ramp := s.time + 200 }
    | _ => s
  else
    match c.slip with
    | .pinned => s.setCore core { c with trim := c.kept, slip := c.keptState, holdn := c.keptHoldn }
    | _ => s

/-- An unscheduled step of current: the boost bank carries it, or issue is halved for up to 2 µs (R326). -/
def State.surge (s : State) (c : Nat) : State :=
  let k := s.cluster c
  if k.bankFull then (s.setCluster c { k with bankFull := false }).after 12000 (.boostBankRecharged (Fin.ofNat 128 c))
  else (s.setCluster c { k with throttled := true }).after 2000 (.throttleExpiry (Fin.ofNat 128 c))

/-- So many unscheduled steps, one after another. -/
def State.surges (s : State) (c : Nat) : Nat → State
  | 0 => s
  | n + 1 => State.surges (s.surge c) c n

/-! ### Holds (R123) -/

/-- Add a hold: a RUNNING or DUMPING group halts at the boundary. -/
def Group.hold (g : Group) (h : Hold) : Group :=
  let g := if g.holds.contains h then g else { g with holds := g.holds ++ [h] }
  match g.st with
  | .running => { g with st := .halted false }
  | .dumping => { g with st := .halted true }
  | _ => g

/-- Remove a hold: the last one lets the group run on. -/
def Group.unhold (g : Group) (h : Hold) : Group :=
  let g := { g with holds := g.holds.filter (· != h) }
  match g.st with
  | .halted d => if g.holds.isEmpty then { g with st := if d then .dumping else .running } else g
  | _ => g

/-- A halt discards the remaining cycles of a YIELD (R143). -/
def Group.unyield (g : Group) : Group := g.mapThreads fun t => { t with yieldLeft := 0 }

/-- A group is held: what the running cycle has selected still issues, since a hold comes last in its cycle (R123). -/
def State.hold (s : State) (g : Nat) (h : Hold) : State := s.modGroup g fun gr => (gr.hold h).unyield
def State.unhold (s : State) (g : Nat) (h : Hold) : State := s.modGroup g fun gr => gr.unhold h

def State.holdAll (s : State) (h : Hold) : List Nat → State
  | [] => s
  | g :: gs => State.holdAll (s.hold g h) h gs
def State.unholdAll (s : State) (h : Hold) : List Nat → State
  | [] => s
  | g :: gs => State.unholdAll (s.unhold g h) h gs

/-- The state of a group that no longer dumps (R123). -/
def GroupState.undump : GroupState → GroupState
  | .dumping => .running
  | .halted _ => .halted false
  | x => x

/-- Take back the holds a group's HALTG gave (R128). -/
def State.dropHolds (s : State) (g : Nat) : State :=
  match s.group? g with
  | none => s
  | some gr =>
    let s := s.unholdAll (.group g) gr.targets
    s.modGroup g fun gr => { gr with
      holder := none, targets := [], st := gr.st.undump, ret := gr.ret.undump }

/-! ### Records of a thread and a group (R89, R90) -/

/-- The page of the deep scratch of a group that is saved still lies in its die's units (R85). -/
def Group.keepsDeep (gr : Group) : Bool := gr.st == .saved && gr.deepIn

/-- A context's work is that of a replay (R365). -/
def State.replaying (s : State) (ctx : Nat) : Bool := s.mirage.queue.isSome && s.mirage.ctx == ctx

/-- The virtual byte of the page table behind an address: through the one view that claims it, else itself (R281). -/
def State.behind (s : State) (ctx va : Nat) : Nat :=
  match claiming (s.viewsOf ctx).2 va with
  | [v] => v.byteAt (va - v.wbase)
  | _ => va

/-- The die whose HBM4 holds the byte behind a virtual address of a context. -/
def State.vaDie (s : State) (ctx va : Nat) : Option Nat :=
  let v := s.behind ctx va
  match (walk s v 4 (((s.ctx? ctx).map Ctx.ptroot).getD 0) []).1 with
  | .leaf e lvl => if bits e 7 9 == 0 then some (dieOfAddr (leafPa e (levelBits lvl) v)) else none
  | _ => none

/-- The lowest lost die that reaching an address meets, in its page table or its leaf (R88, R89). -/
def State.lostDie (s : State) (ctx va : Nat) : Option Nat :=
  let v := s.behind ctx va
  let (found, seen) := walk s v 4 (((s.ctx? ctx).map Ctx.ptroot).getD 0) []
  let leaf := match found with
    | .leaf e lvl => if bits e 7 9 == 0 then [leafPa e (levelBits lvl) v] else []
    | _ => []
  (((seen ++ leaf).filter s.lostPa).map dieOfAddr).min?

/-- DIE of a record: the item's die, or for DIE_LOST the lost one (R88, R89). -/
def State.recDie (s : State) (ctx : Nat) (code sub : Byte) (addr : Nat) (die : Nat) : Nat :=
  let lowest := ((s.ctx? ctx).bind fun c => (bitList 8 c.dlost.toNat).head?).getD die
  if code = 0x40 && sub = 2 then lowest
  else if code = 0x40 && sub = 3 then (s.lostDie ctx addr).getD lowest
  else die

/-- A record about a group's thread or the group itself. -/
def groupRec (s : State) (gr : Group) (k : Kernel) (code sub : Byte) (fin hnd : Bool) (pc addr : W64) (tid detail : Nat)
    (it : W64) : FaultRec where
  fin := fin
  hnd := hnd
  die := s.recDie gr.ctx code sub addr.toNat (dieOfCore gr.core)
  sub := sub
  code := code
  time := s.time
  pc := pc
  addr := addr
  grp := gr.lin
  kern := k.id
  detail := detail
  core := Config.coreNumber gr.core
  tid := tid
  item := it

/-! ### Mirage folds (R362 to R364) -/

/-- The fold of some 64-bit words (R363). -/
def foldWords (h : W64) : List Nat → W64
  | [] => h
  | w :: ws => foldWords (((h.rotateLeft 5) ^^^ BitVec.ofNat 64 w) * 0x9D2C56801B873C4B) ws

/-- The fold of the unit at a physical address. -/
def State.foldAt (s : State) (pa : Nat) : W64 := foldWords 0 ((List.range 8192).map fun i => s.readN (pa + 8 * i) 8)

/-- A unit's fold, 0 where it is not mapped. -/
def State.unitFold (s : State) (ctx u : Nat) : State × W64 :=
  match s.translate ctx 0 u needsRead with
  | (s, .ok pa 0 _) => (s, s.foldAt pa)
  | (s, _) => (s, 0)

/-- Append a 128-byte log entry; a full log ends capture (R362). -/
def State.log (s : State) (ws : List Nat) : State :=
  let m := s.mirage
  if m.wr == m.len then
    if m.st == .capturing then { s with mirage := { m with st := .logFull } } else s
  else
    match s.ownPas m.ctx (m.base.toNat + 128 * m.wr.toNat) 128 needsWrite with
    | (s, some pas) => { s.wordsAt pas ws with mirage := { m with wr := bump m.wr } }
    | (s, none) => s

/-- A KIND 1 entry (R362). -/
def foldEntry (u fold time kern : Nat) (exc : Bool) : List Nat :=
  [u, fold, 0, 0, 0, 0, 0, 0, 0, time, pack [(32, kern), (2, b2n exc), (0, 1)], 0, 0, 0, 0, 0]

/-- What the first `n` entries of the log say of a kernel: its units, their folds, and whether they were excused. -/
def State.logged (s : State) (kern : Nat) : (n : Nat) → List (Nat × Nat × Bool)
  | 0 => []
  | n + 1 =>
    s.logged kern n ++
      match s.ownPas s.mirage.ctx (s.mirage.base.toNat + 128 * n) 128 needsRead with
      | (s, some pas) =>
        let word := fun (i : Nat) => leNat ((s.bytesOf pas).drop (8 * i) |>.take 8)
        let w := word 10
        if bits w 0 2 == 1 && bits w 32 32 == kern then [(word 0, word 1, bit w 2)] else []
      | _ => []

/-- A unit that a host or a peer wrote during capture (R364). -/
def State.hostUnit (s : State) (u : Nat) : Bool :=
  match s.translate s.mirage.ctx 0 u needsRead with
  | (_, .ok pa 0 _) => s.mirage.hostUnits.contains (pa / 65536)
  | _ => false

/-- A unit that the kernel may leave otherwise than the capture did (R364). -/
def State.excused (s : State) (k : Kernel) (u : Nat) : Bool := k.tolerant || k.floatUnits.contains u || s.hostUnit u

/-- Log the fold of each unit that a captured kernel wrote (R362). -/
def State.logFolds (s : State) (k : Kernel) : List Nat → State
  | [] => s
  | u :: us =>
    let (s, f) := s.unitFold k.ctx u
    State.logFolds (if s.mirage.st == .capturing then s.log (foldEntry u f.toNat s.time k.id (s.excused k u)) else s) k us

/-- Compare the folds of a replayed kernel's units with those logged: each that differs is logged, and the first not excused
stops the replay (R364). -/
def State.compareFolds (s : State) (k : Kernel) (was : List (Nat × Nat × Bool)) : List Nat → State
  | [] => s
  | u :: us =>
    let (s, f) := s.unitFold k.ctx u
    let old := was.find? fun x => x.1 == u
    if (old.map fun x => x.2.1) == some f.toNat then State.compareFolds s k was us
    else
      let exc := s.excused k u || (old.map fun x => x.2.2).getD false
      let s := s.log (foldEntry u f.toNat s.time k.id exc)
      let m := { s.mirage with ndiff := min (s.mirage.ndiff + 1) 65535 }
      State.compareFolds { s with mirage := if exc || m.st == .differed then m
        else { m with st := .differed, kern := BitVec.ofNat 32 k.id } } k was us

/-- The capture's kernel that a replayed one stands for, where its folds were logged. -/
def Mirage.twinOf (m : Mirage) (id : Nat) : Option Launch :=
  (m.twins.find? fun x => x.1 == id).bind fun x => m.launches.find? fun l => l.kern == x.2 && l.ended

/-- A kernel of Mirage's context ends: its folds are logged while capturing, compared while replaying, over the units it wrote
and those it wrote in the capture (R362, R364; DEDUCED, log 17). -/
def State.foldUnits (s : State) (k : Kernel) : State :=
  let m := s.mirage
  if m.ctx != k.ctx then s
  else if m.st == .capturing then
    let s := s.logFolds k k.units
    if s.mirage.st == .capturing then
      { s with mirage := { s.mirage with
          launches := s.mirage.launches.map fun l => if l.kern == k.id then { l with ended := true } else l } }
    else s
  else if m.queue.isSome then
    match m.twinOf k.id with
    | none => s
    | some l =>
      let was := s.logged l.kern m.logEnd
      s.compareFolds k was (k.units ++ (was.map Prod.fst).filter fun u => !k.units.contains u)
  else s

/-- A launch of Mirage's context: noted in a capture; in a replay, with the NBV and check mode it had (R365). -/
def State.noteLaunch (s : State) (q : Nat) (pkt : W64) (k : Kernel) : State × Kernel :=
  let m := s.mirage
  if m.st == .capturing && m.ctx == k.ctx then
    ({ s with mirage := { m with launches := m.launches ++ [⟨pkt, k.id, k.nbv, k.ckm, false⟩] } }, k)
  else if m.queue == some q then
    match m.owed.find? fun l => l.pkt == pkt with
    | some l =>
      ({ s with mirage := { m with owed := m.owed.erase l, twins := m.twins ++ [(k.id, l.kern)] } },
        { k with nbv := l.nbv, ckm := l.ckm })
    | none => (s, k)
  else (s, k)

/-! ### The end of a group and of a kernel -/

/-- A packet has ended with a status; PACKET_FINISH follows (R101). -/
def State.endPkt (s : State) (p status : Nat) (code sub : Byte) (val : Nat) : State :=
  s.modPkt p fun k => { k with st := .finished, paged := none, status := status, code := code, sub := sub, val := val }

/-- A packet's kind-3 record (R90, R97, R117, R395). Its DIE and CORE are 0, as R389 has them, but for the DIE of a lost one
(log 23). GROUP and KERNID are 0 where no group of a kernel brought the failure about (DESIGN CHOICE, log 27). -/
def pktRec (s : State) (k : Pkt) (code sub : Byte) (fin : Bool) (addr grp : Nat) (kern : Nat) : FaultRec where
  fin := fin
  hnd := false
  die := s.recDie k.ctx code sub addr (if code = 0x40 then dieOfCluster k.owner else 0)
  sub := sub
  code := code
  time := s.time
  pc := 0
  addr := BitVec.ofNat 64 addr
  grp := grp
  kern := kern
  detail := 0
  core := 0
  tid := 0xFFFF
  item := item 3 k.addr.toNat

/-- The duration scaled to OP2 in whole µs, rounded up (R116). -/
def scaledUs (point ns : Nat) : Nat :=
  let scaled := if point == 0 then (ns * 15 + 21) / 22 else if point == 1 then (ns * 19 + 21) / 22 else ns
  (scaled + 999) / 1000

/-- The kernel's last group has ended, and every access it had issued is performed: DONE with its duration and the EST it stores, or FAILED with its one record
(R115 to R117). -/
def State.kernelCheck (s : State) (kn : Nat) : State :=
  match s.kernel? kn with
  | none => s
  | some k =>
    if s.groups.any (fun g => g.2.kern == kn) || s.accs.any (fun a => a.kern == kn) then s
    else match k.st with
      | .running =>
        let s := s.foldUnits k
        let val := scaledUs k.point (s.time - k.start.getD s.time)
        let s := if k.aest then
            (s.vwrite k.ctx (coreOfCluster (((s.pkt? k.pkt).map Pkt.owner).getD 0)) (k.kdesc.toNat + 0x1C) 4 val 1).1
          else s
        (s.modKernel kn fun k => { k with st := .done }).endPkt k.pkt 1 0 0 val
      | .failing =>
        let s := s.foldUnits k
        let (code, sub, lin, die) := k.fail.getD (0, 0, 0, 0)
        let s := match s.pkt? k.pkt with
          | some p =>
            let r := pktRec s p code sub true k.kdesc.toNat lin k.id
            s.enter k.ctx { r with die := if code = 0x40 then die else r.die }
          | none => s
        (s.modKernel kn fun k => { k with st := .failed }).endPkt k.pkt 2 code sub 0
      | _ => s

/-- A kernel learns that one of its groups ended with a FIN record, and of the die it names (R89, R115). -/
def Kernel.failWith (k : Kernel) (code sub : Byte) (lin die : Nat) : Kernel :=
  match k.st with
  | .placing => { k with st := .failing, fail := some (code, sub, lin, die) }
  | .running => { k with st := .failing, fail := some (code, sub, lin, die) }
  | _ => k

/-- The records of an ended group's engine commands that have not completed (R92). -/
def State.failCmds (s : State) (gr : Group) (k : Kernel) (code sub : Byte) : List Cmd → State
  | [] => s
  | c :: cs =>
    let s := if c.st == .done then s
      else s.enter gr.ctx (groupRec s gr k code sub true false c.pc 0 ((c.owner.map Prod.snd).getD 0xFFFF) 0
        (item 2 (c.batch * 256 + c.idx)))
    State.failCmds s gr k code sub cs

/-- The group frees what it holds (R121, R123): its engine work, tile operations, scratch accesses, frame, holds it
gave, and its place. -/
def State.dropGroup (s : State) (g : Nat) : State :=
  match s.group? g with
  | none => s
  | some gr =>
    let s := (s.dropHolds g).unissue g
    let c := s.core gr.core
    let s := s.setCore gr.core { c with tileq := c.tileq.filter fun o => o.grp != g }
    let s := match gr.frame with
      | some f => s.modCtx gr.ctx fun c => { c with frames := c.frames.filter (· != f) }
      | none => s
    let s := { s with
      accs := s.accs.filter fun a => !(a.grp == g && a.level != Level.global)
      cmds := s.cmds.filter fun c => (c.owner.map Prod.fst) != some g
      batches := s.batches.filter fun b => (b.grp.map Prod.fst) != some g
      groups := Tbl.erase s.groups g }
    ((s.slipCheck gr.core).repoint (clusterOf gr.core))

/-- The record is held for want of room (R91). -/
def State.holdsRecord (s : State) (ctx : Nat) (r : FaultRec) : Bool := ((s.ctx? ctx).map fun c => c.held.contains r).getD false

/-- A group whose FIN record is written ends (R92, R123); its kernel becomes FAILING (R115). -/
def State.endNow (s : State) (g : Nat) (gr : Group) (k : Kernel) (code sub : Byte) (die : Nat) : State :=
  let s := s.failCmds gr k code sub (s.cmds.filter fun c => (c.owner.map Prod.fst) == some g)
  ((s.dropGroup g).modKernel gr.kern fun k => k.failWith code sub gr.lin die).kernelCheck gr.kern

/-- A group whose FIN record is posted ends once that is written: while it is held the group halts as it stands (R91). -/
def State.endRecorded (s : State) (g : Nat) (gr : Group) (k : Kernel) (r : FaultRec) : State :=
  if s.holdsRecord gr.ctx r then (s.modGroup g fun gr => { gr with ending := some r }).unissue g
  else s.endNow g gr k r.code r.sub r.die

/-- A group ends with a FIN record, once that is written: while it is held the group halts as it stands (R91). One that is about
to end has its record already. -/
def State.endGroup (s : State) (g : Nat) (r : Option FaultRec) (code sub : Byte) : State :=
  match s.group? g with
  | none => s
  | some gr =>
    match s.kernel? gr.kern with
    | none => s.dropGroup g
    | some k =>
      if gr.ending.isSome then s
      else match r with
        | none => s.endNow g gr k code sub (s.recDie gr.ctx code sub 0 (dieOfCore gr.core))
        | some r =>
          (s.post gr.ctx r).endRecorded g gr k r

/-! ### The save of a group (R123, R273) -/

/-- A resident group starts to be saved; `cause` is CAUSE of R124. -/
def State.startSave (s : State) (g cause : Nat) : State :=
  match s.group? g with
  | none => s
  | some gr =>
    let save := fun (ret : GroupState) =>
      ((s.modGroup g fun gr => { gr.unyield with st := .saving, ret := ret, cause := cause, saveTime := s.time })).surge
        (clusterOf gr.core)
    match gr.st, gr.ending with
    | .running, none => save .running
    | .dumping, none => save .dumping
    | .halted d, none => save (.halted d)
    | _, _ => s

/-- A page a group's access needs is ABSENT or MIGRATING, met at the address `base`: a request for an ABSENT one, and the
group's save, which waits for the page (R270, R273). While a request of its pages is held the group remains as it is, and
issues nothing (R271; DEDUCED, log 26). -/
def State.pageFault (s : State) (g : Nat) (base : W64) (size : Nat) (kind : Needs) (absent : Bool) : State :=
  match s.group? g with
  | none => s
  | some gr =>
    let s := if absent then s.request gr.ctx base size kind else s
    let pages := if gr.pages.contains base then gr.pages else gr.pages ++ [base]
    let s := s.modGroup g fun gr => { gr with pages := pages }
    if s.requestHeld gr.ctx pages then s else s.startSave g 1

/-! ### Fetching code (R52, R146) -/

/-- The code word at `pc`, fetched for a group's core; from a view address it is VIEW_FAULT 0x06 (R146, R266, R284). -/
def State.fetch (s : State) (gr : Group) (pc : W64) : State × Got := s.vread gr.ctx gr.core pc.toNat 4 needsFetch

/-- A word is a clause header (R53). -/
def isHeader (w : Nat) : Bool := w / 2 ^ 24 == 0xC7

/-! ### Taking an exception -/

/-- A fault as it reaches a thread: code, sub-code, address; the word of its record; the position to save (R175);
whether its record is already written (R259, R394). -/
structure Raised where
  code : Byte
  sub : Byte
  addr : W64
  word : W64
  saved : Pos
  recorded : Bool
  deriving DecidableEq, Repr

/-- Trap entry: the fault and the position are saved, the handler flag set, the vector entered as a header; the depth
is unchanged (R130, R175). The repeat state the fault interrupted is saved apart (DESIGN CHOICE, log 21). -/
def Thread.enterTrap (t : Thread) (f : Raised) (vector : W64) : Thread :=
  { t with
    handler := some ⟨f.code, f.sub, f.addr, f.saved, t.rep, false⟩
    rep := none
    pos := Pos.header vector
    run := .runnable
    part := none
    skipBreak := false
    last := f.word }

/-- A completed single step stops the thread where it stands, its YIELD discarded (R143), with its record (R359). -/
def State.stopStep (s : State) (g tid : Nat) (gr : Group) (k : Kernel) (pc : W64) : State :=
  (s.modThread g tid fun t => { t with
    stepping := false
    yieldLeft := 0
    run := match t.run with | .waiting w => .stopped (some w) | .exited => .exited | _ => .stopped none }).post gr.ctx
      (groupRec s gr k 0x71 0 false false pc 0 tid 0 (item 0 pc.toNat))

/-- TAKING AN EXCEPTION (R57, R89, R92, R130, R175): the one operation by which a fault reaches a thread. In a handler it
ends the group as DOUBLE_FAULT; without a trap vector it ends the group under its own code; otherwise the vector's
header is fetched, the fault recorded and the handler entered. A page fault on that fetch keeps the fault for
after RESOLVE; any other failure of it, and a vector that is no header, is a DOUBLE_FAULT whose ADDR is the vector. -/
def State.deliver (s : State) (g tid : Nat) (f : Raised) : State :=
  match s.group? g with
  | none => s
  | some gr =>
    if gr.ending.isSome then s
    else match s.kernel? gr.kern, Tbl.find? gr.threads tid with
    | some k, some t =>
      let it := item 0 f.word.toNat
      let whole := item 1 gr.lin
      let double := fun (s : State) (first : Nat) (second : Byte) (addr : W64) =>
        s.endGroup g (some (groupRec s gr k 0x61 second true false f.word addr tid first whole)) 0x61 second
      match t.handler with
      | some h => double s (pack [(8, h.sub.toNat), (0, h.code.toNat)]) f.code f.addr
      | none =>
        if k.trapv = 0 then
          if f.recorded then s.endNow g gr k f.code f.sub (s.recDie gr.ctx f.code f.sub f.addr.toNat (dieOfCore gr.core))
          else s.endGroup g (some (groupRec s gr k f.code f.sub true false f.word f.addr tid 0 whole)) f.code f.sub
        else
          let first := pack [(8, f.sub.toNat), (0, f.code.toNat)]
          match s.fetch gr k.trapv with
          | (s, .page base size absent) =>
            let s := s.modThread g tid fun t => { t with
              pos := f.saved, run := .runnable
              late := ⟨0, none, f.code, f.sub, f.addr, f.word, f.recorded, false⟩ :: t.late }
            s.pageFault g base size needsFetch absent
          | (s, .fault c _) => double s first c k.trapv
          | (s, .ok w) =>
            if isHeader w then
              let s := if f.recorded then s
                else s.post gr.ctx (groupRec s gr k f.code f.sub false true f.word f.addr tid 0 it)
              let s := (s.modThread g tid fun t => t.enterTrap f k.trapv).surge (clusterOf gr.core)
              if t.stepping then s.stopStep g tid gr k (if t.pos.pc = f.word then f.word else t.last) else s
            else double s first 0x03 k.trapv
    | _, _ => s

/-- The return from an exception: the handler flag is cleared and the thread resumes at the saved position, within
its clause or, where the handler rewrote XPC, at that header (R58, R176, R177). -/
def Thread.returnFrom (t : Thread) (h : Handler) : Thread :=
  { t with
    handler := none
    rep := if h.moved then none else h.rep
    pos := if h.moved then Pos.header h.saved.pc else h.saved }

/-! ### Running a word -/

/-- A due failure reaches its thread; the others known by then wait for the return from its handler (R259, R394). -/
def State.deliverLate (s : State) (g tid : Nat) (t : Thread) (l : Late) : State :=
  let mark := fun (x : Late) => if t.handler.isNone && x.needs.isNone then { x with held := true } else x
  (s.modThread g tid fun t => { t with again := none, late := (t.late.filter (· != l)).map mark }).deliver g tid
    ⟨l.code, l.sub, l.addr, l.word, t.pos, l.recorded⟩

/-- At a boundary where a thread is to stop, a failure that may reach it comes first (R131). -/
def State.faultFirst (s : State) (g tid : Nat) : State :=
  match s.thread? g tid with
  | none => s
  | some t => match t.dueLate with
    | some l => s.deliverLate g tid t l
    | none => s

/-- A thread leaves a clause under a yield hint: its slot prefers another warp next (R53). -/
def State.leaveClause (s : State) (e : Env) : State :=
  if bit e.t.pos.hdr.toNat 20 then
    let c := s.core e.gr.core
    let place := ((Tbl.find? e.gr.warps (warpOf e.tid)).map Warp.place).getD 0
    s.setCore e.gr.core { c with yh := Tbl.put c.yh (place % 4) place }
  else s

/-- From `old` to `t` a thread has left its clause: by its last counted word, or by a branch, call or return (R53). -/
def Thread.leaves (old t : Thread) : Bool :=
  t.pos.left == 0 || t.pos.hdr != old.pos.hdr || t.stack.length != old.stack.length
    || t.handler.isSome != old.handler.isSome && t.run != .exited || t.run == .exited && old.pos.left ≤ 1

/-- A thread issues the word of the sampled key issue it has part in (R354). -/
def State.tookPart (s : State) (e : Env) : State :=
  match e.t.part with
  | none => s
  | some n =>
    { s with samples := s.samples.map fun m =>
        if m.num == n then { m with lanes := m.lanes ++ [laneOf e.tid], done := s.time } else m }

/-- The thread has completed a word and stands where `t` says: its group has retired (R126), a clause left under a yield
hint defers its warp (R53), a single step stops it there, after a failure that may reach it (R131, R359). -/
def State.retireAt (s : State) (e : Env) (t : Thread) : State :=
  let s := (s.tookPart e).modGroup e.g fun gr =>
    { gr.modThread e.tid (fun _ => { t with skipBreak := false, part := none, last := e.t.pos.pc }) with active := true }
  let s := if e.t.leaves t then s.leaveClause e else s
  if t.stepping then
    match t.dueLate with
    | some l => s.deliverLate e.g e.tid t l
    | none => s.stopStep e.g e.tid e.gr e.k e.t.pos.pc
  else s

/-- The word of `n` words, or one iteration of it, is complete. -/
def State.retire (s : State) (e : Env) (t : Thread) (n : Nat) : State := s.retireAt e (t.advance n)

/-- A fault at the word itself: the position saved is the word (R175). -/
def State.faultAt (s : State) (e : Env) (code sub : Byte) (addr : W64) : State :=
  s.deliver e.g e.tid ⟨code, sub, addr, e.t.pos.pc, e.t.pos, false⟩

/-- The thread waits at the word and keeps its position (R130). -/
def State.waitAt (s : State) (e : Env) (w : Wait) : State :=
  s.modThread e.g e.tid fun t => { t with run := .waiting w }

/-- The thread finds a page it must wait for: the group is saved and the word taken again (R209, R273). -/
def State.pageAt (s : State) (e : Env) (base : W64) (size : Nat) (kind : Needs) (absent : Bool) : State :=
  s.pageFault e.g base size kind absent

/-- The checks of R62 steps 3 and 4 on a decoded word. -/
def checkWord (i : Instr) (k : Kernel) : Option (Byte × Byte) :=
  match illegal i with
  | some sub => some (0x01, sub)
  | none =>
    match regRange k.allot k.tiles k.accs i with
    | some sub => some (0x05, sub)
    | none => none

/-- One thread's issue of word `i` (R62 steps 3 to 6): the checks, the guard, then `body`, which retires the word,
raises its faults or lets the thread wait. -/
def runWord (i : Instr) (body : Env → State → State) (s : State) : Host.Outcome State Fault Refusal :=
  match s.issuer with
  | none => .fault .noIssuer
  | some e =>
    .next (match checkWord i e.k with
      | some (code, sub) => s.pop.faultAt e code sub 0
      | none =>
        if e.t.guard (guardOf i) then body e s.pop
        else s.pop.retire e e.t (wordsOf i))

/-- What a word that acts on its thread alone does: the thread it leaves, or a fault. -/
inductive Act where
  | done (t : Thread)
  | fault (code sub : Byte) (addr : W64)
  deriving DecidableEq, Repr

/-- A word that acts on its thread alone (R144). -/
def runThread (i : Instr) (act : Env → Act) (s : State) : Host.Outcome State Fault Refusal :=
  runWord i (fun e s => match act e with
    | .done t => s.retire e t (wordsOf i)
    | .fault code sub addr => s.faultAt e code sub addr) s

end Sys2Proof.Machine
end

