-- ==== Sys2Proof/Machine/Access.lean ====
section
/-! DEFINITION. Accesses between issue and performance: the L1 (R199, R227), requests to peers and hosts (R335, R340,
R343), atomic combinations (R213), failures found after issue (R394), counters and their retirement (R236, R237),
spoor samples (R354, R355), scratch windows (R275). -/

namespace Sys2Proof.Machine

/-! ### The L1 -/

/-- Drop the lines of a core that `p` picks. -/
def State.dropL1 (s : State) (core : Nat) (p : L1Line → Bool) : State :=
  let c := s.core core
  s.setCore core { c with l1 := c.l1.filter fun l => !p l }

/-- Drop every line of a context on a core (R230). -/
def State.dropCtxL1 (s : State) (core ctx : Nat) : State := s.dropL1 core fun l => l.ctx == ctx

/-- The scratch share of a core: what its resident groups hold, in steps of 64 KiB (R199). -/
def State.scratchShare (s : State) (core : Nat) : Nat :=
  roundUp (256 * (((s.residents core).filterMap fun g => s.kernel? g.2.kern).map Kernel.scru).sum) 65536

/-- The sectors that the L1 of a core can hold: the rest of its 512 KiB (R199). -/
def State.l1Room (s : State) (core : Nat) : Nat := (524288 - s.scratchShare core) / 64

/-- The lines that stay when the share has grown from `old`: which ones lie in the ceded steps is the device's own (R199,
log 12). -/
def State.cedeL1 (s : State) (core old : Nat) : State :=
  if s.scratchShare core ≤ old then s
  else
    let (n, s) := s.free
    let c := s.core core
    let kept := (c.l1.zipIdx).filter fun l => Config.l1Held (n + l.2)
    { s.setCore core { c with l1 := (kept.map Prod.fst).drop (kept.length - s.l1Room core) } with fresh := n + c.l1.length + 1 }

/-- Drop the lines of a core that hold some physical bytes: an operation that a WAIT finds performed has read or written them
at their homes (R241). -/
def State.dropBytesL1 (s : State) (core : Nat) (pas : List Nat) : State := s.dropL1 core fun l => l.pas.any pas.contains

/-- Fill the 64-byte sector that holds `va` from its home; what was held of it goes in any case. An L1 without capacity
holds nothing (R199). -/
def State.fillL1 (s : State) (ctx core va : Nat) : State :=
  let base := va / 64 * 64
  let s := s.dropL1 core fun l => l.ctx == ctx && l.line == va / 64
  match s.mapAccess ctx core base 64 needsRead false with
  | (s, .ok pas _ 0 expiry) =>
    let c := s.core core
    let ls := c.l1 ++ [L1Line.mk ctx (va / 64) ((span base 64).zip (pas.map s.byte)) pas expiry []]
    s.setCore core { c with l1 := ls.drop (ls.length - s.l1Room core) }
  | (s, _) => s

/-- A thread has met bytes at `pas`, at their home or in the line `line`, that may be newer than what other lines of its core
hold: it reads those lines no more (R225, R234). -/
def State.outdate (s : State) (core ctx : Nat) (line : Option Nat) (who : Nat × Nat) (pas : List Nat) : State :=
  let c := s.core core
  s.setCore core { c with l1 := c.l1.map fun l =>
    if l.ctx == ctx && some l.line != line && !l.bad.contains who && l.pas.any pas.contains then { l with bad := l.bad ++ [who] }
    else l }

/-- A write of a context's thread on a core, seen by the line of that view address; an atomic drops it. -/
def State.storeL1 (s : State) (core ctx va : Nat) (bs : List Byte) : State :=
  let c := s.core core
  let upd := fun (l : L1Line) =>
    if l.ctx == ctx then
      { l with data := l.data.map fun d =>
          if va ≤ d.1 && d.1 < va + bs.length then (d.1, bs.getD (d.1 - va) d.2) else d }
    else l
  s.setCore core { c with l1 := c.l1.map upd }

/-- The line that holds a sector for a thread: unexpired, and not older than what the thread has met. -/
def State.lineFor (s : State) (core ctx va : Nat) (who : Nat × Nat) : Option L1Line :=
  (s.core core).l1.find? fun l => l.ctx == ctx && l.line == va / 64 && s.time + 2 < l.expiry && !l.bad.contains who

/-- The bytes a relaxed load may take from the L1 of its core: a held sector that holds them all. -/
def State.readL1 (s : State) (core ctx va n : Nat) (who : Nat × Nat) : Option (List Byte) :=
  match s.lineFor core ctx va who with
  | none => none
  | some l =>
    let bs := (span va n).filterMap fun v => (l.data.find? fun d => d.1 == v).map Prod.snd
    if bs.length == n then some bs else none

/-! ### Counters (R236, R237) -/

/-- An operation of a warp has parts that are not performed: accesses, lanes that take the word again, threads of the
bundle that have not issued, or the tile operation itself. -/
def State.opBusy (s : State) (g op : Nat) : Bool :=
  s.accs.any (fun a => a.grp == g && a.op == op)
  || s.issuing.any (fun i => i.grp == g && i.op == op)
  || ((s.group? g).map fun gr =>
        gr.threads.any (fun t => t.2.again == some op)
        || (s.core gr.core).tileq.any (fun o => o.grp == g && o.id == op)).getD false

/-- A closed or open copy batch of a group has commands that are not performed. -/
def State.batchBusy (s : State) (g no : Nat) : Bool :=
  s.batches.any fun b => b.no == no && (b.grp.map Prod.fst) == some g

/-- Operations retire in issue order: the oldest performed ones leave their counters. -/
def State.retireWarp (s : State) (g : Nat) (w : Warp) : Warp :=
  { w with
    lq := w.lq.dropWhile fun o => !s.opBusy g o
    sq := w.sq.dropWhile fun o => !s.opBusy g o
    mq := w.mq.dropWhile fun o => !s.opBusy g o
    cq := w.cq.dropWhile fun b => !s.batchBusy g b }

/-- Retire what is performed in every warp of a group. -/
def State.retireOps (s : State) (g : Nat) : State :=
  s.modGroup g fun gr => { gr with warps := mapVals (fun _ w => s.retireWarp g w) gr.warps }

/-- An operation of a group completed (R126). -/
def State.progress (s : State) (g : Nat) : State := s.modGroup g fun gr => { gr with active := true }

/-! ### Failures found after issue (R259, R394) -/

/-- A failure to be delivered to a thread of a group that is still there; a thread that has exited fails its group
when its other work is done (R259). -/
def State.addLate (s : State) (g tid : Nat) (l : Late) : State :=
  match s.thread? g tid with
  | none => s
  | some t =>
    if t.live then s.modThread g tid fun t => { t with late := t.late ++ [l] }
    else s.modGroup g fun gr => { gr with failing := gr.failing.or (some (l.code, l.sub)) }

/-- The record of a failed item of a thread, FIN 1, and its failure to deliver. -/
def State.failItem (s : State) (g tid : Nat) (pc va : W64) (it : W64) (code sub : Byte) (detail : Nat) (stamp : Nat)
    (needs : Option (Nat × Nat)) : State :=
  match s.group? g with
  | none => s
  | some gr =>
    match s.kernel? gr.kern with
    | none => s
    | some k =>
      let live := ((s.thread? g tid).map Thread.live).getD false
      let s := s.post gr.ctx (groupRec s gr k code sub true (decide (k.trapv ≠ 0) && live) pc va tid detail it)
      s.addLate g tid ⟨stamp, needs, code, sub, va, pc, true, false⟩

/-- The access leaves the list of those not performed. -/
def State.dropAccess (s : State) (a : Access) : State :=
  { s with accs := s.accs.filter fun b => b.id != a.id, reqs := s.reqs.filter fun r => r.whose != .acc a.id }

/-- The record of an access whose group has ended (R90). -/
def Access.record (a : Access) (s : State) (code sub : Byte) : FaultRec where
  fin := true
  hnd := false
  die := s.recDie a.ctx code sub a.va.toNat (dieOfCore a.core)
  sub := sub
  code := code
  time := s.time
  pc := a.pc
  addr := a.va
  grp := a.lin
  kern := a.kern % 2 ^ 32
  detail := 0
  core := Config.coreNumber a.core
  tid := a.tid
  item := item 4 a.va.toNat

/-! ### Spoor samples (R354, R355) -/

/-- Segments of some sectors of 64 bytes, in increasing address. -/
def segmentsOf (sectors : List Nat) : List Nat := ((sectors.map (· / 4)).mergeSort (· ≤ ·)).eraseDups

/-- SECT: bit 4s + q for sector q of the s-th of the first 16 segments. -/
def sectBits (sectors : List Nat) : Nat :=
  ((segmentsOf sectors).zipIdx.map fun g =>
    if g.2 < 16 then
      ((List.range 4).map fun q => if sectors.contains (4 * g.1 + q) then 2 ^ (4 * g.2 + q) else 0).sum
    else 0).sum

/-- The eight words of a memory record. The named thread is the lowest of its lanes; the queue times, and the last lane where
none of them accesses memory, are unstated (log 10). -/
def Sample.words (m : Sample) (n : Nat) : List Nat :=
  [m.pc.toNat, m.time, (m.lanes.map fun l => 2 ^ l).sum, sectBits m.sectors,
   pack [(48, warpSize * m.warp + m.lanes.min?.getD 0), (40, m.last.getD ((Config.latency n 3).toNat % 256)),
         (32, min m.passes 255), (24, min m.segs.length 255), (16, min m.miss 255), (0, m.opc)],
   pack [(32, (Config.latency n 0).toNat), (0, (Config.latency n 1).toNat)],
   pack [(32, (Config.latency n 2).toNat), (0, (m.done - m.time) % 2 ^ 32)],
   pack [(32, m.kern), (0, m.lin)]]

/-- A sampled key issue is over: each of its threads has issued the word or left it, and what they issued is performed. -/
def State.keyOver (s : State) (m : Sample) : Bool :=
  !(s.accs.any fun a => a.key == some m.num)
    && !((s.group? m.grp).map fun g => g.threads.any fun t => t.2.part == some m.num).getD false

/-- Write the record of a sampled key issue that is over; one that every thread has left writes none (DEDUCED, log 10). -/
def State.endSample (s : State) (num : Nat) : State :=
  match s.samples.find? fun m => m.num == num with
  | none => s
  | some m =>
    if !s.keyOver m then s
    else
      let s := { s with samples := s.samples.filter fun m => m.num != num }
      if m.lanes.isEmpty then s
      else
        let (n, s) := s.free
        s.spoor m.ctx (m.words n)

def State.endSamples (s : State) : List Nat → State
  | [] => s
  | n :: ns => State.endSamples (s.endSample n) ns

/-- A sector of a context is not in a core's L1. -/
def State.misses (s : State) (core ctx line : Nat) : Bool := !(s.core core).l1.any fun l => l.ctx == ctx && l.line == line

/-- The sectors that a core's loads await: each holds one of the L1's 256 miss-status entries (R210). -/
def State.awaited (s : State) (core : Nat) : List (Nat × Nat) :=
  ((s.accs.filterMap fun a =>
    if a.core == core && a.level == .global && a.kind == .load && s.misses core a.ctx (a.va.toNat / 64) then
      some (a.ctx, a.va.toNat / 64)
    else none).eraseDups)

/-- A plain load: what takes the L1's miss-status entries (log 26). -/
def plainLoad : Instr → Bool
  | .ldG _ _ _ _ _ => true
  | _ => false

/-- A lane of a key issue accesses `va`: the sample notes its sector, its segment and the entry it takes (R354, R355). -/
def State.noteLane (s : State) (e : Env) (i : Instr) (va : Nat) : State :=
  match e.t.part with
  | none => s
  | some n =>
    let sec := va / 64
    let seg := (e.op, va / 256)
    let miss := b2n (plainLoad i && s.misses e.gr.core e.gr.ctx sec && !(s.awaited e.gr.core).contains (e.gr.ctx, sec))
    { s with samples := s.samples.map fun m =>
        if m.num == n then
          { m with sectors := if m.sectors.contains sec then m.sectors else m.sectors ++ [sec]
                   segs := if m.segs.contains seg then m.segs else m.segs ++ [seg], miss := m.miss + miss }
        else m }

/-! ### Issue -/

/-- What an access is to issue with; the rest of its record is the thread's. -/
structure Ask where
  kind : AccKind
  level : Level
  scope : Scope
  marked : Bool
  acquire : Bool
  release : Bool
  va : W64
  pas : List Nat
  vas : List Nat
  node : Nat
  expiry : Nat
  size : Nat
  data : Nat
  cmp : Nat
  dst : Nat
  sext : Bool
  offs : List Nat
  wr : Bool
  deriving DecidableEq, Repr

/-- Whether an access counts in L (true) or in S (R236). -/
def AccKind.inL : AccKind → Bool
  | .load => true
  | .atom _ => true
  | .tlbp => true
  | _ => false

/-- Whether it writes memory. -/
def AccKind.writes : AccKind → Bool
  | .load => false
  | .tlbp => false
  | _ => true

/-- The kinds that S counts (R236). -/
def AccKind.stores : AccKind → Bool
  | .store => true
  | .reda _ => true
  | .writeBack => true
  | _ => false

/-- The warp of the issuing thread. -/
def Env.warp (e : Env) : Warp := (Tbl.find? e.gr.warps (warpOf e.tid)).getD ⟨[], [], [], [], 0, 0, none, 0, []⟩

/-- The counter stands at 63 and the word would raise it (R236). -/
def fullFor (q : List Nat) (op : Nat) : Bool := !q.contains op && 63 ≤ q.length

/-- Add an access of the issuing thread and count its operation once (R208, R236). -/
def State.addAccess (s : State) (e : Env) (q : Ask) : State :=
  let (n, s) := s.free
  let push := fun (l : List Nat) => if l.contains e.op then l else l ++ [e.op]
  let s := { s with accs := s.accs ++
    [Access.mk n e.g e.tid (warpOf e.tid) e.gr.core e.op q.kind q.level q.scope q.marked q.acquire q.release e.t.pos.pc
      q.va q.pas q.node q.size q.data q.cmp q.dst q.sext q.expiry none q.vas e.gr.ctx e.gr.kern e.gr.lin none e.t.part
      q.offs q.wr] }
  s.modGroup e.g fun gr => gr.modWarp (warpOf e.tid) fun w =>
    if q.kind.inL then { w with lq := push w.lq } else { w with sq := push w.sq }

/-- Issue an access and go on with the next word (R208). A counter at 63 keeps the word from issuing. -/
def State.issueAccess (s : State) (e : Env) (i : Instr) (q : Ask) : State :=
  let ctr := if q.kind.inL then e.warp.lq else e.warp.sq
  if fullFor ctr e.op then s
  else
    let s := if q.level == .global && q.kind != .tlbp then s.noteLane e i q.va.toNat else s
    (s.addAccess e q).retire e { e.t with again := none } 1

/-- A lane finds a page it must wait for: it takes the word again as the same operation (R209, R242). -/
def State.pageLane (s : State) (e : Env) (base : W64) (size : Nat) (kind : Needs) (absent : Bool) : State :=
  (s.modThread e.g e.tid fun t => { t with again := some e.op, pass := false }).pageAt e base size kind absent

/-- A fault at a memory word: the lane no longer belongs to the operation. -/
def State.faultLane (s : State) (e : Env) (code sub : Byte) (addr : W64) : State :=
  (s.modThread e.g e.tid fun t => { t with again := none }).faultAt e code sub addr

/-- An access fails on its way, after issue: its kind-4 item's record, delivered at the next boundary (R205, R394). So does
one that meets damage under its page walk, its own or that of the window's block it brings. -/
def State.failLane (s : State) (e : Env) (va : W64) (code sub : Byte) : State :=
  (s.failItem e.g e.tid e.t.pos.pc va (item 4 va.toNat) code sub 0 e.op none).retire e { e.t with again := none } 1

/-- A fault of an access's translation: at the word, but for damage met by the walk (R205, R209). -/
def State.transFault (s : State) (e : Env) (code sub : Byte) (va : W64) : State :=
  if code = 0x42 then s.failLane e va code sub else s.faultLane e code sub va

/-- A .G access of `n` bytes: alignment, then translation, then issue (R207, R209). -/
def State.globalAccess (s : State) (e : Env) (i : Instr) (va : W64) (n : Nat) (mis : Byte) (needs : Needs) (q : Ask) :
    State :=
  if va.toNat % n != 0 then s.faultLane e 0x06 mis va
  else
    match s.mapAccess e.gr.ctx e.gr.core va.toNat n needs q.marked with
    | (s, .fault c sub) => s.transFault e c sub va
    | (s, .page base size absent) => s.pageLane e base size needs absent
    | (s, .ok pas vas node expiry) =>
      s.issueAccess e i { q with va := va, pas := pas, vas := vas, node := node, expiry := expiry, size := n }

/-! ### Which access may be performed (R224 to R226, R239) -/

/-- Two accesses touch a common location (R221). -/
def Access.overlaps (a b : Access) : Bool :=
  a.level == b.level && a.node == b.node && a.pas.any b.pas.contains

/-- The thread's accesses that issued before `a` and are not performed. -/
def State.olderThan (s : State) (a : Access) : List Access :=
  (s.accs.takeWhile fun b => b.id != a.id).filter fun b => b.grp == a.grp && b.tid == a.tid

/-- An access may be performed: no older one of its thread on a common location, no older acquire, and for a release
nothing older at all. -/
def State.mayPerform (s : State) (a : Access) : Bool :=
  let os := s.olderThan a
  !(os.any fun b => b.acquire || b.overlaps a) && (!a.release || os.isEmpty)

/-- The thread has loads, stores or atomics that are not performed (R230). -/
def State.pending (s : State) (g tid : Nat) : Bool := s.accs.any fun a => a.grp == g && a.tid == tid && a.kind != .tlbp

/-! ### Atomic combinations (R213) -/

/-- Operand width of an atomic. -/
def atomBytes (o : BitVec 4) : Nat := if op64 o then 8 else 4

/-- `combine(OP, old, b)`; a compare-and-swap takes the new value in `b`. -/
def combine (o : BitVec 4) (old b : Nat) : Nat :=
  match o.toNat with
  | 0 => (old + b) % 2 ^ 32
  | 1 => (old + b) % 2 ^ 64
  | 2 => Fmt.f32.encode ((Fmt.f32.decode old).add (Fmt.f32.decode b))
  | 3 => if toSigned 32 old ≤ toSigned 32 b then old else b
  | 4 => if toSigned 32 old ≤ toSigned 32 b then b else old
  | 5 => min old b
  | 6 => max old b
  | 7 => old &&& b
  | 8 => old ||| b
  | 9 => old ^^^ b
  | 14 => max old b
  | 15 => min old b
  | _ => b

/-- OPs that compare. -/
def isCas (o : BitVec 4) : Bool := o == 12#4 || o == 13#4

/-- OPs that a host takes as AtomicOps (R343). -/
def hostAtomic (o : BitVec 4) : Bool := [0#4, 1#4, 10#4, 11#4, 12#4, 13#4].contains o

/-- An atomic at local homes: the old value, and what it leaves; monitors wake whether or not it writes (R214, R218).
`note`: the kernel whose float adds are excused (R364). -/
def State.atomicAt (s : State) (ctx : Nat) (kern : Option Nat) (code : Nat) (o : BitVec 4) (pas vas : List Nat)
    (b cmp : Nat) : State × Nat :=
  let old := leNat (pas.map s.byte)
  if isCas o && old != cmp then (s.wake (sectorsOf pas) code, old)
  else
    let s := match kern with
      | some k =>
        if o == 2#4 && (s.mirage.st == MirState.capturing || s.mirage.st == MirState.replaying) then
          s.modKernel k fun kr => { kr with
            floatUnits := kr.floatUnits ++ (unitsOf vas).filter fun u => !kr.floatUnits.contains u }
        else s
      | none => s
    (s.localWrite ctx kern code pas vas (leBytes pas.length (combine o old b)), old)

/-! ### Scratch and deep scratch (R200, R201) -/

/-- One byte of storage whose content is undefined until it is written (log 6). -/
def Store.byte (m : Store Byte) (i : Nat) : Byte := (Tbl.find? m.cells i).getD (Config.undefByte m.seed i)
def Store.setBytes (m : Store Byte) (i : Nat) : List Byte → Store Byte
  | [] => m
  | b :: bs => Store.setBytes { m with cells := Tbl.put m.cells i b } (i + 1) bs
def Store.bytes (m : Store Byte) (i n : Nat) : List Byte := (span i n).map m.byte
def Store.readN (m : Store Byte) (i n : Nat) : Nat := leNat (m.bytes i n)
/-- One word of such storage. -/
def Store.word (m : Store W32) (i : Nat) : W32 := (Tbl.find? m.cells i).getD (Config.undefWord m.seed i)
def Store.setWord (m : Store W32) (i : Nat) (v : W32) : Store W32 := { m with cells := Tbl.put m.cells i v }

/-- The window that holds a scratch offset. -/
def Group.windowAt (g : Group) (o : Nat) : Option Window := g.windows.find? fun w => w.s ≤ o && o < w.s + w.len

/-- Change the window that starts at `s0`. -/
def Group.modWindow (g : Group) (s0 : Nat) (f : Window → Window) : Group :=
  { g with windows := g.windows.map fun w => if w.s == s0 then f w else w }

/-- A store of scratch bytes: the array, and the marks of a window (R275). -/
def Group.storeScratch (g : Group) (o : Nat) (bs : List Byte) : Group :=
  let g := { g with scratch := g.scratch.setBytes o bs }
  match g.windowAt o with
  | none => g
  | some w => g.modWindow w.s fun w =>
      if w.filled.contains (o / 4096) then
        { w with
          marks := w.marks ++ (span o bs.length).filter fun x => !w.marks.contains x
          flushing := w.flushing.filter fun x => !(span o bs.length).contains x }
      else w

end Sys2Proof.Machine
end

