-- ==== Sys2Proof/Machine/Flags.lean ====
section
/-! DEFINITION. The device has no flags (R144). What stands in their place: the compares that write a predicate
(R161 to R163), carries (R153) and saturation (R150). -/

namespace Sys2Proof.Machine

/-- A compare condition CC on an order of two values (R68, R161): `lt` and `eq` say how a stands to b. -/
def ccHolds (c : BitVec 3) (lt eq : Bool) : Bool :=
  match c.toNat with
  | 0 => eq
  | 1 => !eq
  | 2 => lt
  | 3 => lt || eq
  | 4 => !(lt || eq)
  | 5 => !lt
  | 6 => false
  | _ => true

/-- CC on unordered operands: NE and UN hold (R163). -/
def ccUnordered (c : BitVec 3) : Bool := c.toNat == 1 || c.toNat == 6

def cmpSigned {w : Nat} (c : BitVec 3) (a b : BitVec w) : Bool := ccHolds c (decide (a.toInt < b.toInt)) (decide (a = b))
def cmpUnsigned {w : Nat} (c : BitVec 3) (a b : BitVec w) : Bool := ccHolds c (decide (a.toNat < b.toNat)) (decide (a = b))

/-- The carry out of a 32-bit addition with carry in (R153). -/
def carryOut (a b : W32) (c : Bool) : Bool := decide (2 ^ 32 ≤ a.toNat + b.toNat + b2n c)

/-- A 32-bit sum with carry in (R153). -/
def addCarry (a b : W32) (c : Bool) : W32 := a + b + BitVec.ofNat 32 (b2n c)

/-- An integer clamped to `[lo, hi]` (R150). -/
def clampInt (lo hi v : Int) : Int := if v < lo then lo else if hi < v then hi else v

/-- Saturation to the signed and to the unsigned 32-bit range (R150). -/
def satS32 (v : Int) : W32 := BitVec.ofInt 32 (clampInt (-2147483648) 2147483647 v)
def satZ32 (v : Int) : W32 := BitVec.ofInt 32 (clampInt 0 4294967295 v)

end Sys2Proof.Machine
end

