-- ==== Sys2Proof/Machine/IntAlu.lean ====
section
/-! DEFINITION. Moves, integer arithmetic, logic, shifts, bit fields, integer compares and predicates
(08_thread_integer_control.md, R144 to R165). -/

namespace Sys2Proof.Machine

/-! ### Shapes -/

/-- `X[D] := f(X[A])`. -/
def alu1 (i : Instr) (d a : BitVec 6) (f : W32 → W32) : State → Host.Outcome State Fault Refusal :=
  runThread i fun e => .done (e.t.setX d (f (e.t.getX a)))

/-- `X[D] := f(X[A], X[B])` (R150). -/
def alu2 (i : Instr) (d a b : BitVec 6) (f : W32 → W32 → W32) : State → Host.Outcome State Fault Refusal :=
  runThread i fun e => .done (e.t.setX d (f (e.t.getX a) (e.t.getX b)))

/-- `X[D] := f(X[A], X[B], X[C])`. -/
def alu3 (i : Instr) (d a b c : BitVec 6) (f : W32 → W32 → W32 → W32) : State → Host.Outcome State Fault Refusal :=
  runThread i fun e => .done (e.t.setX d (f (e.t.getX a) (e.t.getX b) (e.t.getX c)))

/-- The pair at D takes a 64-bit result of X[A] and X[B] (R151). -/
def aluWide (i : Instr) (d a b : BitVec 6) (f : W32 → W32 → W64) : State → Host.Outcome State Fault Refusal :=
  runThread i fun e => .done (e.t.setX2 d (f (e.t.getX a) (e.t.getX b)))

/-- The pair at D takes a result of the pairs at A and B (R154). -/
def alu64 (i : Instr) (d a b : BitVec 6) (f : W64 → W64 → W64) : State → Host.Outcome State Fault Refusal :=
  runThread i fun e => .done (e.t.setX2 d (f (e.t.getX2 a) (e.t.getX2 b)))

/-- The pair at D takes a result of the pair at A (R154). -/
def aluI64 (i : Instr) (d a : BitVec 6) (f : W64 → W64) : State → Host.Outcome State Fault Refusal :=
  runThread i fun e => .done (e.t.setX2 d (f (e.t.getX2 a)))

/-- Division: a zero divisor raises DIVIDE_ZERO and writes nothing (R152). -/
def divide (i : Instr) (d a b : BitVec 6) (sub : Byte) (f : W32 → W32 → W32) : State → Host.Outcome State Fault Refusal :=
  runThread i fun e =>
    if e.t.getX b = 0 then .fault 0x07 sub 0 else .done (e.t.setX d (f (e.t.getX a) (e.t.getX b)))

/-- `P[PD] := f(thread)`. -/
def setPred (i : Instr) (p : Nat) (f : Thread → Bool) : State → Host.Outcome State Fault Refusal :=
  runThread i fun e => .done (e.t.setP p (f e.t))

/-! ### Functions of values -/

def mulhS (a b : W32) : W32 := BitVec.ofInt 32 (a.toInt * b.toInt / 2 ^ 32)
def mulhZ (a b : W32) : W32 := BitVec.ofNat 32 (a.toNat * b.toNat / 2 ^ 32)
def mulwS (a b : W32) : W64 := BitVec.ofInt 64 (a.toInt * b.toInt)
def mulwZ (a b : W32) : W64 := BitVec.ofNat 64 (a.toNat * b.toNat)
def minS (a b : W32) : W32 := if a.toInt ≤ b.toInt then a else b
def maxS (a b : W32) : W32 := if a.toInt ≤ b.toInt then b else a
def minZ (a b : W32) : W32 := if a.toNat ≤ b.toNat then a else b
def maxZ (a b : W32) : W32 := if a.toNat ≤ b.toNat then b else a
def absS (a : W32) : W32 := if a.toInt < 0 then 0 - a else a

/-- Shifts by the whole of the amount (R157). -/
def shl (a s : W32) : W32 := if s.toNat < 32 then a <<< s.toNat else 0
def shr (a s : W32) : W32 := if s.toNat < 32 then a >>> s.toNat else 0
def sra (a s : W32) : W32 := a.sshiftRight (min s.toNat 32)
def rotl (a s : W32) : W32 := a.rotateLeft (s.toNat % 32)

/-- The number of 1 bits of the low `w` bits (R158). -/
def popCount (w n : Nat) : Nat := (bitList w n).length
def popc (a : W32) : W32 := BitVec.ofNat 32 (popCount 32 a.toNat)
/-- Leading 0 bits, 32 for 0 (R158). -/
def clz (a : W32) : W32 := BitVec.ofNat 32 (32 - ((bitList 32 a.toNat).getLast?.map (· + 1)).getD 0)
def brev (a : W32) : W32 := a.reverse

/-- The field of BFX and BFI: POS = p, LEN = l + 1 (R159). -/
def bfxZ (l p : BitVec 5) (a : W32) : W32 := BitVec.ofNat 32 (bits a.toNat p.toNat (l.toNat + 1))
def bfxS (l p : BitVec 5) (a : W32) : W32 := BitVec.ofInt 32 (toSigned (l.toNat + 1) (bits a.toNat p.toNat (l.toNat + 1)))
def bfi (l p : BitVec 5) (d a : W32) : W32 :=
  let m : W32 := BitVec.ofNat 32 ((2 ^ (l.toNat + 1) - 1) * 2 ^ p.toNat)
  (d &&& ~~~m) ||| (a <<< p.toNat &&& m)

/-- The total-order keys (R28): every NaN has the largest, negative patterns are inverted, others take the sign bit. -/
def fkey32 (b : W32) : W32 :=
  if bits b.toNat 23 8 == 0xFF && bits b.toNat 0 23 != 0 then 0xFFFFFFFF
  else if b.getLsbD 31 then ~~~b else b ||| 0x80000000
def fkey16 (b : BitVec 16) : BitVec 16 :=
  if bits b.toNat 10 5 == 0x1F && bits b.toNat 0 10 != 0 then 0xFFFF
  else if b.getLsbD 15 then ~~~b else b ||| 0x8000

def sext32 {w : Nat} (i : BitVec w) : W32 := i.signExtend 32
def zext32 {w : Nat} (i : BitVec w) : W32 := i.setWidth 32

/-! ### Moves and selection (R147 to R149) -/

def execNop (s : State) : Host.Outcome State Fault Refusal := runThread .nop (fun e => .done e.t) s
def execMov (d a g : BitVec 6) (s : State) : Host.Outcome State Fault Refusal := alu1 (.mov d a g) d a id s
def execMovi (d : BitVec 6) (i : BitVec 18) (s : State) : Host.Outcome State Fault Refusal :=
  runThread (.movi d i) (fun e => .done (e.t.setX d (sext32 i))) s
def execMovhi (d : BitVec 6) (i : BitVec 18) (s : State) : Host.Outcome State Fault Refusal :=
  runThread (.movhi d i) (fun e => .done (e.t.setX d (i.extractLsb' 0 14 ++ (e.t.getX d).extractLsb' 0 18))) s
def execMovx (d : BitVec 6) (i : BitVec 18) (x : BitVec 32) (s : State) : Host.Outcome State Fault Refusal :=
  runThread (.movx d i x) (fun e => .done (e.t.setX2 d (sext32 i ++ x))) s
def execSel (d a b c : BitVec 6) (s : State) : Host.Outcome State Fault Refusal :=
  runThread (.sel d a b c) (fun e => .done (e.t.setX d (if e.t.guard c then e.t.getX a else e.t.getX b))) s

/-! ### Integer arithmetic (R150 to R155) -/

def execAdd (d a b g : BitVec 6) (s : State) : Host.Outcome State Fault Refusal := alu2 (.add d a b g) d a b (· + ·) s
def execSub (d a b g : BitVec 6) (s : State) : Host.Outcome State Fault Refusal := alu2 (.sub d a b g) d a b (· - ·) s
def execAddi (d a : BitVec 6) (i : BitVec 12) (s : State) : Host.Outcome State Fault Refusal :=
  alu1 (.addi d a i) d a (· + sext32 i) s
def execAddc (d a b : BitVec 6) (c : BitVec 5) (s : State) : Host.Outcome State Fault Refusal :=
  runThread (.addc d a b c) (fun e =>
    let x := e.t.getX a
    let y := e.t.getX b
    let ci := e.t.getP c.toNat
    .done ((e.t.setX d (addCarry x y ci)).setP c.toNat (carryOut x y ci))) s
def execAddSatS32 (d a b g : BitVec 6) (s : State) : Host.Outcome State Fault Refusal :=
  alu2 (.addSatS32 d a b g) d a b (fun x y => satS32 (x.toInt + y.toInt)) s
def execAddSatZ32 (d a b g : BitVec 6) (s : State) : Host.Outcome State Fault Refusal :=
  alu2 (.addSatZ32 d a b g) d a b (fun x y => satZ32 ((x.toNat : Int) + y.toNat)) s
def execSubSatS32 (d a b g : BitVec 6) (s : State) : Host.Outcome State Fault Refusal :=
  alu2 (.subSatS32 d a b g) d a b (fun x y => satS32 (x.toInt - y.toInt)) s
def execSubSatZ32 (d a b g : BitVec 6) (s : State) : Host.Outcome State Fault Refusal :=
  alu2 (.subSatZ32 d a b g) d a b (fun x y => satZ32 ((x.toNat : Int) - y.toNat)) s
def execMul (d a b g : BitVec 6) (s : State) : Host.Outcome State Fault Refusal := alu2 (.mul d a b g) d a b (· * ·) s
def execMulhS32 (d a b g : BitVec 6) (s : State) : Host.Outcome State Fault Refusal :=
  alu2 (.mulhS32 d a b g) d a b mulhS s
def execMulhZ32 (d a b g : BitVec 6) (s : State) : Host.Outcome State Fault Refusal :=
  alu2 (.mulhZ32 d a b g) d a b mulhZ s
def execMad (d a b c : BitVec 6) (s : State) : Host.Outcome State Fault Refusal :=
  alu3 (.mad d a b c) d a b c (fun x y z => x * y + z) s
def execMulwS32 (d a b g : BitVec 6) (s : State) : Host.Outcome State Fault Refusal :=
  aluWide (.mulwS32 d a b g) d a b mulwS s
def execMulwZ32 (d a b g : BitVec 6) (s : State) : Host.Outcome State Fault Refusal :=
  aluWide (.mulwZ32 d a b g) d a b mulwZ s
def execDivS32 (d a b g : BitVec 6) (s : State) : Host.Outcome State Fault Refusal :=
  divide (.divS32 d a b g) d a b 1 (fun x y => BitVec.ofInt 32 (x.toInt.tdiv y.toInt)) s
def execDivZ32 (d a b g : BitVec 6) (s : State) : Host.Outcome State Fault Refusal :=
  divide (.divZ32 d a b g) d a b 1 (fun x y => BitVec.ofNat 32 (x.toNat / y.toNat)) s
def execRemS32 (d a b g : BitVec 6) (s : State) : Host.Outcome State Fault Refusal :=
  divide (.remS32 d a b g) d a b 2 (fun x y => BitVec.ofInt 32 (x.toInt.tmod y.toInt)) s
def execRemZ32 (d a b g : BitVec 6) (s : State) : Host.Outcome State Fault Refusal :=
  divide (.remZ32 d a b g) d a b 2 (fun x y => BitVec.ofNat 32 (x.toNat % y.toNat)) s
def execMinS32 (d a b g : BitVec 6) (s : State) : Host.Outcome State Fault Refusal := alu2 (.minS32 d a b g) d a b minS s
def execMinZ32 (d a b g : BitVec 6) (s : State) : Host.Outcome State Fault Refusal := alu2 (.minZ32 d a b g) d a b minZ s
def execMaxS32 (d a b g : BitVec 6) (s : State) : Host.Outcome State Fault Refusal := alu2 (.maxS32 d a b g) d a b maxS s
def execMaxZ32 (d a b g : BitVec 6) (s : State) : Host.Outcome State Fault Refusal := alu2 (.maxZ32 d a b g) d a b maxZ s
def execAbsS32 (d a g : BitVec 6) (s : State) : Host.Outcome State Fault Refusal := alu1 (.absS32 d a g) d a absS s
def execNeg (d a g : BitVec 6) (s : State) : Host.Outcome State Fault Refusal := alu1 (.neg d a g) d a (0 - ·) s
def execLea (d a b : BitVec 6) (n : BitVec 3) (s : State) : Host.Outcome State Fault Refusal :=
  runThread (.lea d a b n) (fun e =>
    .done (e.t.setX2 d (e.t.getX2 a + ((e.t.getX b).signExtend 64 <<< n.toNat)))) s
def execAdd64 (d a b g : BitVec 6) (s : State) : Host.Outcome State Fault Refusal := alu64 (.add64 d a b g) d a b (· + ·) s
def execSub64 (d a b g : BitVec 6) (s : State) : Host.Outcome State Fault Refusal := alu64 (.sub64 d a b g) d a b (· - ·) s
def execAddi64 (d a : BitVec 6) (i : BitVec 12) (s : State) : Host.Outcome State Fault Refusal :=
  aluI64 (.addi64 d a i) d a (· + i.signExtend 64) s
def execShl64i (d a n : BitVec 6) (s : State) : Host.Outcome State Fault Refusal :=
  aluI64 (.shl64i d a n) d a (· <<< n.toNat) s
def execShr64i (d a n : BitVec 6) (s : State) : Host.Outcome State Fault Refusal :=
  aluI64 (.shr64i d a n) d a (· >>> n.toNat) s

/-! ### Logic, shifts, bit fields, keys (R156 to R160) -/

def execAnd (d a b g : BitVec 6) (s : State) : Host.Outcome State Fault Refusal := alu2 (.and d a b g) d a b (· &&& ·) s
def execOr (d a b g : BitVec 6) (s : State) : Host.Outcome State Fault Refusal := alu2 (.or d a b g) d a b (· ||| ·) s
def execXor (d a b g : BitVec 6) (s : State) : Host.Outcome State Fault Refusal := alu2 (.xor d a b g) d a b (· ^^^ ·) s
def execAndn (d a b g : BitVec 6) (s : State) : Host.Outcome State Fault Refusal :=
  alu2 (.andn d a b g) d a b (fun x y => x &&& ~~~y) s
def execNot (d a g : BitVec 6) (s : State) : Host.Outcome State Fault Refusal := alu1 (.not d a g) d a (~~~ ·) s
def execAndi (d a : BitVec 6) (i : BitVec 12) (s : State) : Host.Outcome State Fault Refusal :=
  alu1 (.andi d a i) d a (· &&& zext32 i) s
def execOri (d a : BitVec 6) (i : BitVec 12) (s : State) : Host.Outcome State Fault Refusal :=
  alu1 (.ori d a i) d a (· ||| zext32 i) s
def execXori (d a : BitVec 6) (i : BitVec 12) (s : State) : Host.Outcome State Fault Refusal :=
  alu1 (.xori d a i) d a (· ^^^ zext32 i) s
def execShl (d a b g : BitVec 6) (s : State) : Host.Outcome State Fault Refusal := alu2 (.shl d a b g) d a b shl s
def execShr (d a b g : BitVec 6) (s : State) : Host.Outcome State Fault Refusal := alu2 (.shr d a b g) d a b shr s
def execSra (d a b g : BitVec 6) (s : State) : Host.Outcome State Fault Refusal := alu2 (.sra d a b g) d a b sra s
def execRotl (d a b g : BitVec 6) (s : State) : Host.Outcome State Fault Refusal := alu2 (.rotl d a b g) d a b rotl s
def execShli (d a : BitVec 6) (n : BitVec 5) (s : State) : Host.Outcome State Fault Refusal :=
  alu1 (.shli d a n) d a (shl · (zext32 n)) s
def execShri (d a : BitVec 6) (n : BitVec 5) (s : State) : Host.Outcome State Fault Refusal :=
  alu1 (.shri d a n) d a (shr · (zext32 n)) s
def execSrai (d a : BitVec 6) (n : BitVec 5) (s : State) : Host.Outcome State Fault Refusal :=
  alu1 (.srai d a n) d a (sra · (zext32 n)) s
def execRotli (d a : BitVec 6) (n : BitVec 5) (s : State) : Host.Outcome State Fault Refusal :=
  alu1 (.rotli d a n) d a (rotl · (zext32 n)) s
def execPopc (d a g : BitVec 6) (s : State) : Host.Outcome State Fault Refusal := alu1 (.popc d a g) d a popc s
def execClz (d a g : BitVec 6) (s : State) : Host.Outcome State Fault Refusal := alu1 (.clz d a g) d a clz s
def execBrev (d a g : BitVec 6) (s : State) : Host.Outcome State Fault Refusal := alu1 (.brev d a g) d a brev s
def execBfxS (d a : BitVec 6) (l p : BitVec 5) (s : State) : Host.Outcome State Fault Refusal :=
  alu1 (.bfxS d a l p) d a (bfxS l p) s
def execBfxZ (d a : BitVec 6) (l p : BitVec 5) (s : State) : Host.Outcome State Fault Refusal :=
  alu1 (.bfxZ d a l p) d a (bfxZ l p) s
def execBfi (d a : BitVec 6) (l p : BitVec 5) (s : State) : Host.Outcome State Fault Refusal :=
  alu2 (.bfi d a l p) d d a (bfi l p) s
def execFkeyF16 (d a g : BitVec 6) (s : State) : Host.Outcome State Fault Refusal :=
  alu1 (.fkeyF16 d a g) d a (fun x => zext32 (fkey16 (x.extractLsb' 0 16))) s
def execFkeyF32 (d a g : BitVec 6) (s : State) : Host.Outcome State Fault Refusal := alu1 (.fkeyF32 d a g) d a fkey32 s

/-! ### Compares and predicates (R161 to R165) -/

def execCmpS32 (p a b : BitVec 6) (c : BitVec 3) (s : State) : Host.Outcome State Fault Refusal :=
  setPred (.cmpS32 p a b c) p.toNat (fun t => cmpSigned c (t.getX a) (t.getX b)) s
def execCmpZ32 (p a b : BitVec 6) (c : BitVec 3) (s : State) : Host.Outcome State Fault Refusal :=
  setPred (.cmpZ32 p a b c) p.toNat (fun t => cmpUnsigned c (t.getX a) (t.getX b)) s
def execCmpS64 (p a b : BitVec 6) (c : BitVec 3) (s : State) : Host.Outcome State Fault Refusal :=
  setPred (.cmpS64 p a b c) p.toNat (fun t => cmpSigned c (t.getX2 a) (t.getX2 b)) s
def execCmpZ64 (p a b : BitVec 6) (c : BitVec 3) (s : State) : Host.Outcome State Fault Refusal :=
  setPred (.cmpZ64 p a b c) p.toNat (fun t => cmpUnsigned c (t.getX2 a) (t.getX2 b)) s
def execCmpiS32 (p a i : BitVec 6) (c : BitVec 3) (s : State) : Host.Outcome State Fault Refusal :=
  setPred (.cmpiS32 p a i c) p.toNat (fun t => cmpSigned c (t.getX a) (sext32 i)) s
def execCmpiZ32 (p a i : BitVec 6) (c : BitVec 3) (s : State) : Host.Outcome State Fault Refusal :=
  setPred (.cmpiZ32 p a i c) p.toNat (fun t => cmpUnsigned c (t.getX a) (zext32 i)) s

/-- PLOG's operands: index 31 reads as 1 (R164). -/
def logPred (t : Thread) (i : BitVec 5) : Bool := i.toNat == 31 || t.getP i.toNat
def execPlog (d a b : BitVec 5) (tt : BitVec 4) (s : State) : Host.Outcome State Fault Refusal :=
  setPred (.plog d a b tt) d.toNat (fun t => tt.getLsbD (2 * b2n (logPred t a) + b2n (logPred t b))) s
def execPmov (x : BitVec 6) (r : BitVec 1) (s : State) : Host.Outcome State Fault Refusal :=
  runThread (.pmov x r) (fun e =>
    .done (if r = 0#1 then e.t.setX x (zext32 e.t.p) else { e.t with p := (e.t.getX x).extractLsb' 0 24 })) s

end Sys2Proof.Machine
end

