-- ==== Sys2Proof/Machine/Float.lean ====
section
/-! DEFINITION. Thread instructions on floating values: compares (R163), FP32 arithmetic (R179 to R184), packed halves
(R185), scalar conversions (R186) and CVTW (R189). -/

namespace Sys2Proof.Machine

/-! ### Shapes -/

def f32 (x : W32) : FVal := Fmt.f32.decode x.toNat
/-- `encode_rn(FP32, v)`. -/
def toF32 (v : FVal) : W32 := BitVec.ofNat 32 (Fmt.f32.encode v)
/-- `round_rz(v, FP32)` as a pattern (R23); an infinity stays one. -/
def toF32Rz (v : FVal) : W32 := BitVec.ofNat 32 (Fmt.f32.encodeWith true false v)

/-- The low half as F16 (R163, R186). -/
def f16Low (x : W32) : FVal := Fmt.f16.decode (x.toNat % 2 ^ 16)
def bf16Low (x : W32) : FVal := Fmt.bf16.decode (x.toNat % 2 ^ 16)

/-- A floating compare; NaN is unordered (R163). -/
def fcompare (c : BitVec 3) (a b : FVal) : Bool :=
  if a.isNan || b.isNan then ccUnordered c else ccHolds c (a.lt b) (a.eqv b)

/-- One function on both packed halves, each rounded once in its format (R185). -/
def packed1 (f : Fmt) (op : FVal → FVal → FVal → FVal) (a b c : W32) : W32 :=
  let h := fun (x : W32) (i : Nat) => f.decode (bits x.toNat (16 * i) 16)
  let r := fun i => f.encode (op (h a i) (h b i) (h c i))
  BitVec.ofNat 32 (r 0 + 2 ^ 16 * r 1)

def fabs32 (x : W32) : W32 := if (f32 x).isNan then 0x7FC00000 else x &&& 0x7FFFFFFF
def fneg32 (x : W32) : W32 := if (f32 x).isNan then 0x7FC00000 else x ^^^ 0x80000000

/-! ### Compares -/

def execFcmpF32 (p a b : BitVec 6) (c : BitVec 3) (s : State) : Host.Outcome State Fault Refusal :=
  setPred (.fcmpF32 p a b c) p.toNat (fun t => fcompare c (f32 (t.getX a)) (f32 (t.getX b))) s
def execFcmpF16 (p a b : BitVec 6) (c : BitVec 3) (s : State) : Host.Outcome State Fault Refusal :=
  setPred (.fcmpF16 p a b c) p.toNat (fun t => fcompare c (f16Low (t.getX a)) (f16Low (t.getX b))) s

/-! ### FP32 arithmetic (R179 to R184) -/

def execFaddF32 (d a b g : BitVec 6) (s : State) : Host.Outcome State Fault Refusal :=
  alu2 (.faddF32 d a b g) d a b (fun x y => toF32 ((f32 x).add (f32 y))) s
def execFsubF32 (d a b g : BitVec 6) (s : State) : Host.Outcome State Fault Refusal :=
  alu2 (.fsubF32 d a b g) d a b (fun x y => toF32 ((f32 x).add (f32 y).neg)) s
def execFmulF32 (d a b g : BitVec 6) (s : State) : Host.Outcome State Fault Refusal :=
  alu2 (.fmulF32 d a b g) d a b (fun x y => toF32 ((f32 x).mul (f32 y))) s
def execFfmaF32 (d a b c : BitVec 6) (s : State) : Host.Outcome State Fault Refusal :=
  alu3 (.ffmaF32 d a b c) d a b c (fun x y z => toF32 (((f32 x).mul (f32 y)).add (f32 z))) s
def execFminF32 (d a b g : BitVec 6) (s : State) : Host.Outcome State Fault Refusal :=
  alu2 (.fminF32 d a b g) d a b (fun x y => toF32 (fmin (f32 x) (f32 y))) s
def execFmaxF32 (d a b g : BitVec 6) (s : State) : Host.Outcome State Fault Refusal :=
  alu2 (.fmaxF32 d a b g) d a b (fun x y => toF32 (fmax (f32 x) (f32 y))) s
def execFabsF32 (d a g : BitVec 6) (s : State) : Host.Outcome State Fault Refusal :=
  alu1 (.fabsF32 d a g) d a (fabs32) s
def execFnegF32 (d a g : BitVec 6) (s : State) : Host.Outcome State Fault Refusal :=
  alu1 (.fnegF32 d a g) d a (fneg32) s
def execFrcpF32 (d a g : BitVec 6) (s : State) : Host.Outcome State Fault Refusal :=
  alu1 (.frcpF32 d a g) d a (fun x => toF32 (frcp (f32 x))) s
def execFrsqF32 (d a g : BitVec 6) (s : State) : Host.Outcome State Fault Refusal :=
  alu1 (.frsqF32 d a g) d a (fun x => toF32 (frsq (f32 x))) s
def execFsqrtF32 (d a g : BitVec 6) (s : State) : Host.Outcome State Fault Refusal :=
  alu1 (.fsqrtF32 d a g) d a (fun x => toF32 (fsqrt (f32 x))) s
def execFexp2F32 (d a g : BitVec 6) (s : State) : Host.Outcome State Fault Refusal :=
  alu1 (.fexp2F32 d a g) d a (fun x => toF32 (fexp2 (f32 x))) s
def execFlog2F32 (d a g : BitVec 6) (s : State) : Host.Outcome State Fault Refusal :=
  alu1 (.flog2F32 d a g) d a (fun x => toF32 (flog2 (f32 x))) s
def execFdivF32 (d a b g : BitVec 6) (s : State) : Host.Outcome State Fault Refusal :=
  alu2 (.fdivF32 d a b g) d a b (fun x y => toF32 (fdiv (f32 x) (f32 y))) s
def execFaddRzF32 (d a b g : BitVec 6) (s : State) : Host.Outcome State Fault Refusal :=
  alu2 (.faddRzF32 d a b g) d a b (fun x y => toF32Rz ((f32 x).add (f32 y))) s
def execFfmaRzF32 (d a b c : BitVec 6) (s : State) : Host.Outcome State Fault Refusal :=
  alu3 (.ffmaRzF32 d a b c) d a b c (fun x y z => toF32Rz (((f32 x).mul (f32 y)).add (f32 z))) s

/-! ### Packed halves (R185) -/

def execHadd2 (d a b g : BitVec 6) (s : State) : Host.Outcome State Fault Refusal :=
  alu2 (.hadd2 d a b g) d a b (fun x y => packed1 .f16 (fun u v _ => u.add v) x y 0) s
def execHmul2 (d a b g : BitVec 6) (s : State) : Host.Outcome State Fault Refusal :=
  alu2 (.hmul2 d a b g) d a b (fun x y => packed1 .f16 (fun u v _ => u.mul v) x y 0) s
def execHfma2 (d a b c : BitVec 6) (s : State) : Host.Outcome State Fault Refusal :=
  alu3 (.hfma2 d a b c) d a b c (packed1 .f16 (fun u v w => (u.mul v).add w)) s
def execHmin2 (d a b g : BitVec 6) (s : State) : Host.Outcome State Fault Refusal :=
  alu2 (.hmin2 d a b g) d a b (fun x y => packed1 .f16 (fun u v _ => fmin u v) x y 0) s
def execHmax2 (d a b g : BitVec 6) (s : State) : Host.Outcome State Fault Refusal :=
  alu2 (.hmax2 d a b g) d a b (fun x y => packed1 .f16 (fun u v _ => fmax u v) x y 0) s
def execBadd2 (d a b g : BitVec 6) (s : State) : Host.Outcome State Fault Refusal :=
  alu2 (.badd2 d a b g) d a b (fun x y => packed1 .bf16 (fun u v _ => u.add v) x y 0) s
def execBmul2 (d a b g : BitVec 6) (s : State) : Host.Outcome State Fault Refusal :=
  alu2 (.bmul2 d a b g) d a b (fun x y => packed1 .bf16 (fun u v _ => u.mul v) x y 0) s
def execBfma2 (d a b c : BitVec 6) (s : State) : Host.Outcome State Fault Refusal :=
  alu3 (.bfma2 d a b c) d a b c (packed1 .bf16 (fun u v w => (u.mul v).add w)) s
def execBmin2 (d a b g : BitVec 6) (s : State) : Host.Outcome State Fault Refusal :=
  alu2 (.bmin2 d a b g) d a b (fun x y => packed1 .bf16 (fun u v _ => fmin u v) x y 0) s
def execBmax2 (d a b g : BitVec 6) (s : State) : Host.Outcome State Fault Refusal :=
  alu2 (.bmax2 d a b g) d a b (fun x y => packed1 .bf16 (fun u v _ => fmax u v) x y 0) s

/-! ### Conversions (R186, R189) -/

/-- Conversions of FP32 to S32 and Z32, saturating (R25). -/
def cvtS32 (rz : Bool) (x : W32) : W32 := BitVec.ofInt 32 (toIntSat rz (-2147483648) 2147483647 (f32 x))
def cvtZ32 (x : W32) : W32 := BitVec.ofInt 32 (toIntSat true 0 4294967295 (f32 x))

def execCvtF32S32 (d a g : BitVec 6) (s : State) : Host.Outcome State Fault Refusal :=
  alu1 (.cvtF32S32 d a g) d a (fun x => toF32 (FVal.ofInt x.toInt 0)) s
def execCvtF32Z32 (d a g : BitVec 6) (s : State) : Host.Outcome State Fault Refusal :=
  alu1 (.cvtF32Z32 d a g) d a (fun x => toF32 (FVal.ofInt x.toNat 0)) s
def execCvtS32F32Rz (d a g : BitVec 6) (s : State) : Host.Outcome State Fault Refusal :=
  alu1 (.cvtS32F32Rz d a g) d a (cvtS32 true) s
def execCvtS32F32Rn (d a g : BitVec 6) (s : State) : Host.Outcome State Fault Refusal :=
  alu1 (.cvtS32F32Rn d a g) d a (cvtS32 false) s
def execCvtZ32F32Rz (d a g : BitVec 6) (s : State) : Host.Outcome State Fault Refusal :=
  alu1 (.cvtZ32F32Rz d a g) d a (cvtZ32) s
def execCvtF16F32 (d a g : BitVec 6) (s : State) : Host.Outcome State Fault Refusal :=
  alu1 (.cvtF16F32 d a g) d a (fun x => BitVec.ofNat 32 (Fmt.f16.encode (f32 x))) s
def execCvtF16F32Sat (d a g : BitVec 6) (s : State) : Host.Outcome State Fault Refusal :=
  alu1 (.cvtF16F32Sat d a g) d a (fun x => BitVec.ofNat 32 (Fmt.f16.saturate (f32 x))) s
def execCvtBf16F32 (d a g : BitVec 6) (s : State) : Host.Outcome State Fault Refusal :=
  alu1 (.cvtBf16F32 d a g) d a (fun x => BitVec.ofNat 32 (Fmt.bf16.encode (f32 x))) s
def execCvtF32F16 (d a g : BitVec 6) (s : State) : Host.Outcome State Fault Refusal :=
  alu1 (.cvtF32F16 d a g) d a (fun x => toF32 (f16Low x)) s
def execCvtF32Bf16 (d a g : BitVec 6) (s : State) : Host.Outcome State Fault Refusal :=
  alu1 (.cvtF32Bf16 d a g) d a (fun x => toF32 (bf16Low x)) s

/-- The format of a narrow-conversion word; the word's own check leaves no other code (R187, R189). -/
def narrowFmt (f : BitVec 4) : Fmt := (Fmt.ofCode f.toNat).getD .e8m0

def execCvtw (d a : BitVec 6) (f : BitVec 4) (s : State) : Host.Outcome State Fault Refusal :=
  alu1 (.cvtw d a f) d a (fun x => toF32 ((narrowFmt f).decode (x.toNat % 2 ^ (narrowFmt f).width))) s

end Sys2Proof.Machine
end

