-- ==== Sys2Proof/Machine/Lanes.lean ====
section
/-! DEFINITION. Convergent words (R140, R190): the wait for siblings, the one act for the warp, and the lane words VOTE,
CVTB, WIDB, XSHF, XSHFW, RED, SCAN and PERMB (R187 to R196). -/

namespace Sys2Proof.Machine

/-! ### Arrival and the act (R133, R140) -/

/-- The key of a thread (R133). -/
def Thread.key (t : Thread) : W64 × Nat × Bool × Nat :=
  (t.pos.pc, t.stack.length, t.handler.isSome, (t.rep.map Rep.iter).getD 0)

/-- A thread waits at a convergent word. -/
def Thread.atConverge (t : Thread) : Bool :=
  match t.run with
  | .waiting .converge => true
  | _ => false

/-- Every live thread of the warp waits at the convergent word of `t`, under its key. -/
def Group.converged (g : Group) (t : Thread) : Bool :=
  (g.liveIn (warpOf t.tid)).all fun u => u.atConverge && u.key == t.key

/-- Retire several threads of the warp as they stand after a word. -/
def State.retireEach (s : State) (e : Env) : List Thread → State
  | [] => s
  | t :: ts =>
    match s.thread? e.g t.tid with
    | none => State.retireEach s e ts
    | some old => State.retireEach (s.retireAt { e with tid := t.tid, t := old } t) e ts

/-- A convergent word: the thread arrives; the last arrival executes the act for every live thread. `act` gives the
threads as the act leaves them and whether it sets CHKSTAT.RNF. -/
def runConv (i : Instr) (act : Env → List Thread → List Thread × Bool) (s : State) : Host.Outcome State Fault Refusal :=
  runWord i (fun e s =>
    let s := s.waitAt e .converge
    match s.group? e.g with
    | none => s
    | some gr =>
      if gr.converged e.t then
        let (ts, rnf) := act e (gr.liveIn (warpOf e.tid))
        let s := if rnf then
            s.modGroup e.g fun gr => gr.modWarp (warpOf e.tid) fun w => { w with chkstat := w.chkstat ||| 1 }
          else s
        s.retireEach e (ts.map fun t => ({ t with run := .runnable } : Thread).advance 1)
      else s) s

/-- The thread of a lane. -/
def laneThread (ts : List Thread) (lane : Nat) : Option Thread := ts.find? fun t => laneOf t.tid == lane

/-- X[r] of every lane; a lane without a live thread supplies zero (R190). -/
def laneX (ts : List Thread) (r : BitVec 6) : List W32 :=
  (List.range warpSize).map fun l => ((laneThread ts l).map fun t => t.getX r).getD 0

/-- Write a value to X[d] of each live thread by its lane. -/
def writeLanes (ts : List Thread) (d : BitVec 6) (v : List W32) : List Thread :=
  ts.map fun t => t.setX d (v.getD (laneOf t.tid) 0)

/-- A convergent word from X[A] of all lanes to X[D]. -/
def laneWord (i : Instr) (d a : BitVec 6) (f : List W32 → List W32) : State → Host.Outcome State Fault Refusal :=
  runConv i fun _ ts => (writeLanes ts d (f (laneX ts a)), false)

/-! ### Reductions (R36, R192 to R194) -/

/-- One step of R36 under NBV 1 at mask `m`: every lane's total and prefix. -/
def butterflyStep (op : W32 → W32 → W32) (m : Nat) (tp : List W32 × List W32) : List W32 × List W32 :=
  let (t, p) := tp
  let u := fun i => t.getD (i ^^^ m) 0
  ((List.range t.length).map fun i => op (t.getD i 0) (u i),
   (List.range p.length).map fun i => if i / m % 2 == 1 then op (u i) (p.getD i 0) else p.getD i 0)

/-- Totals and prefixes in butterfly order. -/
def butterflyFold (op : W32 → W32 → W32) (v : List W32) : List W32 × List W32 :=
  [1, 2, 4, 8, 16, 32].foldl (fun tp m => butterflyStep op m tp) (v, v)

/-- Prefixes in lane order, from the value so far. -/
def seqFold (op : W32 → W32 → W32) (acc : W32) : List W32 → List W32
  | [] => []
  | x :: xs => let a := op acc x; a :: seqFold op a xs

/-- The combining function of OP (R192). -/
def redOp (o : Nat) (x y : W32) : W32 :=
  match o with
  | 0 => x + y
  | 1 => toF32 ((f32 x).add (f32 y))
  | 2 => minS x y
  | 3 => maxS x y
  | 4 => minZ x y
  | 5 => maxZ x y
  | 6 => x &&& y
  | 7 => x ||| y
  | 8 => x ^^^ y
  | 9 => toF32 (fmin (f32 x) (f32 y))
  | _ => toF32 (fmax (f32 x) (f32 y))

/-- The identity of OP (R192). -/
def redIdentity (o : Nat) : W32 :=
  match o with
  | 2 => 0x7FFFFFFF
  | 3 => 0x80000000
  | 4 => 0xFFFFFFFF
  | 6 => 0xFFFFFFFF
  | 9 => 0x7F800000
  | 10 => 0xFF800000
  | _ => 0

/-- RED and inclusive SCAN of every lane: butterfly order under NBV 1, lane order under NBV 0 (R36). The floating
forms act on values, so a NaN is canonical even where nothing is combined with it (R18). -/
def redScan (o nbv : Nat) (v : List W32) : W32 × List W32 :=
  let v := if o == 1 || 9 ≤ o then v.map fun x => toF32 (f32 x) else v
  if o == 1 && nbv == 0 then
    let p := match v with | [] => [] | x :: xs => x :: seqFold (redOp 1) x xs
    (p.getLastD 0, p)
  else
    let (t, p) := butterflyFold (redOp o) v
    (t.getD 0 0, p)

/-! ### Rotating conversions (R187, R188) -/

/-- One block of 16 lanes through CVTB: the codes, and whether it was not finite. -/
def cvtbBlock (f : Fmt) (seed : W32) (b : Nat) (xs : List W32) : List W32 × Bool :=
  match rotateBlock seed b (xs.map f32) with
  | none => (xs.map fun _ => BitVec.ofNat 32 f.nanCode, true)
  | some ys => (ys.map fun y => BitVec.ofNat 32 (f.saturate y), false)

/-- One block through WIDB; a lane that supplies zero is the value +0 (R188). -/
def widbBlock (seed : W32) (b : Nat) (xs : List FVal) : List W32 × Bool :=
  match unrotateBlock seed b xs with
  | none => (xs.map fun _ => 0x7FC00000, true)
  | some zs => (zs.map toF32, false)

/-- The four blocks of a warp. -/
def blocks {α β : Type} (g : Nat → List α → List β × Bool) (v : List α) : List β × Bool :=
  let r := (List.range 4).map fun b => g b ((v.drop (16 * b)).take 16)
  (r.flatMap Prod.fst, r.any Prod.snd)

/-- The blocks that hold a live thread: only theirs are written, and only they set RNF. -/
def liveBlocks (ts : List Thread) (b : Nat) : Bool := ts.any fun t => laneOf t.tid / 16 == b

/-- The group's seed register (R42). -/
def Group.seed (g : Group) (tag : Nat) : W32 := Tbl.get 0 g.hseed (tag % 8)

def execCvtb (d a : BitVec 6) (f : BitVec 4) (t : BitVec 5) (s : State) : Host.Outcome State Fault Refusal :=
  runConv (.cvtb d a f t) (fun e ts =>
    let r := blocks (fun b xs =>
      let (ys, n) := cvtbBlock (narrowFmt f) (e.gr.seed t.toNat) b xs
      (ys, n && liveBlocks ts b)) (laneX ts a)
    (writeLanes ts d r.1, r.2)) s

def execWidb (d a : BitVec 6) (f : BitVec 4) (t : BitVec 5) (s : State) : Host.Outcome State Fault Refusal :=
  runConv (.widb d a f t) (fun e ts =>
    let v := (List.range warpSize).map fun l =>
      match laneThread ts l with
      | some u => (narrowFmt f).decode ((u.getX a).toNat % 2 ^ (narrowFmt f).width)
      | none => FVal.zero
    let r := blocks (fun b xs =>
      let (ys, n) := widbBlock (e.gr.seed t.toNat) b xs
      (ys, n && liveBlocks ts b)) v
    (writeLanes ts d r.1, r.2)) s

/-! ### The lane words -/

/-- Exchange along a butterfly mask (R191). -/
def exchange (m : Nat) (v : List W32) : List W32 := (List.range v.length).map fun i => v.getD (i ^^^ m) 0

def execXshf (d a : BitVec 6) (m : BitVec 7) (s : State) : Host.Outcome State Fault Refusal :=
  laneWord (.xshf d a m) d a (exchange m.toNat) s
def execXshfw (d a : BitVec 6) (k : BitVec 3) (s : State) : Host.Outcome State Fault Refusal :=
  laneWord (.xshfw d a k) d a (exchange (warpSize / 2 ^ k.toNat)) s

def execRed (d a : BitVec 6) (o : BitVec 5) (s : State) : Host.Outcome State Fault Refusal :=
  runConv (.red d a o) (fun e ts =>
    (ts.map fun t => t.setX d (redScan o.toNat e.k.nbv (laneX ts a)).1, false)) s

def execScan (d a : BitVec 6) (o : BitVec 5) (x : BitVec 1) (s : State) : Host.Outcome State Fault Refusal :=
  runConv (.scan d a o x) (fun e ts =>
    let p := (redScan o.toNat e.k.nbv (laneX ts a)).2
    (writeLanes ts d (if x = 1#1 then redIdentity o.toNat :: p else p), false)) s

/-- VOTE's bits of all lanes (R195). -/
def voteBits (ts : List Thread) (ps : BitVec 6) : List Bool :=
  (List.range warpSize).map fun l => ((laneThread ts l).map fun t => t.guard ps).getD false

/-- The ballot of some bits. -/
def ballot (bs : List Bool) : W64 := BitVec.ofNat 64 (bs.zipIdx.map fun p => b2n p.1 * 2 ^ p.2).sum

def execVote (d ps : BitVec 6) (o : BitVec 2) (s : State) : Host.Outcome State Fault Refusal :=
  runConv (.vote d ps o) (fun _ ts =>
    let bs := voteBits ts ps
    (ts.map fun t =>
      match o.toNat with
      | 0 => t.setP d.toNat (bs.all id)
      | 1 => t.setP d.toNat (bs.any id)
      | 2 => t.setP d.toNat (bs.all id || !bs.any id)
      | _ => t.setX2 d (ballot bs), false)) s

/-- PERMB's lookup for one lane (R196). -/
def permb (hi : Bool) (tab : List Nat) (x : W32) : W32 :=
  BitVec.ofNat 32 ((List.range 4).map fun k =>
    tab.getD (bits x.toNat (8 * k + (if hi then 4 else 0)) 4) 0 * 2 ^ (8 * k)).sum

/-- The 16-byte table of a lane's block. -/
def permTable (b : List W32) (c : Nat) : List Nat :=
  (List.range 16).map fun n => bits (b.getD (16 * c + n / 4) 0).toNat (8 * (n % 4)) 8

def execPermb (d a b : BitVec 6) (n : BitVec 1) (s : State) : Host.Outcome State Fault Refusal :=
  runConv (.permb d a b n) (fun _ ts =>
    let tab := laneX ts b
    (ts.map fun t => t.setX d (permb (n = 1#1) (permTable tab (laneOf t.tid / 16)) (t.getX a)), false)) s

end Sys2Proof.Machine
end

