-- ==== Sys2Proof/Machine/Tile.lean ====
section
/-! DEFINITION. Tiles: control registers (R287), the checks of a tile operation as it issues (R288, R294, R302, R303), the
matrix queue (R291), and what each tile operation does when it is performed (R295 to R301, R308 to R317); TCFG and
SEGN, which act at once (R307, R314). -/

namespace Sys2Proof.Machine

/-! ### Tile control registers (R45, R287) -/

def tcCode (v : W32) : Nat := bits v.toNat 0 4
def tcRows (v : W32) : Nat := bits v.toNat 4 7 + 1
def tcCols (v : W32) : Nat := bits v.toNat 11 9 + 1
def tcTag (v : W32) : Nat := bits v.toNat 20 5
/-- The element format; a reserved FMT is never used, since the register is not well-formed. -/
def tcFmt (v : W32) : Fmt := (Fmt.ofCode (tcCode v)).getD .e8m0

/-- Well-formed: a known FMT, rows of at most 256 bytes, whole packed groups (R287). -/
def tcFormed (v : W32) : Bool :=
  let w := (tcFmt v).width
  tcCode v < 12 && tcCols v * w ≤ 2048 && (w != 6 || tcCols v % 4 == 0) && (w != 4 || tcCols v % 2 == 0)

def tcNarrow (v : W32) : Bool := 3 ≤ tcCode v && tcCode v ≤ 11
def tcWide (v : W32) : Bool := tcCode v ≤ 2
def tagReserved (t : Nat) : Bool := t != 0 && t < 16
/-- n of a rotated tag. -/
def tagBlock (t : Nat) : Nat := if bit t 3 then 64 else 16

/-! ### What an operation comes to when it issues -/

/-- The end of an issue: done; the fault the lowest member takes; a page the word waits for; not yet; or issued, with a
peer's answer to come. -/
inductive Issued where
  | done
  | fault (code sub : Byte) (addr : W64)
  | page (base : W64) (size : Nat) (kind : Needs) (absent : Bool)
  | stall
  | going
  deriving DecidableEq, Repr

/-- The first sub-code whose case holds; cases stand in rising order. -/
def lowest (l : List (Bool × Byte)) : Option Byte := (l.find? Prod.fst).map Prod.snd

/-- The checks of R294 in their order: tags, shapes, then operands. -/
def tileChecks (tags shapes : List (Bool × Byte)) (operands : Option (Byte × Byte × W64)) : Option (Byte × Byte × W64) :=
  match lowest tags with
  | some sub => some (0x20, sub, 0)
  | none =>
    match lowest shapes with
    | some sub => some (0x21, sub, 0)
    | none => operands

/-- Narrow data under tag 0x00 (R303). -/
def bareNarrow (v : W32) : Bool := tcNarrow v && tcTag v == 0

/-- A tile operation issues: it fails its checks, waits for a place in the queue or in M, or enters the queue with the
control registers and seeds it reads now (R287, R291, R302). -/
def State.issueTile (s : State) (e : Env) (pc : W64) (tiles : List Nat) (bad : Option (Byte × Byte × W64))
    (kind : TileKind) : State × Issued :=
  let c := s.core e.gr.core
  match bad with
  | some (code, sub, addr) => (s, .fault code sub addr)
  | none =>
    if 8 ≤ c.tileq.length || 63 ≤ e.warp.mq.length then (s, .stall)
    else
      let o := TileOp.mk e.op e.g (warpOf e.tid) e.tid pc kind (tiles.map fun t => (t, e.gr.tcs.word t)) e.gr.hseed e.k.nbv
        none false [] none 0
      let s := s.setCore e.gr.core { c with tileq := c.tileq ++ [o] }
      (s.modGroup e.g fun g => g.modWarp (warpOf e.tid) fun w => { w with mq := w.mq ++ [e.op] }, .done)

/-- A reserved tag on a tile the operation reads. -/
def reserved3 (v : W32) : Bool × Byte := (tagReserved (tcTag v), 3)

/-- Bytes of one element of a raw move (R308). -/
def rawSize (v : W32) : Nat := match tcCode v with | 0 => 4 | 1 => 2 | 2 => 2 | _ => 1

/-- TLD and TST (R308). -/
def issueMove (load : Bool) (t : BitVec 4) (a b : BitVec 6) (e : Env) (pc : W64) (s : State) : State × Issued :=
  let v := e.gr.tcs.word t.toNat
  let addr := e.t.getX2 a
  let str := (e.t.getX b).signExtend 64
  let mis := addr.toNat % rawSize v != 0 || str.toNat % rawSize v != 0
  s.issueTile e pc [t.toNat]
    (tileChecks [reserved3 v] [(!tcFormed v, 1)] (if mis then some (0x06, 9, addr) else none))
    (if load then .tld t.toNat addr str else .tst t.toNat addr str)

def issueTzero (t : BitVec 4) (e : Env) (pc : W64) (s : State) : State × Issued :=
  let v := e.gr.tcs.word t.toNat
  s.issueTile e pc [t.toNat] (tileChecks [reserved3 v] [(!tcFormed v, 1)] none) (.tzero t.toNat)

def issueTchk (d : BitVec 6) (t : BitVec 4) (signers : List Nat) (e : Env) (pc : W64) (s : State) : State × Issued :=
  let v := e.gr.tcs.word t.toNat
  s.issueTile e pc [t.toNat] (tileChecks [reserved3 v] [(!tcFormed v, 1)] none) (.tchk d.toNat t.toNat signers)

/-- Panels of a row of `c` elements, and the bytes of QNT's area (R310, R311). -/
def panels (c : Nat) : Nat := (c + 63) / 64
def qntArea (c : Nat) : Nat := 128 + 1024 * panels c

/-- Targets of QNT (R310). -/
def qntTarget (v : W32) : Bool := [3, 4, 5, 6, 7, 9, 10].contains (tcCode v)

/-- A scratch range outside the group's scratch (R200). -/
def outsideScratch (e : Env) (o n : Nat) : Bool := 256 * e.k.scru < o + n

def issueQnt (d src : BitVec 4) (h : BitVec 3) (a : BitVec 6) (e : Env) (pc : W64) (s : State) : State × Issued :=
  let vd := e.gr.tcs.word d.toNat
  let vs := e.gr.tcs.word src.toNat
  let off := e.t.getX a
  let n := tagBlock (tcTag vd)
  s.issueTile e pc [d.toNat, src.toNat]
    (tileChecks
      [(bareNarrow vd || bareNarrow vs, 2), (tagReserved (tcTag vd) || tagReserved (tcTag vs), 3), (tcTag vs != 0, 4)]
      [(!tcFormed vd || !tcFormed vs, 1), (!tcWide vs || !qntTarget vd, 5), (tcCols vd % n != 0, 6),
       (tcRows vd != tcRows vs || tcCols vd != tcCols vs, 7)]
      (if off.toNat % 128 != 0 then some (0x06, 9, off.setWidth 64)
       else if outsideScratch e off.toNat (qntArea (tcCols vs)) then some (0x12, 0x10, off.setWidth 64)
       else none))
    (.qnt d.toNat src.toNat h.toNat off.toNat)

def issueTcvt (d src : BitVec 4) (e : Env) (pc : W64) (s : State) : State × Issued :=
  let vd := e.gr.tcs.word d.toNat
  let vs := e.gr.tcs.word src.toNat
  let down := tcWide vs && tcNarrow vd
  let up := tcNarrow vs && tcWide vd
  let wide := tcWide vs && tcWide vd
  let tag := if down then tcTag vd else tcTag vs
  s.issueTile e pc [d.toNat, src.toNat]
    (tileChecks
      [(bareNarrow vd || bareNarrow vs, 2), (tagReserved (tcTag vd) || tagReserved (tcTag vs), 3),
       ((down && tcTag vs != 0) || (up && tcTag vd != 0), 4), (wide && tcTag vd != tcTag vs, 5)]
      [(!tcFormed vd || !tcFormed vs, 1), (!(down || up || wide) || tcCode vd == 11 || tcCode vs == 11, 5),
       ((down || up) && tcCols vs % tagBlock tag != 0, 6), (tcRows vd != tcRows vs || tcCols vd != tcCols vs, 7)]
      none)
    (.tcvt d.toNat src.toNat)

/-- K elements at most per MMA (R289). -/
def chunk (fmt : Nat) : Nat := if fmt ≤ 2 then 32 else if [3, 4, 8, 9].contains fmt then 64 else 128

/-- Rows an MMA needs of its A and B operands (R290). -/
def mmaRows (fuse : Nat) : Nat × Nat :=
  match fuse with
  | 0 => (32, 32)
  | 1 => (32, 128)
  | 2 => (64, 64)
  | _ => (128, 32)

/-- MMA of format `fmt` (R290, R303, R313). -/
def issueMma (fmt : Nat) (acc : BitVec 5) (ta tb : BitVec 4) (f : BitVec 2) (k : BitVec 6) (e : Env) (pc : W64)
    (s : State) : State × Issued :=
  let more := if f = 0#2 then 4 else 1
  let as := (List.range more).map fun i => ta.toNat + i
  let bs := (List.range more).map fun i => tb.toNat + i
  let va := as.map e.gr.tcs.word
  let vb := bs.map e.gr.tcs.word
  let vs := va ++ vb
  let xk := (e.t.getX k).toNat
  let off := bits xk 0 16
  let len := bits xk 16 16
  let (ra, rb) := mmaRows f.toNat
  let tolerant := fun (r : State × Issued) =>
    if r.2 == .done && e.warp.mode == 2 then (r.1.modKernel e.gr.kern fun k => { k with tolerant := true }, r.2) else r
  tolerant <| s.issueTile e pc (as ++ bs)
    (tileChecks
      [((va.zip vb).any fun p => tcTag p.1 != tcTag p.2, 1),
       (vs.any fun v => (3 ≤ fmt || tcNarrow v) && tcTag v == 0, 2), (vs.any fun v => tagReserved (tcTag v), 3)]
      [(vs.any fun v => !tcFormed v, 1), (va.any (fun v => tcRows v < ra) || vb.any fun v => tcRows v < rb, 2),
       (len == 0 || len % 8 != 0 || chunk fmt < len || off % 8 != 0, 3), (vs.any fun v => tcCols v < off + len, 4),
       (vs.any fun v => tcCode v != fmt, 5)]
      none)
    (.mma fmt acc.toNat ta.toNat tb.toNat f.toNat off len e.warp.mode (e.gr.retrymax.toNat % 8))

/-- SCACC reads both scale vectors as it issues (R315). -/
def issueScacc (d p : BitVec 5) (a : BitVec 6) (e : Env) (pc : W64) (s : State) : State × Issued :=
  let x := (e.t.getX a).toNat
  let oa := 128 * bits x 0 16
  let ob := 128 * bits x 16 16
  s.issueTile e pc []
    (if outsideScratch e oa 128 then some (0x12, 0x10, BitVec.ofNat 64 oa)
     else if outsideScratch e ob 128 then some (0x12, 0x10, BitVec.ofNat 64 ob)
     else none)
    (.scacc d.toNat p.toNat (e.gr.scratch.bytes oa 128) (e.gr.scratch.bytes ob 128))

def issueAclr (a : BitVec 5) (e : Env) (pc : W64) (s : State) : State × Issued := s.issueTile e pc [] none (.aclr a.toNat)

/-- AMOV.IN under DIR 0, AMOV.OUT under DIR 1 (R316). -/
def issueAmov (a : BitVec 5) (t : BitVec 4) (dir : BitVec 1) (e : Env) (pc : W64) (s : State) : State × Issued :=
  let v := e.gr.tcs.word t.toNat
  if dir = 0#1 then
    s.issueTile e pc [t.toNat]
      (tileChecks [(bareNarrow v, 2), reserved3 v]
        [(!tcFormed v, 1), (tcCode v == 11, 5), (bit (tcTag v) 4 && tcCols v % tagBlock (tcTag v) != 0, 6)] none)
      (.amovIn a.toNat t.toNat)
  else
    s.issueTile e pc [t.toNat]
      (tileChecks [(bareNarrow v, 2), reserved3 v, (tcTag v != 0, 4)] [(!tcFormed v, 1), (!tcWide v, 5)] none)
      (.amovOut a.toNat t.toNat)

/-- AST and ALD (R317). -/
def issueAccMove (load : Bool) (a : BitVec 5) (x b : BitVec 6) (e : Env) (pc : W64) (s : State) : State × Issued :=
  let addr := e.t.getX2 x
  let cfg := e.t.getX b
  let mis := addr.toNat % 4 != 0 || bits cfg.toNat 0 18 % 4 != 0
  s.issueTile e pc [] (if mis then some (0x06, 9, addr) else none)
    (if load then .ald a.toNat addr cfg else .ast a.toNat addr cfg)

/-! ### TCFG and SEGN -/

/-- TCFG checks the value it writes (R307). -/
def execTcfg (t : BitVec 4) (a : BitVec 6) (s : State) : Host.Outcome State Fault Refusal :=
  runWord (.tcfg t a) (fun e s =>
    let v := e.t.getX a
    match tileChecks [(bareNarrow v, 2), (tagReserved (tcTag v), 3)] [(!tcFormed v, 1)] none with
    | some (c, sub, addr) => s.faultAt e c sub addr
    | none =>
      (s.modGroup e.g fun g => { g with tcs := g.tcs.setWord t.toNat (BitVec.ofNat 32 (bits v.toNat 0 25)) }).retire e e.t
        1) s

/-- The least granule above `g` where a block of either operand starts, else 8. -/
def nextStart (u g : Nat) : Nat := ((List.range 8).find? fun h => g < h && bit u h).getD 8

/-- SEGN (R314). -/
def execSegn (d a b : BitVec 6) (s : State) : Host.Outcome State Fault Refusal :=
  runThread (.segn d a b) (fun e =>
    let pos := bits (e.t.getX b).toNat 0 16
    let lim := bits (e.t.getX b).toNat 16 16
    if pos % 8 != 0 || lim % 8 != 0 || 512 < lim then .fault 0x01 7 0
    else if lim ≤ pos then
      .done ((e.t.setX d (BitVec.ofNat 32 pos)).setX (d + 1) (BitVec.ofNat 32 pos))
    else
      let x := (e.t.getX a).toNat
      let g := pos % 64 / 8
      let ba := bits x 0 8 ||| 1
      let bb := bits x 8 8 ||| 1
      let len := min (8 * (nextStart (ba ||| bb) g - g)) (lim - pos)
      let ord := fun (m : Nat) => (bitList (g + 1) m).length - 1
      .done ((e.t.setX d (BitVec.ofNat 32 (pack [(16, len), (0, pos)]))).setX (d + 1)
        (BitVec.ofNat 32 (pack [(24, pos / 64), (20, ord bb), (16, ord ba), (0, pos + len)])))) s

/-! ### Contents of tiles and accumulators (R286) -/

def Group.tile (g : Group) (n : Nat) : Store Byte := (Tbl.find? g.tiles n).getD ⟨0, []⟩
def Group.acc (g : Group) (n : Nat) : Store W32 := (Tbl.find? g.accs n).getD ⟨0, []⟩
def Group.setTile (g : Group) (n : Nat) (m : Store Byte) : Group := { g with tiles := Tbl.put g.tiles n m }
def Group.setAcc (g : Group) (n : Nat) (m : Store W32) : Group := { g with accs := Tbl.put g.accs n m }

/-- The codes of row `r`. -/
def tileRow (f : Fmt) (cols : Nat) (m : Store Byte) (r : Nat) : List Nat :=
  let n := m.readN (256 * r) (cols * f.width / 8)
  (List.range cols).map fun j => bits n (f.width * j) f.width

/-- The codes of every row of a tile. -/
def tileRows (v : W32) (m : Store Byte) : List (List Nat) := (List.range (tcRows v)).map (tileRow (tcFmt v) (tcCols v) m)

/-- A row's codes packed (R16). -/
def rowBytes (f : Fmt) (cs : List Nat) : List Byte :=
  leBytes (cs.length * f.width / 8) (cs.zipIdx.map fun c => c.1 * 2 ^ (f.width * c.2)).sum

/-- A tile that holds these rows; whatever lies outside them is undefined. -/
def tileOf (seed : Nat) (f : Fmt) (rows : List (List Nat)) : Store Byte :=
  ⟨seed, rows.zipIdx.flatMap fun r => (rowBytes f r.1).zipIdx.map fun b => (256 * r.2 + b.2, b.1)⟩

/-- The word of element (i, j) of an accumulator. -/
def accWord (m : Store W32) (i j : Nat) : W32 := m.word (128 * i + j)
def setAccWord (m : Store W32) (i j : Nat) (v : W32) : Store W32 := m.setWord (128 * i + j) v

/-- Set elements of an accumulator. -/
def setElems (m : Store W32) : List (Nat × Nat × W32) → Store W32
  | [] => m
  | (i, j, v) :: l => setElems (setAccWord m i j v) l

/-- The index pairs of a region in row-major order. -/
def region (i0 j0 rows cols : Nat) : List (Nat × Nat) :=
  (List.range rows).flatMap fun i => (List.range cols).map fun j => (i0 + i, j0 + j)

/-- Blocks of `n` along a row, through `f` of the block's index. -/
def inBlocks {α β : Type} (n : Nat) (f : Nat → List α → β) (row : List α) : List β :=
  (List.range (row.length / n)).map fun c => f c ((row.drop (n * c)).take n)

/-! ### Conversions of tiles (R310 to R312, R316) -/

/-- A row rotated in blocks under a seed; none for a NONFINITE block. -/
def rotateRow (seed : W32) (n : Nat) (row : List FVal) : List (Option (List FVal)) := inBlocks n (rotateBlock seed) row
def unrotateRow (seed : W32) (n : Nat) (row : List FVal) : List (Option (List FVal)) := inBlocks n (unrotateBlock seed) row

/-- One row of TCVT and whether it meets a NONFINITE block (R312). -/
def tcvtRow (vs vd : W32) (seed : Nat → W32) (row : List Nat) : List Nat × Bool :=
  let fs := tcFmt vs
  let fd := tcFmt vd
  let xs := row.map fs.decode
  if tcWide vs && tcWide vd then (xs.map fd.encode, false)
  else
    let tag := if tcWide vs then tcTag vd else tcTag vs
    let n := tagBlock tag
    let bs := if tcWide vs then rotateRow (seed (tag % 8)) n xs else unrotateRow (seed (tag % 8)) n xs
    let put := fun (b : Option (List FVal)) =>
      match b with
      | none => List.replicate n fd.nanCode
      | some ys => ys.map (if tcWide vs then fd.saturate else fd.encode)
    (bs.flatMap put, bs.any Option.isNone)

/-- emax of R49. -/
def emax (f : Fmt) : Int :=
  match f with
  | .e4m3 => 8 | .e5m2 => 15 | .e3m2 => 4 | .s8 => 6 | _ => 2

/-- A rotated row as values with the NONFINITE elements marked `none`. -/
def flatRow (n : Nat) (bs : List (Option (List FVal))) : List (Option FVal) :=
  bs.flatMap fun b => match b with | none => List.replicate n none | some ys => ys.map some

/-- The larger of two logarithms. -/
def maxLog (a b : Option Int) : Option Int :=
  match a, b with
  | none, x => x
  | x, none => x
  | some x, some y => some (max x y)

/-- floor(log2) of the largest magnitude over granule `g` of panel `p` across all rows; a NONFINITE element counts as
the source format's largest (R48, R310). -/
def granuleLog (fs : Fmt) (ys : List (List (Option FVal))) (p g : Nat) : Option Int :=
  let top := (fs.decode fs.maxCode).log
  (ys.flatMap fun r => (r.drop (64 * p + 8 * g)).take 8).foldl
    (fun m x => maxLog m (match x with | none => top | some v => v.log)) none

/-- The boundary bits of each panel. -/
def boundaries (fs : Fmt) (thr np : Nat) (ys : List (List (Option FVal))) : List Nat :=
  (List.range np).map fun p => panelStarts thr ((List.range 8).map fun g => granuleLog fs ys p g)

/-- The granules where the blocks of a panel start. -/
def starts (bm : Nat) : List Nat := bitList 8 bm

/-- One row-block: its scale code and element codes (R49). -/
def scaleBlock (fd : Fmt) (xs : List (Option FVal)) : Nat × List Nat :=
  if xs.any Option.isNone then (255, xs.map fun _ => fd.nanCode)
  else
    let vs := xs.filterMap id
    match vs.foldl (fun m v => maxLog m v.log) none with
    | none => (0, vs.map fun _ => 0)
    | some l =>
      let sc := max (-127) (min 127 (l - emax fd))
      ((sc + 127).toNat, vs.map fun v => fd.saturate (v.scale (-sc)))

/-- The row-blocks of panel `p` of a row. -/
def panelBlocks (fd : Fmt) (bm p : Nat) (row : List (Option FVal)) : List (Nat × List Nat) :=
  let st := starts bm
  st.zipIdx.map fun g =>
    let stop := st.getD (g.2 + 1) 8
    scaleBlock fd ((row.drop (64 * p + 8 * g.1)).take (8 * (stop - g.1)))

/-- QNT: the rows of TD, the bytes of its area, and whether a block was NONFINITE (R310, R311). -/
def quantize (vs vd : W32) (thr : Nat) (seed : W32) (rows : List (List Nat)) : List (List Nat) × List Byte × Bool :=
  let n := tagBlock (tcTag vd)
  let fs := tcFmt vs
  let fd := tcFmt vd
  let ys := rows.map fun r => flatRow n (rotateRow seed n (r.map fs.decode))
  let np := panels (tcCols vs)
  let bm := boundaries fs thr np ys
  let blocksOf := fun (r : List (Option FVal)) => bm.zipIdx.map fun b => panelBlocks fd b.1 b.2 r
  let all := ys.map blocksOf
  let scale := fun (p o i : Nat) => (((all.getD i []).getD p []).getD o (127, [])).1
  let head := (List.range 128).map fun b => BitVec.ofNat 8 (if b < np then bm.getD b 0 else 0)
  let body := (List.range (8 * np)).flatMap fun v =>
    (List.range 128).map fun i => BitVec.ofNat 8 (if i < rows.length then scale (v / 8) (v % 8) i else 127)
  (all.map fun r => r.flatMap fun p => p.flatMap Prod.snd, head ++ body, ys.any fun r => r.any Option.isNone)

/-- One row of AMOV.IN as FP32 patterns, and whether it meets a NONFINITE block (R316). -/
def amovInRow (v : W32) (seed : Nat → W32) (row : List Nat) : List W32 × Bool :=
  let xs := row.map (tcFmt v).decode
  if bit (tcTag v) 4 then
    let n := tagBlock (tcTag v)
    let bs := unrotateRow (seed (tcTag v % 8)) n xs
    (bs.flatMap fun b =>
      match b with
      | none => List.replicate n 0x7FC00000
      | some zs => zs.map toF32, bs.any Option.isNone)
  else (xs.map toF32, false)

/-- TCHK's counts (R309). -/
def tileCounts (v : W32) (rows : List (List Nat)) : W32 :=
  let f := tcFmt v
  let cs := rows.flatMap id
  let isMax := fun (c : Nat) =>
    match f with
    | .s8 => c == 0x7F || c == 0x80
    | .s4 => c == 7 || c == 8
    | .e8m0 => c == 0xFE
    | f => c % 2 ^ (f.width - 1) == f.maxCode
  let isInf := fun (c : Nat) => match f.decode c with | .inf _ => true | _ => false
  BitVec.ofNat 32 (pack [(22, min (cs.countP fun c => (f.decode c).isNan) 1023), (12, min (cs.countP isInf) 1023),
    (0, min (cs.countP isMax) 4095)])

/-! ### Products and their check (R289, R290, R295, R296) -/

/-- Rows and region of a sub-array: A's tile and first row, B's, the accumulator, its first row and column (R290). -/
def subArray (fuse ta tb acc i : Nat) : (Nat × Nat) × (Nat × Nat) × Nat × Nat × Nat :=
  match fuse with
  | 0 => ((ta + i, 0), (tb + i, 0), acc + i, 0, 0)
  | 1 => ((ta, 0), (tb, 32 * i), acc, 0, 32 * i)
  | 2 => ((ta, 32 * (i / 2)), (tb, 32 * (i % 2)), acc, 32 * (i / 2), 32 * (i % 2))
  | _ => ((ta, 32 * i), (tb, 0), acc, 32 * i, 0)

/-- The operand of a sub-array: 32 rows of decoded values over the K range. -/
def operand (f : Fmt) (v : W32) (m : Store Byte) (r off len : Nat) : List (List FVal) :=
  (List.range 32).map fun i => (((tileRow f (tcCols v) m (r + i)).drop off).take len).map f.decode

/-- An exact sum of values (R35). -/
def sumVals : List FVal → FVal
  | [] => FVal.zero
  | v :: vs => vs.foldl FVal.add v

def dot (a b : List FVal) : FVal := sumVals (List.zipWith FVal.mul a b)

/-- The group sums of R34. -/
def groupSums (a b : List FVal) : List FVal :=
  (List.range (a.length / 4)).map fun g => dot ((a.drop (4 * g)).take 4) ((b.drop (4 * g)).take 4)

/-- P[i][j] (R33, R34, R295). -/
def product (nbv : Nat) (a b : List FVal) : FVal := if nbv == 1 then Fmt.f32.round (dot a b) else sumVals (groupSums a b)

/-- P[i][j] as VM formed it in pass `n`: the product and an error, an unstated multiple of a quantum below every value
of the format (R295; log 7). -/
def formed (nbv n i j : Nat) (p : FVal) : FVal :=
  if Config.vmError n i j = 0 then p
  else if nbv == 1 then Fmt.f32.round (p.add (FVal.ofInt (Config.vmError n i j) (-149)))
  else p.add (FVal.ofInt (Config.vmError n i j) (-300))

/-- Rows in Rm and columns in Cm of pass `n` (R295); `q` none for the exact integer formats. -/
def mismatches (nbv n : Nat) (q : Option Nat) (a b : List (List FVal)) : List Nat × List Nat :=
  let ps := a.zipIdx.map fun x => b.zipIdx.map fun y => formed nbv n x.2 y.2 (product nbv x.1 y.1)
  let column := fun (m : List (List FVal)) (k : Nat) => sumVals (m.map fun r => r.getD k FVal.zero)
  let len := (a.headD []).length
  let sumB := (List.range len).map (column b)
  let sumA := (List.range len).map (column a)
  let magB := (List.range len).map (column (b.map fun r => r.map FVal.abs))
  let magA := (List.range len).map (column (a.map fun r => r.map FVal.abs))
  let off := fun (want got mag : FVal) =>
    let tol := match q with | none => FVal.zero | some q => mag.scale (-(q : Int))
    tol.lt (want.add got.neg).abs
  let rm := (List.range 32).filter fun i =>
    let r := a.getD i []
    off (dot r sumB) (sumVals (ps.getD i [])) (dot (r.map FVal.abs) magB)
  let cm := (List.range 32).filter fun j =>
    let r := b.getD j []
    off (dot sumA r) (column ps j) (dot magA (r.map FVal.abs))
  (rm, cm)

/-- A mismatch that R296 locates. -/
def located (m : List Nat × List Nat) : Bool :=
  (m.1.length == 1 && m.2 != []) || (m.2.length == 1 && m.1 != [])

/-- The elements a located mismatch corrects. -/
def corrected (m : List Nat × List Nat) : List (Nat × Nat) :=
  m.1.flatMap fun i => m.2.map fun j => (i, j)

/-- What a tile product counts (R300, R301). -/
structure Tally where
  chk : Nat
  corr : Nat
  retry : Nat
  escal : Nat
  uncorr : Nat
  ccnt : Nat
  grd : Bool
  deriving DecidableEq, Repr

/-- How a tile product ends: as pass `n` formed it, but for the corrected elements; `whole`: every element by one
addition (R34); guarded: as it should be; or CHECK_HARD with its sub-code, passes, |Rm| and |Cm|. -/
inductive Resolved where
  | enters (n : Nat) (fixed : List (Nat × Nat)) (whole : Bool)
  | guarded
  | hard (sub : Byte) (passes rm cm : Nat)
  deriving DecidableEq, Repr

/-- The first of `left` re-issues from pass `k` on that shows no mismatch or a located one. -/
def firstGood (check : Nat → List Nat × List Nat) (k : Nat) : (left : Nat) → Option Nat
  | 0 => none
  | n + 1 => let m := check k; if m == ([], []) || located m then some k else firstGood check (k + 1) n

/-- A pass whose mismatch is none or located enters with its corrections. -/
def passEnters (check : Nat → List Nat × List Nat) (n0 k : Nat) : Resolved × Nat :=
  let m := check k
  if m == ([], []) then (.enters (n0 + k) [] false, 0) else (.enters (n0 + k) (corrected m) false, 1)

/-- The resolution of a product formed on VM (R297): `check k` gives the mismatch of pass k, 0 the first one. -/
def resolve (check : Nat → List Nat × List Nat) (n0 mode retry : Nat) : Resolved × Tally :=
  let t : Tally := ⟨1, 0, 0, 0, 0, 0, false⟩
  let m := check 0
  if m == ([], []) then (.enters n0 [] false, t)
  else if mode == 0 then
    let m := check 1
    let t := { t with retry := 1, ccnt := 1 }
    if m == ([], []) then (.enters (n0 + 1) [] false, t) else (.hard 2 2 m.1.length m.2.length, t)
  else if located m then (.enters n0 (corrected m) false, { t with corr := 1, ccnt := 1 })
  else if mode == 2 then (.enters n0 [] true, { t with uncorr := 1 })
  else
    match firstGood check 1 retry with
    | some k =>
      let (r, c) := passEnters check n0 k
      (r, { t with retry := k, corr := c, ccnt := 1 })
    | none =>
      let k := retry + 1
      let m := check k
      let t := { t with retry := retry, escal := 1, ccnt := 1 }
      if m == ([], []) || located m then
        let (r, c) := passEnters check n0 k
        (r, { t with corr := c })
      else (.hard 1 (k + 1) m.1.length m.2.length, t)

/-- One guarded FP32 addition. -/
def accAdd (c : W32) (v : FVal) : W32 := toF32 ((f32 c).add v)

/-- A correct product enters its element (R33, R34). -/
def accProduct (nbv : Nat) (a b : List FVal) (c : W32) : W32 :=
  if nbv == 1 then accAdd c (product 1 a b) else (groupSums a b).foldl accAdd c

/-- An element as its product's resolution leaves it. -/
def accEnter (nbv : Nat) (r : Resolved) (a b : List FVal) (i j : Nat) (c : W32) : W32 :=
  match r with
  | .guarded => accProduct nbv a b c
  | .hard _ _ _ _ => c
  | .enters n fixed whole =>
    if !whole && (fixed.contains (i, j) || Config.vmError n i j = 0) then accProduct nbv a b c
    else accAdd c (formed nbv n i j (product nbv a b))

/-! ### Slipface (R323, R324) -/

/-- One update with c = `m`. -/
def Core.slipUpdate (c : Core) (floor num den m : Nat) : Core :=
  if c.slip == .pinned || c.slip == .escalated then c
  else
    let d : Int := c.debt + (den : Int) * m - num
    let c := if d ≤ -(den : Int) then
        { c with trim := if c.slip == .track && floor + 5 ≤ c.trim then c.trim - 5 else c.trim, debt := 0 }
      else if (den : Int) ≤ d then { c with trim := min (c.trim + 5) 700, debt := 0 }
      else { c with debt := d }
    if c.slip == .hold then
      if c.holdn ≤ 1 then { c with holdn := 0, slip := .track } else { c with holdn := c.holdn - 1 }
    else c

/-- A safe-point pass from its ramp to its end. -/
def Core.escalate (c : Core) : Core :=
  if c.slip == .pinned then c else { c with debt := 0, trim := min (c.trim + 20) 700, holdn := 32, slip := .hold }

/-! ### Counts (R300, R301) -/

def satByte (n : Nat) : Nat := min n 255

/-- CHKSTAT with counts added and bits set. -/
def chkAdd (v : W32) (ccnt ucnt : Nat) (set : Nat) : W32 :=
  let n := v.toNat
  BitVec.ofNat 32 (pack [(16, satByte (bits n 16 8 + ucnt)), (8, satByte (bits n 8 8 + ccnt)), (0, bits n 0 8 ||| set)])

def State.chkstat (s : State) (g w ccnt ucnt set : Nat) : State :=
  s.modGroup g fun gr => gr.modWarp w fun wp => { wp with chkstat := chkAdd wp.chkstat ccnt ucnt set }

/-- RNF is set where a block was NONFINITE (R40). -/
def State.rnf (s : State) (o : TileOp) (b : Bool) : State := if b then s.chkstat o.grp o.warp 0 0 1 else s

/-! ### Performing a tile operation -/

/-- The end of an operation: done, failed, waiting for a page, for the answers of peers, or for room at a port (R298, R304, R337,
R347). -/
inductive TileEnd where
  | done
  | failed (code sub : Byte) (addr : W64) (detail : Nat)
  | waits (base : W64) (size : Nat) (kind : Needs) (absent : Bool)
  | asks
  | blocked
  deriving DecidableEq, Repr

/-- An element of a transfer: its address, its place in the tile or accumulator. -/
abbrev Elem := W64 × Nat

/-- An element whose bytes are known. -/
structure Placed where
  at_ : Nat
  pas : List Nat
  vas : List Nat
  node : Nat
  deriving DecidableEq, Repr

/-- Translate the elements of a transfer in order; those before a stop are placed (R304). `cut` is the end after the last. -/
def State.placeElems (s : State) (ctx core : Nat) (needs : Needs) (es : Nat) (cut : TileEnd) :
    List Elem → State × List Placed × TileEnd
  | [] => (s, [], cut)
  | (va, k) :: l =>
    match s.mapAccess ctx core va.toNat es needs false with
    | (s, .fault c sub) => (s, [], .failed c sub va 0)
    | (s, .page b z a) => (s, [], .waits b z needs a)
    | (s, .ok pas vas node _) =>
      if needs == needsRead && node == 0 && s.damageAt pas != 0 then
        (s, [], .failed 0x42 (BitVec.ofNat 8 (s.damageAt pas)) va 0)
      else
        let (s, ps, r) := s.placeElems ctx core needs es cut l
        (s, ⟨k, pas, vas, node⟩ :: ps, r)

/-- The element lies in another package. -/
def Placed.onPeer (p : Placed) : Bool := p.node != 0 && !isHostNode p.node

/-- Read one placed element: at its home, from a host, whose answer has values the spec does not give (log 19), or from what
its peer has answered. -/
def State.readPlaced (s : State) (p : Placed) (got : Option (List Byte)) : State × Option (List Byte) :=
  if p.node == 0 then (s, some (s.bytesOf p.pas))
  else if isHostNode p.node then
    match s.sendReq .device p.node (p.pas.headD 0) p.pas.length none none none with
    | (s, n) => (s, some ((List.range p.pas.length).map fun k => Config.remoteByte (n.getD 0) k))
  else (s, got)

/-- The answer to a numbered request. -/
def answerOf (got : List (Nat × List Byte)) (part : Nat) : Option (List Byte) := (got.find? fun x => x.1 == part).map Prod.snd

/-- Read placed elements in order, as far as peers have answered; those on peers are numbered from `part`. -/
def State.readAll (s : State) (got : List (Nat × List Byte)) (part : Nat) :
    List Placed → State × List (Nat × List Byte) × Option Placed
  | [] => (s, [], none)
  | p :: ps =>
    match s.readPlaced p (answerOf got part) with
    | (s, none) => (s, [], some p)
    | (s, some bs) =>
      let (s, l, r) := State.readAll s got (if p.onPeer then part + 1 else part) ps
      (s, (p.at_, bs) :: l, r)

/-- The reads that the elements on peers ask for, under the translations of `via`. -/
def peerReads (via : Placed → Option Via) (ps : List Placed) : List (Nat × Nat × Nat × Option Via) :=
  (ps.filter Placed.onPeer).map fun p => (p.node, p.pas.headD 0, p.pas.length, via p)

/-- The translation of an element, as a request made now carries it (R268). -/
def State.viaPlaced (s : State) (ctx core : Nat) (needs : Needs) (p : Placed) : Option Via :=
  s.viaOf ctx core needs p.pas p.vas (p.pas.headD 0)

/-- A port that an element's request would take has no room (R337, R339). -/
def State.placedBlocked (s : State) (ps : List Placed) : Bool := ps.any fun p => p.onPeer && s.portBlocked p.node (p.pas.headD 0)

/-- Lines of a core that hold some placed bytes are dropped: a WAIT that finds the operation orders them (R241). -/
def State.dropPlaced (s : State) (core : Nat) (ps : List Placed) : State :=
  s.dropBytesL1 core ((ps.filter fun p => p.node == 0).flatMap Placed.pas)

/-- Write placed elements in order from the `n`-th, one on a peer when every earlier one is written: the end, and how many are
written or asked for. -/
def State.writeAll (s : State) (gr : Group) (whose : Nat → ReqFor) (bytes : Nat → List Byte) (r : TileEnd) (n : Nat) :
    List Placed → State × TileEnd × Nat
  | [] => (s, r, n)
  | p :: ps =>
    if p.node == 0 then
      State.writeAll (s.localWrite gr.ctx (some gr.kern) 1 p.pas p.vas (bytes p.at_)) gr whose bytes r (n + 1) ps
    else if s.portBlocked p.node (p.pas.headD 0) then (s, .blocked, n)
    else
      match s.sendReq (whose n) p.node (p.pas.headD 0) p.pas.length (some (leNat (bytes p.at_))) none
          (s.viaPlaced gr.ctx gr.core needsWrite p) with
      | (s, none) => (s, .failed 0x50 2 (BitVec.ofNat 64 (p.vas.headD 0)) 0, n)
      | (s, some _) =>
        if p.onPeer then (s, .asks, n + 1) else State.writeAll s gr whose bytes r (n + 1) ps

/-- The elements of TLD and TST (R308). -/
def tileElems (v : W32) (addr stride : W64) : List Elem :=
  let es := rawSize v
  (List.range (tcRows v)).flatMap fun i =>
    (List.range (tcCols v * (tcFmt v).width / 8 / es)).map fun k =>
      (addr + BitVec.ofNat 64 i * stride + BitVec.ofNat 64 (es * k), 256 * i + es * k)

/-- The elements of ALD and AST (R317). -/
def accElems (addr : W64) (cfg : W32) : List Elem :=
  let c := cfg.toNat
  (List.range (bits c 25 7 + 1)).flatMap fun i =>
    (List.range (bits c 18 7 + 1)).map fun j =>
      (addr + BitVec.ofNat 64 (i * bits c 0 18 + 4 * j), 128 * i + j)

/-- Bytes set at places of a store. -/
def putBytes (m : Store Byte) : List (Nat × List Byte) → Store Byte
  | [] => m
  | (k, bs) :: l => putBytes (m.setBytes k bs) l

/-- The bytes of a tile's own region as they stand. -/
def keepRegion (v : W32) (seed : Nat) (m : Store Byte) : Store Byte :=
  ⟨seed, (List.range (tcRows v)).flatMap fun i =>
    (List.range (tcCols v * (tcFmt v).width / 8)).map fun b => (256 * i + b, m.byte (256 * i + b))⟩

/-- One sub-array's product, resolved, with the pass numbers it may use. -/
structure Part where
  a : List (List FVal)
  b : List (List FVal)
  acc : Nat
  i0 : Nat
  j0 : Nat
  res : Resolved
  deriving DecidableEq, Repr

/-- q of R295. -/
def tolerance (fmt : Nat) : Option Nat := if fmt == 9 || fmt == 10 then none else if fmt ≤ 2 then some 16 else some 18

/-- A product with an element, a product or a value P that is not finite is formed on the guarded path (R296). -/
def special (nbv : Nat) (a b : List (List FVal)) : Bool := a.any fun x => b.any fun y => !(product nbv x y).isFin

/-- An MMA. -/
def TileKind.isMma : TileKind → Bool
  | .mma _ _ _ _ _ _ _ _ _ => true
  | _ => false

/-- An MMA that counts in a warp in EXACT mode makes no update (R323). -/
def TileKind.exact : TileKind → Bool
  | .mma _ _ _ _ _ _ _ mode _ => mode == 0
  | _ => false

/-- Slipface takes updates, in the order of their MMAs. -/
def Core.slipUpdates (c : Core) (floor : Nat) : List SlipDue → Core
  | [] => c
  | u :: us => Core.slipUpdates (c.slipUpdate floor u.num u.den u.c) floor us

/-- Slipface takes the updates that no MMA still in the queue precedes (R323). -/
def Core.slipTake (c : Core) (floor : Nat) : Core :=
  let ready := fun (u : SlipDue) => c.tileq.all fun o => u.op ≤ o.id || !o.kind.isMma || o.kind.exact
  let now := (c.slipDue.filter ready).mergeSort fun x y => x.op ≤ y.op
  ({ c with slipDue := c.slipDue.filter fun u => !ready u }).slipUpdates floor now

/-- The updates a core's Slipface may take. -/
def State.slipTake (s : State) (core : Nat) : State :=
  let c := s.core core
  if c.slipDue.isEmpty then s else s.setCore core (c.slipTake (Config.vmFloor (clusterOf core)))

/-- Form, check and resolve the product of one sub-array, with its counts and the Slipface update it asks for (R295 to R297,
R323, R326). -/
def State.formPart (s : State) (o : TileOp) (gr : Group) (fmt acc ta tb fuse off len mode retry i : Nat) : State × Part :=
  let ((at_, ra), (bt, rb), ac, i0, j0) := subArray fuse ta tb acc i
  let f := (Fmt.ofCode fmt).getD .e8m0
  let tc := fun (t : Nat) => Tbl.get 0 o.tcs t
  let a := operand f (tc at_) (gr.tile at_) ra off len
  let b := operand f (tc bt) (gr.tile bt) rb off len
  if special o.nbv a b then (s.chkstat o.grp o.warp 0 0 8, ⟨a, b, ac, i0, j0, .guarded⟩)
  else
    let n0 := s.fresh
    let s := { s with fresh := s.fresh + retry + 2 }
    let (res, t) := resolve (fun k => mismatches o.nbv (n0 + k) (tolerance fmt) a b) n0 mode retry
    let s := s.surges (clusterOf gr.core) t.retry
    let s := s.chkstat o.grp o.warp t.ccnt t.uncorr ((if t.escal != 0 then 4 else 0) + (if t.uncorr != 0 then 2 else 0))
    let d := dieOfCore gr.core
    let s := ((((s.count gr.ctx d 0 1).count gr.ctx d 8 t.corr).count gr.ctx d 0x10 t.retry).count gr.ctx d 0x18 t.escal).count
      gr.ctx d 0x28 t.uncorr
    let c := s.core gr.core
    let c := if t.escal != 0 then c.escalate else c
    let c := if mode == 0 then c
      else
        let (num, den) := ((s.ctx? gr.ctx).map fun x => (x.snum, x.sden)).getD (1, 1)
        { c with slipDue := c.slipDue ++ [⟨o.id, num, den, if t.ccnt + t.uncorr != 0 then 1 else 0⟩] }
    ((s.setCore gr.core c).slipTake gr.core, ⟨a, b, ac, i0, j0, res⟩)

/-- The four sub-arrays in order. -/
def State.formParts (s : State) (form : State → Nat → State × Part) : List Nat → State × List Part
  | [] => (s, [])
  | i :: l =>
    let (s, p) := form s i
    let (s, ps) := State.formParts s form l
    (s, p :: ps)

/-- A part's values enter its accumulator. -/
def Group.enterPart (g : Group) (nbv : Nat) (p : Part) : Group :=
  let m := g.acc p.acc
  g.setAcc p.acc (setElems m ((region 0 0 32 32).map fun x =>
    (p.i0 + x.1, p.j0 + x.2,
     accEnter nbv p.res (p.a.getD x.1 []) (p.b.getD x.2 []) x.1 x.2 (accWord m (p.i0 + x.1) (p.j0 + x.2)))))

def Group.enterParts (g : Group) (nbv : Nat) : List Part → Group
  | [] => g
  | p :: ps => Group.enterParts (g.enterPart nbv p) nbv ps

/-- CHECK_HARD of the first part that raises it: its accumulator, sub-code, passes and mismatch. -/
def firstHard : List Part → Option (Nat × Byte × Nat × Nat × Nat)
  | [] => none
  | p :: ps => match p.res with
    | .hard sub passes rm cm => some (p.acc, sub, passes, rm, cm)
    | _ => firstHard ps

/-- MMA performed (R295 to R298, R313). -/
def State.performMma (s : State) (o : TileOp) (gr : Group) (fmt acc ta tb fuse off len mode retry : Nat) :
    State × TileEnd :=
  let (s, ps) := s.formParts (fun s i => s.formPart o gr fmt acc ta tb fuse off len mode retry i) [0, 1, 2, 3]
  match firstHard ps with
  | some (a, sub, passes, rm, cm) =>
    (s.count gr.ctx (dieOfCore gr.core) 0x20 1, .failed 0x22 sub (BitVec.ofNat 64 (pack [(8, passes), (0, a)])) (pack [(8, rm), (0, cm)]))
  | none => (s.modGroup o.grp fun g => g.enterParts o.nbv ps, .done)

/-- SCACC's elements (R51). -/
def scaledAdd (sa sb : List Byte) (m p : Store W32) : Store W32 :=
  setElems m ((region 0 0 128 128).map fun x =>
    let a := (sa.getD x.1 0).toNat
    let b := (sb.getD x.2 0).toNat
    (x.1, x.2,
      if a == 255 || b == 255 then 0x7FC00000
      else accAdd (accWord m x.1 x.2) ((f32 (accWord p x.1 x.2)).scale ((a : Int) - 127 + ((b : Int) - 127)))))

/-- TCHK's value reaches every signer that has not exited (R309). -/
def State.tellSigners (s : State) (g : Nat) (d : BitVec 6) (v : W32) : List Nat → State
  | [] => s
  | t :: ts => State.tellSigners (s.modThread g t fun th => if th.live then th.setX d v else th) g d v ts

/-- Change one operation of a core's queue, or drop it. -/
def State.modTile (s : State) (core : Nat) (o : TileOp) (f : TileOp → Option TileOp) : State :=
  let c := s.core core
  s.setCore core { c with tileq := c.tileq.filterMap fun p => if p.id == o.id && p.grp == o.grp then f p else some p }

/-- Change an operation of a core's queue by its number: a peer has answered one of its requests. -/
def State.onTile (s : State) (core op : Nat) (f : TileOp → TileOp) : State :=
  let c := s.core core
  s.setCore core { c with tileq := c.tileq.map fun o => if o.id == op then f o else o }

/-- One of an operation's requests has failed: the first of them counts (R304). -/
def TileOp.fails (o : TileOp) (part : Nat) (code sub : Byte) : TileOp :=
  { o with failed := match o.failed with | some f => if f.1 ≤ part then some f else some (part, code, sub)
                                         | none => some (part, code, sub) }

/-- The elements read are known, or their peers are asked first; `put` enters what was read: the elements before the first that
failed (R304). -/
def State.fetchAll (s : State) (o : TileOp) (gr : Group) (ps : List Placed) (r : TileEnd)
    (put : State → List (Nat × List Byte) → State) : State × TileEnd :=
  if ps.any Placed.onPeer && !o.asked then
    if s.placedBlocked ps then (s, .blocked)
    else
      match s.sendReads (fun p => .tile gr.core o.id p) 0 (peerReads (s.viaPlaced gr.ctx gr.core needsRead) ps) with
      | (s, none) => (s, .asks)
      | (s, some part) => (s.onTile gr.core o.id fun o => o.fails part 0x50 2, .asks)
  else
    match s.readAll o.got 0 ps with
    | (s, bs, none) => (put (s.dropPlaced gr.core ps) bs, r)
    | (s, bs, some p) =>
      let (_, c, sub) := o.failed.getD (0, 0x50, 3)
      (put (s.dropPlaced gr.core ps) bs, .failed c sub (BitVec.ofNat 64 (p.vas.headD 0)) 0)

/-- The elements `es` of `n` bytes are written in order, as far as nothing has failed; one on a peer is acknowledged before the
next is written, which keeps its old value where that fails (R304, R345). -/
def State.storeAll (s : State) (o : TileOp) (gr : Group) (es : List Elem) (n : Nat) (cut : TileEnd)
    (bytes : Nat → List Byte) : State × TileEnd :=
  match o.failed with
  | some (part, c, sub) => (s, .failed c sub ((es[part]?).map Prod.fst |>.getD 0) 0)
  | none =>
    match s.placeElems gr.ctx gr.core needsWrite n cut (es.drop o.wrote) with
    | (s, _, .waits b z k a) => (s, .waits b z k a)
    | (s, ps, r) =>
      let (s, e, k) := s.writeAll gr (fun p => .tile gr.core o.id p) bytes r o.wrote ps
      ((s.dropPlaced gr.core ps).onTile gr.core o.id fun o => { o with wrote := k }, e)

/-- The elements of a transfer that meets damage at the `at_`-th, and its end (R205, R304). -/
def hurtElems (damage : Byte) (at_ : Nat) (es : List Elem) : List Elem × TileEnd :=
  if damage = 0 then (es, .done) else (es.take at_, .failed 0x42 damage ((es[at_]?).map Prod.fst |>.getD 0) 0)

/-- What an operation does when it is performed. A transfer that meets damage stops at its element `at_`; of another operation
that meets it nothing is written (R205). -/
def State.performTile (s : State) (o : TileOp) (gr : Group) (damage : Byte) (at_ : Nat) : State × TileEnd :=
  let tc := fun (t : Nat) => Tbl.get 0 o.tcs t
  let seed := fun (n : Nat) => Tbl.get 0 o.seeds n
  match o.kind with
  | .tld t addr stride =>
    let v := tc t
    let (es, cut) := hurtElems damage at_ (tileElems v addr stride)
    match s.placeElems gr.ctx gr.core needsRead (rawSize v) cut es with
    | (s, _, .waits b z k a) => (s, .waits b z k a)
    | (s, ps, r) =>
      s.fetchAll o gr ps r fun s bs =>
        let (n, s) := s.free
        s.modGroup o.grp fun g => g.setTile t (putBytes (keepRegion v n (gr.tile t)) bs)
  | .tst t addr stride =>
    let v := tc t
    let (es, cut) := hurtElems damage at_ (tileElems v addr stride)
    s.storeAll o gr es (rawSize v) cut fun k => (gr.tile t).bytes k (rawSize v)
  | .tzero t =>
    let v := tc t
    let (n, s) := s.free
    (s.modGroup o.grp fun g =>
      g.setTile t (tileOf n (tcFmt v) (List.replicate (tcRows v) (List.replicate (tcCols v) 0))), .done)
  | .qnt d src thr off =>
    let (rows, area, rnf) := quantize (tc src) (tc d) thr (seed (tcTag (tc d) % 8)) (tileRows (tc src) (gr.tile src))
    let (n, s) := s.free
    ((s.modGroup o.grp fun g =>
      { g.setTile d (tileOf n (tcFmt (tc d)) rows) with scratch := g.scratch.setBytes off area }).rnf o rnf, .done)
  | .tcvt d src =>
    let rows := (tileRows (tc src) (gr.tile src)).map (tcvtRow (tc src) (tc d) seed)
    let (n, s) := s.free
    ((s.modGroup o.grp fun g => g.setTile d (tileOf n (tcFmt (tc d)) (rows.map Prod.fst))).rnf o (rows.any Prod.snd), .done)
  | .mma fmt acc ta tb fuse off len mode retry => s.performMma o gr fmt acc ta tb fuse off len mode retry
  | .scacc ad ap sa sb =>
    (s.modGroup o.grp fun g => g.setAcc ad (scaledAdd sa sb (gr.acc ad) (gr.acc ap)), .done)
  | .aclr a =>
    (s.modGroup o.grp fun g => g.setAcc a (setElems (gr.acc a) ((region 0 0 128 128).map fun x => (x.1, x.2, 0))), .done)
  | .amovIn a t =>
    let v := tc t
    let rows := (tileRows v (gr.tile t)).map (amovInRow v seed)
    let cells := rows.zipIdx.flatMap fun r => (r.1.1.take 128).zipIdx.map fun x => (r.2, x.2, x.1)
    ((s.modGroup o.grp fun g => g.setAcc a (setElems (gr.acc a) cells)).rnf o (rows.any Prod.snd), .done)
  | .amovOut a t =>
    let v := tc t
    let f := tcFmt v
    let put := fun (r : List Nat × Nat) => r.1.zipIdx.map fun c =>
      if c.2 < 128 then
        let x := accWord (gr.acc a) r.2 c.2
        if f == .f32 then x.toNat else f.encode (f32 x)
      else c.1
    let (n, s) := s.free
    (s.modGroup o.grp fun g => g.setTile t (tileOf n f ((tileRows v (gr.tile t)).zipIdx.map put)), .done)
  | .ald a addr cfg =>
    let (es, cut) := hurtElems damage at_ (accElems addr cfg)
    match s.placeElems gr.ctx gr.core needsRead 4 cut es with
    | (s, _, .waits b z k p) => (s, .waits b z k p)
    | (s, ps, r) =>
      s.fetchAll o gr ps r fun s bs => s.modGroup o.grp fun g =>
        g.setAcc a (bs.foldl (fun m (x : Nat × List Byte) => m.setWord x.1 (BitVec.ofNat 32 (leNat x.2))) (gr.acc a))
  | .ast a addr cfg =>
    let (es, cut) := hurtElems damage at_ (accElems addr cfg)
    s.storeAll o gr es 4 cut fun k => leBytes 4 ((gr.acc a).word k).toNat
  | .tchk d t signers =>
    (s.tellSigners o.grp (BitVec.ofNat 6 d) (tileCounts (tc t) (tileRows (tc t) (gr.tile t))) signers, .done)

/-- The tile registers (n) and accumulators (16 + n) an operation reads and writes (R291). -/
def TileKind.reads : TileKind → List Nat
  | .tst t _ _ => [t]
  | .qnt _ s _ _ => [s]
  | .tcvt _ s => [s]
  | .mma _ _ ta tb f _ _ _ _ => if f == 0 then (span ta 4) ++ (span tb 4) else [ta, tb]
  | .scacc _ ap _ _ => [16 + ap]
  | .amovIn _ t => [t]
  | .amovOut a _ => [16 + a]
  | .ast a _ _ => [16 + a]
  | .tchk _ t _ => [t]
  | _ => []
def TileKind.writes : TileKind → List Nat
  | .tld t _ _ => [t]
  | .tzero t => [t]
  | .qnt d _ _ _ => [d]
  | .tcvt d _ => [d]
  | .mma _ acc _ _ f _ _ _ _ => if f == 0 then span (16 + acc) 4 else [16 + acc]
  | .scacc ad _ _ _ => [16 + ad]
  | .aclr a => [16 + a]
  | .amovIn a _ => [16 + a]
  | .amovOut _ t => [t]
  | .ald a _ _ => [16 + a]
  | _ => []

/-- A later operation waits for an earlier one of the group (R291). -/
def TileOp.blocks (a b : TileOp) : Bool :=
  a.grp == b.grp &&
    (a.kind.writes.any (fun r => b.kind.reads.contains r || b.kind.writes.contains r)
      || a.kind.reads.any b.kind.writes.contains)

/-- An operation of a core that may be performed now: no earlier one blocks it, no page is away, no peer's answer is
outstanding, and an MMA does not meet the ramp to the safe point (R297). -/
def State.tileReady (s : State) (core : Nat) (o : TileOp) : Bool :=
  let c := s.core core
  !((c.tileq.takeWhile fun p => p.id != o.id || p.grp != o.grp).any fun p => p.blocks o) && o.paged.isNone
    && !(o.kind.isMma && s.time < c.ramp)
    && !s.reqs.any fun r => match r.whose with | .tile n i _ => n == core && i == o.id | _ => false

/-- It transfers elements between memory and a register (R304). -/
def TileKind.transfers : TileKind → Bool
  | .tld _ _ _ => true
  | .tst _ _ _ => true
  | .ald _ _ _ => true
  | .ast _ _ _ => true
  | _ => false

/-- A tile operation leaves the queue and is performed, fails, or waits for its page (R298, R302, R304). What it meets is an input
(R204, R205, R301; DESIGN CHOICE, log 26). -/
def execTileOpPerformed (core : Fin 1024) (op : Ending) (s : State) : Host.Outcome State Fault Refusal :=
  .next (match (s.core core).tileq.find? fun o => o.id == op.id with
    | none => s
    | some o =>
      if !s.tileReady core o then s
      else
        match s.group? o.grp with
        | none => s.modTile core o fun _ => none
        | some gr =>
          let fin := fun (s : State) => (((s.modTile core o fun _ => none).slipTake core).retireOps o.grp).progress o.grp
          let corrected := op.damage.getLsbD 7
          let s := if corrected then s.count gr.ctx (dieOfCore core) 0x30 1 else s
          let damage := if corrected then 0 else op.damage
          match if damage ≠ 0 && !o.kind.transfers then (s, TileEnd.failed 0x42 damage 0 0)
            else s.performTile o gr damage op.place with
          | (s, .done) => fin s
          | (s, .blocked) => s
          | (s, .failed c sub addr detail) =>
            fin (s.failItem o.grp o.tid o.pc addr (item 0 o.pc.toNat) c sub detail o.id (some (3, o.id)))
          | (s, .waits base size kind absent) =>
            let s := if absent then s.request gr.ctx base size kind else s
            s.modTile core o fun p => some { p with paged := some base }
          | (s, .asks) => s.modTile core o fun p => some { p with asked := true })

end Sys2Proof.Machine
end

