-- ==== Sys2Proof/Machine/Engine.lean ====
section
/-! DEFINITION. The copy engines: batches (R238, R250), command blocks and their checks (R251 to R253, R258, R344 to R346),
conversion and CHAIN (R254, R256), running a command (R255, R259 to R262, R347); ENQ and EVT (R100, R110). -/

namespace Sys2Proof.Machine

/-! ### The command block (R252) -/

/-- A command block's 64-bit words. -/
abbrev Block := List W64

def Block.w (b : Block) (i : Nat) : Nat := (b.getD i 0).toNat
def Block.src (b : Block) : Nat := b.w 0
def Block.dst (b : Block) : Nat := b.w 1
def Block.rows (b : Block) : Nat := bits (b.w 2) 32 16 + 1
def Block.cols (b : Block) : Nat := bits (b.w 2) 0 24 + 1
def Block.sstr (b : Block) : Int := toSigned 32 (bits (b.w 3) 32 32)
def Block.dstr (b : Block) : Int := toSigned 32 (bits (b.w 3) 0 32)
def Block.ord (b : Block) : Bool := bit (b.w 4) 31
def Block.tag (b : Block) : Nat := bits (b.w 4) 24 5
def Block.dcode (b : Block) : Nat := bits (b.w 4) 16 4
def Block.scode (b : Block) : Nat := bits (b.w 4) 12 4
def Block.conv (b : Block) : Bool := bit (b.w 4) 11
def Block.dsp (b : Block) : Nat := bits (b.w 4) 4 4
def Block.ssp (b : Block) : Nat := bits (b.w 4) 0 4
def Block.dfmt (b : Block) : Fmt := (Fmt.ofCode b.dcode).getD .e8m0
def Block.sfmt (b : Block) : Fmt := (Fmt.ofCode b.scode).getD .e8m0
/-- Slot `k` of CHAIN: OP, SEL, reserved bits. -/
def Block.slot (b : Block) (k : Nat) : Nat := bits (b.w (5 + k / 4)) (16 * (k % 4)) 16
def slotOp (s : Nat) : Nat := bits s 11 5
def slotSel (s : Nat) : Nat := bits s 8 3
def Block.k0 (b : Block) : W32 := BitVec.ofNat 32 (bits (b.w 7) 0 32)
def Block.k1 (b : Block) : W32 := BitVec.ofNat 32 (bits (b.w 7) 32 32)

/-- Element size of a space's access (R253). -/
def elemSize (code : Nat) : Nat := match code with | 0 => 4 | 1 => 2 | 2 => 2 | _ => 1

def Block.srcBytes (b : Block) : Nat := b.cols * b.sfmt.width / 8
def Block.dstBytes (b : Block) : Nat := b.cols * b.dfmt.width / 8

/-- The command of ATOM.R: OP, its width, RV and RET (R346). -/
def Block.aop (b : Block) : BitVec 4 := BitVec.ofNat 4 (bits (b.w 5) 0 4)
def Block.rv (b : Block) : Bool := bit (b.w 6) 63
def Block.ret (b : Block) : Nat := bits (b.w 6) 0 32
def Block.aopBytes (b : Block) : Nat := atomBytes b.aop * (if isCas b.aop then 2 else 1)

/-- Row addresses modulo 2^64: `idx` the row's index for the side a list chooses (R253, R255). -/
def rowAt (base : Nat) (stride : Int) (i : Nat) : Nat := wrap64 ((base : Int) + stride * i)

/-! ### Validity (R258) -/

/-- Reserved fields that every command has. -/
def Block.reservedClear (b : Block) : Bool :=
  bits (b.w 2) 48 16 == 0 && bits (b.w 2) 24 8 == 0 && bits (b.w 4) 32 32 == 0 && bits (b.w 4) 29 2 == 0
    && bits (b.w 4) 20 4 == 0 && bits (b.w 4) 8 3 == 0

/-- A remote address: a node and no reserved bit (R344). -/
def remoteNode (a : Nat) : Nat := bits a 55 9
def remotePa (a : Nat) : Nat := bits a 0 52
def remoteOk (a : Nat) : Bool := bits a 52 3 == 0 && 1 ≤ remoteNode a && remoteNode a ≤ 288

/-- The spaces a command's kind allows; a packet's are global (R253, R262, R345, R346). -/
def Block.spacesOk (b : Block) (k : CmdKind) (packet : Bool) : Bool :=
  match k with
  | .copyR => (b.ssp == 3 && b.dsp ≤ 2 && remoteOk b.src) || (b.dsp == 3 && b.ssp ≤ 2 && remoteOk b.dst)
  | .atomR => b.ssp == 1 && b.dsp == 3 && remoteOk b.dst
  | _ => if packet then b.ssp == 0 && b.dsp == 0 else b.ssp ≤ 2 && b.dsp ≤ 2

/-- A conversion from a wide or narrow source into `d` under `tag` (R254). -/
def convOk (srcNarrow : Bool) (d tag : Nat) : Bool :=
  if d ≤ 2 then tag == 0 else !srcNarrow && d != 11 && 16 ≤ tag

/-- Formats, conversion and tag (R254, R256, R346); CHAIN converts from F32. -/
def Block.formatsOk (b : Block) (k : CmdKind) : Bool :=
  match k with
  | .atomR => bits (b.w 2) 0 24 == 0 && b.scode == 0 && b.dcode == 0 && !b.conv && b.tag == 0
  | .chain => b.conv && b.scode < 12 && b.dcode < 12 && convOk false b.dcode b.tag
  | _ => b.scode < 12 && b.dcode < 12 &&
      (if b.conv then convOk (2 < b.scode) b.dcode b.tag else b.scode == b.dcode && b.tag == 0)

/-- OPs of CHAIN that take no operand (R256). -/
def opAlone (o : Nat) : Bool := (10 ≤ o && o ≤ 24) || o == 31

/-- The rest of the block: CHAIN's slots and constants, ATOM.R's words, else reserved. -/
def Block.restOk (b : Block) (k : CmdKind) : Bool :=
  match k with
  | .chain => (List.range 8).all fun i =>
      let s := b.slot i
      bits s 0 8 == 0 && slotSel s ≤ 2 && (!opAlone (slotOp s) || slotSel s == 0)
  | .atomR => bits (b.w 5) 4 60 == 0 && bits (b.w 6) 32 31 == 0 && b.w 7 == 0
  | _ => b.w 5 == 0 && b.w 6 == 0 && b.w 7 == 0

/-- A row of a packed format is a whole number of groups, and of rotation blocks (R44, R253). -/
def wholeRow (cols : Nat) (f : Fmt) : Bool := (f.width != 6 || cols % 4 == 0) && (f.width != 4 || cols % 2 == 0)
def Block.rowsWhole (b : Block) : Bool :=
  wholeRow b.cols b.sfmt && wholeRow b.cols b.dfmt && (b.tag == 0 || b.cols % tagBlock b.tag == 0)

/-- SRC, DST and strides are multiples of their element sizes, ATOM.R's targets of the OP's width. -/
def Block.aligned (b : Block) (k : CmdKind) : Bool :=
  let es := elemSize b.scode
  let ed := elemSize b.dcode
  b.src % es == 0 && b.sstr % es == 0 && b.dst % ed == 0 && b.dstr % ed == 0
    && (k != .atomR || (List.range b.rows).all fun r => rowAt b.dst b.dstr r % atomBytes b.aop == 0)

/-- An index of a GATHER's or SCATTER's list as scratch holds it now. -/
def idxAt (m : Store Byte) (list r : Nat) : Nat := m.readN (list + 4 * r) 4

/-- The index of row `r` on the source and on the destination side (R255). -/
def sideIdx (k : CmdKind) (m : Store Byte) (list r : Nat) : Nat × Nat :=
  (if k == .gather then idxAt m list r else r, if k == .scatter then idxAt m list r else r)

/-- The scratch ranges a command names, as starts and lengths. -/
def Block.scratchRanges (b : Block) (k : CmdKind) (m : Store Byte) (list : Nat) : List (Nat × Nat) :=
  let rows := List.range b.rows
  let sb := if k == .atomR then b.aopBytes else b.srcBytes
  (if b.ssp == 1 then rows.map fun r => (rowAt b.src b.sstr (sideIdx k m list r).1, sb) else [])
    ++ (if b.dsp == 1 then rows.map fun r => (rowAt b.dst b.dstr (sideIdx k m list r).2, b.dstBytes) else [])
    ++ (if k == .gather || k == .scatter then [(list, 4 * b.rows)] else [])
    ++ (if k == .atomR && b.rv then [(b.ret, atomBytes b.aop * b.rows)] else [])

def meetsWindow (ws : List Window) (r : Nat × Nat) : Bool := ws.any fun w => w.s < r.1 + r.2 && r.1 < w.s + w.len

/-- The first case of R258 that holds, of those on the block as read; `size` is the group's scratch in bytes. -/
def blockCheck (b : Block) (k : CmdKind) (packet : Bool) (m : Store Byte) (ws : List Window) (size list : Nat) :
    Option (Byte × Byte) :=
  if k == .atomR && b.rv && size < b.ret + atomBytes b.aop * b.rows then some (0x12, 0x10)
  else if !b.reservedClear || !b.spacesOk k packet || !b.formatsOk k || !b.restOk k then some (0x01, 0x19)
  else if ws != [] && (b.scratchRanges k m list).any (meetsWindow ws) then some (0x01, 0x19)
  else if !b.rowsWhole then some (0x01, 0x1A)
  else if !b.aligned k || list % 4 != 0 then some (0x06, 7)
  else none

/-! ### Batches (R238, R250) -/

/-- The next batch number after `n`: modulo 2^52, skipping 0. -/
def nextBatch (n : Nat) : Nat := if (n + 1) % 2 ^ 52 == 0 then 1 else (n + 1) % 2 ^ 52

/-- A batch has commands that have not ended. -/
def State.batchRuns (s : State) (b : Batch) : Bool := s.cmds.any fun c => c.ctx == b.ctx && c.batch == b.no && c.st != .done

/-- A closed batch with no command left is performed (R250). -/
def State.settleBatch (s : State) (ctx no : Nat) : State :=
  match s.batches.find? fun (b : Batch) => b.ctx == ctx && b.no == no with
  | none => s
  | some b =>
    if !b.closed || s.batchRuns b then s
    else
      let s := { s with
        batches := s.batches.filter fun x => !(x.ctx == ctx && x.no == no)
        cmds := s.cmds.filter fun c => !(c.ctx == ctx && c.batch == no) }
      match b.grp with
      | some (g, _) => (s.retireOps g).progress g
      | none => s

/-- Close the open batch of a warp; it then counts in C (R238). -/
def State.closeBatch (s : State) (g w : Nat) : State :=
  match s.group? g with
  | none => s
  | some gr =>
    match (Tbl.find? gr.warps w).bind Warp.batch with
    | none => s
    | some no =>
      let s := s.modGroup g fun gr => gr.modWarp w fun wp => { wp with batch := none, cq := wp.cq ++ [no] }
      let s := { s with batches := s.batches.map fun (b : Batch) =>
        if b.ctx == gr.ctx && b.no == no then { b with closed := true } else b }
      s.settleBatch gr.ctx no

/-- Closing the open batch would take C beyond 63 (R236). -/
def Warp.cannotClose (w : Warp) : Bool := w.batch.isSome && 63 ≤ w.cq.length

/-- Add a command to the open batch of a group's warp, opening one if there is none; the 256th closes it (R250). -/
def State.addCmd (s : State) (e : Env) (pc : W64) (k : CmdKind) (b : Block) (list : Nat) : State :=
  let cl := clusterOf e.gr.core
  let (no, s) := match e.warp.batch with
    | some no => (no, s)
    | none =>
      let no := ((s.ctx? e.gr.ctx).map Ctx.batchNext).getD 1
      let s := s.modCtx e.gr.ctx fun c => { c with batchNext := nextBatch no }
      let s := { s with batches := s.batches ++ [Batch.mk no e.gr.ctx (some (e.g, warpOf e.tid)) none cl 0 false] }
      (no, s.modGroup e.g fun gr => gr.modWarp (warpOf e.tid) fun w => { w with batch := some no })
  let idx := ((s.batches.find? fun (x : Batch) => x.ctx == e.gr.ctx && x.no == no).map Batch.next).getD 0
  let s := { s with
    cmds := s.cmds ++ [Cmd.mk e.op no idx e.gr.ctx cl (some (e.g, e.tid)) (warpOf e.tid) pc k b list (e.gr.seed b.tag)
      .waiting none [] false]
    batches := s.batches.map fun (x : Batch) => if x.ctx == e.gr.ctx && x.no == no then { x with next := idx + 1 } else x }
  if idx == 255 then s.closeBatch e.g (warpOf e.tid) else s

/-- The open batch is full but for one command, and C stands at 63. -/
def State.lastStalls (s : State) (e : Env) : Bool :=
  match e.warp.batch with
  | none => false
  | some no => 63 ≤ e.warp.cq.length && s.batches.any fun b => b.ctx == e.gr.ctx && b.no == no && b.next == 255

/-- An engine word issues: its block is read from scratch and checked, and its command joins the batch (R251, R258). -/
def issueCmd (k : CmdKind) (x : BitVec 6) (y : Option (BitVec 6)) (e : Env) (pc : W64) (s : State) : State × Issued :=
  let off := (e.t.getX x).toNat
  let list := (y.map fun r => (e.t.getX r).toNat).getD 0
  let size := 256 * e.k.scru
  if off % 64 != 0 then (s, .fault 0x06 6 (BitVec.ofNat 64 off))
  else if outsideScratch e off 64 then (s, .fault 0x12 0x10 (BitVec.ofNat 64 off))
  else if y.isSome && size ≤ list then (s, .fault 0x12 0x10 (BitVec.ofNat 64 list))
  else
    let b : Block := (List.range 8).map fun i => BitVec.ofNat 64 (e.gr.scratch.readN (off + 8 * i) 8)
    match blockCheck b k false e.gr.scratch e.gr.windows size list with
    | some (c, sub) => (s, .fault c sub (BitVec.ofNat 64 off))
    | none => if s.lastStalls e then (s, .stall) else (s.addCmd e pc k b list, .done)

/-- COMMIT closes the warp's open batch (R257). -/
def issueCommit (e : Env) (_pc : W64) (s : State) : State × Issued :=
  if e.warp.cannotClose then (s, .stall) else (s.closeBatch e.g (warpOf e.tid), .done)

/-! ### Conversion and CHAIN (R254, R256) -/

/-- The codes of a row of packed elements, and back (R16). -/
def unpackRow (f : Fmt) (n : Nat) (bs : List Byte) : List Nat :=
  let v := leNat bs
  (List.range n).map fun j => bits v (f.width * j) f.width

/-- A row of values into DFMT under TAG; true where a block was NONFINITE (R254). -/
def convertRow (d : Fmt) (tag : Nat) (seed : W32) (xs : List FVal) : List Nat × Bool :=
  if tag == 0 then (xs.map d.encode, false)
  else
    let n := tagBlock tag
    let bs := rotateRow seed n xs
    (bs.flatMap fun b =>
      match b with
      | none => List.replicate n d.nanCode
      | some ys => ys.map d.saturate, bs.any Option.isNone)

/-- An integer rounding of a value: toward −∞, toward +∞, toward 0, to nearest with ties to even (R256). -/
def toIntegral (mode : Nat) : FVal → FVal
  | .fin n m e =>
    if 0 ≤ e then .fin n m e
    else
      let k := (-e).toNat
      let q := m / 2 ^ k
      let up := (mode == 0 && n && m % 2 ^ k != 0) || (mode == 1 && !n && m % 2 ^ k != 0)
      .fin n (if mode == 3 then roundShift false m k else if up then q + 1 else q) 0
  | x => x

def FVal.one (neg : Bool) : FVal := .fin neg 1 0

def FVal.negative : FVal → Bool
  | .fin n _ _ => n
  | .inf n => n
  | .nan => false

/-- One operation of CHAIN before its rounding to FP32; `o` is the operand's pattern. -/
def chainOp (op : Nat) (v : FVal) (o k0 k1 : W32) : FVal :=
  let x := f32 o
  match op with
  | 1 => v.add x
  | 2 => v.add x.neg
  | 3 => x.add v.neg
  | 4 => v.mul x
  | 5 => fdiv v x
  | 6 => fdiv x v
  | 7 => (v.mul x).add (f32 k1)
  | 8 => fmin v x
  | 9 => fmax v x
  | 10 => v.abs
  | 11 => v.neg
  | 12 => frcp v
  | 13 => frsq v
  | 14 => fsqrt v
  | 15 => fexp2 v
  | 16 => flog2 v
  | 17 => fmax v FVal.zero
  | 18 => fmin (fmax v (f32 k0)) (f32 k1)
  | 19 => v.mul v
  | 20 => toIntegral 0 v
  | 21 => toIntegral 1 v
  | 22 => toIntegral 2 v
  | 23 => toIntegral 3 v
  | 24 => if v.isNan || v.isZero then v else FVal.one v.negative
  | 25 => if x.isNan then .nan else v.scale (toIntSat false (-300) 300 x)
  | 26 => if !v.isNan && !x.isNan && !v.lt x then FVal.one false else FVal.zero
  | 27 => if v.isNan then x else v
  | 28 => (x.mul x).add v
  | 29 => (v.add x.neg).abs
  | 30 => if o.getLsbD 31 then v.abs.neg else v.abs
  | 31 => v.add (toIntegral 0 v).neg
  | _ => v

/-- CHAIN on one element, slot by slot to the first END. -/
def chainElem (b : Block) (cur : W32) (v : FVal) : List Nat → FVal
  | [] => v
  | k :: ks =>
    let s := b.slot k
    if slotOp s == 0 then v
    else
      let o := if slotSel s == 0 then b.k0 else if slotSel s == 1 then b.k1 else cur
      chainElem b cur (Fmt.f32.round (chainOp (slotOp s) v o b.k0 b.k1)) ks

/-- Some slot before the first END reads the destination element. -/
def Block.readsDst (b : Block) : Bool :=
  (((List.range 8).map b.slot).takeWhile fun s => slotOp s != 0).any fun s => slotSel s == 2

/-- The bytes of a destination row from its source row, and whether a block was NONFINITE. -/
def Block.mapRow (b : Block) (k : CmdKind) (seed : W32) (src old : List Byte) : List Byte × Bool :=
  if !b.conv then (src, false)
  else
    let xs := (unpackRow b.sfmt b.cols src).map b.sfmt.decode
    let xs := if k == .chain then
        (xs.zip (unpackRow b.dfmt b.cols old)).map fun p =>
          chainElem b (toF32 (b.dfmt.decode p.2)) p.1 (List.range 8)
      else xs
    let (cs, rnf) := convertRow b.dfmt b.tag seed xs
    (rowBytes b.dfmt cs, rnf)

/-! ### Reaching a row's bytes -/

/-- An element of a row in its space: for spaces 1 and 2 `pas` are offsets. -/
structure Spot where
  sp : Nat
  p : Placed
  deriving DecidableEq, Repr

/-- Place the elements of a row from `va` in space `sp`, in order (R253, R259). -/
def State.placeRow (s : State) (c : Cmd) (sp es : Nat) (needs : Needs) (scru deepu : Nat) :
    List Nat → State × List Spot × TileEnd
  | [] => (s, [], .done)
  | va :: l =>
    let next := fun (s : State) (p : Placed) =>
      let (s, ps, r) := s.placeRow c sp es needs scru deepu l
      (s, ⟨sp, p⟩ :: ps, r)
    let a := BitVec.ofNat 64 va
    match sp with
    | 0 =>
      match s.mapAccess c.ctx (coreOfCluster c.cluster) va es needs false with
      | (s, .fault code sub) => (s, [], .failed code sub a 0)
      | (s, .page b z x) => (s, [], .waits b z needs x)
      | (s, .ok pas vas node _) =>
        if bit needs 0 && node == 0 && s.damageAt pas != 0 then
          (s, [], .failed 0x42 (BitVec.ofNat 8 (s.damageAt pas)) a 0)
        else next s ⟨va, pas, vas, node⟩
    | 1 => if 256 * scru < va + es then (s, [], .failed 0x12 0x10 a 0) else next s ⟨va, span va es, [], 0⟩
    | _ => if 4096 * deepu < va + es then (s, [], .failed 0x12 0x11 a 0) else next s ⟨va, span va es, [], 0⟩

/-- An element in another package's memory. -/
def Spot.onPeer (x : Spot) : Bool := x.sp == 0 && x.p.onPeer

/-- The issuing core drops its lines of global bytes that a command reads or writes at their homes (R241). -/
def State.dropSpot (s : State) (g : Option Nat) (x : Spot) : State :=
  match g.bind s.group? with
  | some gr => if x.sp == 0 && x.p.node == 0 then s.dropBytesL1 gr.core x.p.pas else s
  | none => s

/-- Read one element, or take what its peer has answered. -/
def State.readSpot (s : State) (g : Option Nat) (x : Spot) (got : Option (List Byte)) : State × List Byte :=
  if x.sp == 0 then
    match (s.dropSpot g x).readPlaced x.p got with
    | (s, bs) => (s, bs.getD (List.replicate x.p.pas.length 0))
  else
    match g.bind s.group? with
    | none => (s, [])
    | some gr => (s, x.p.pas.map (if x.sp == 1 then gr.scratch.byte else gr.deep.byte))

/-- Read elements in order; those on peers are numbered from `part`. -/
def State.readSpots (s : State) (g : Option Nat) (got : List (Nat × List Byte)) (part : Nat) :
    List Spot → State × List Byte × Nat
  | [] => (s, [], part)
  | x :: xs =>
    let (s, bs) := s.readSpot g x (answerOf got part)
    let (s, l, part) := State.readSpots s g got (if x.onPeer then part + 1 else part) xs
    (s, bs ++ l, part)

/-- Write one element; one on a peer goes as a part of the command. -/
def State.writeSpot (s : State) (c : Cmd) (x : Spot) (bs : List Byte) : State :=
  let g := c.owner.map Prod.fst
  match x.sp with
  | 0 =>
    if x.p.node == 0 then
      (s.localWrite c.ctx ((g.bind s.group?).map Group.kern) 1 x.p.pas x.p.vas bs).dropSpot g x
    else (s.sendWrites (fun p => .cmd c.id p) (s.viaOf c.ctx (coreOfCluster c.cluster) needsWrite x.p.pas x.p.vas) x.p.node 0
      (writeParts x.p.pas bs)).1
  | 1 => s.modGroup (g.getD 0) fun gr => { gr with scratch := gr.scratch.setBytes x.p.at_ bs }
  | _ => s.modGroup (g.getD 0) fun gr => { gr with deep := gr.deep.setBytes x.p.at_ bs }

/-- Write a row's bytes element by element. -/
def State.writeSpots (s : State) (c : Cmd) (es : Nat) (bs : List Byte) : List Spot → State
  | [] => s
  | x :: xs => State.writeSpots (s.writeSpot c x (bs.take es)) c es (bs.drop es) xs

/-- Element addresses of a row of `n` bytes. -/
def rowElems (va n es : Nat) : List Nat := (List.range (n / es)).map fun k => (va + es * k) % 2 ^ 64

/-! ### Commands that end -/

def State.modCmd (s : State) (id : Nat) (f : Cmd → Cmd) : State :=
  { s with cmds := s.cmds.map fun c => if c.id == id then f c else c }

/-- A packet's COPY has ended when its last command has (R262): done with its duration, or failed. -/
def State.packetDone (s : State) (b : Batch) : State :=
  match b.pkt.bind fun p => (s.pkt? p).map fun k => (p, k) with
  | none => s
  | some (p, k) =>
    if s.batchRuns b || k.st != .running then s
    else if k.code = 0 then s.endPkt p 1 0 0 (scaledUs k.point (s.time - k.startTime))
    else s.endPkt p 2 k.code k.sub 0

/-- A command has ended. -/
def State.endCmd (s : State) (c : Cmd) : State :=
  let s := { s.modCmd c.id fun x => { x with st := .done } with
    reqs := s.reqs.filter fun r => !r.whose.ofCmd c.id }
  let s := match s.batches.find? fun (b : Batch) => b.ctx == c.ctx && b.no == c.batch with
    | some b => s.packetDone b
    | none => s
  let s := match c.owner with | some (g, _) => s.progress g | none => s
  s.settleBatch c.ctx c.batch

/-- A command fails: the kind-2 record and the fault to come, or its packet's kind-3 record (R259, R262), whose GROUP and KERNID
are 0, a COPY packet having neither (R89; DESIGN CHOICE, log 27). -/
def State.failCmd (s : State) (c : Cmd) (code sub : Byte) (addr : W64) : State :=
  let s := match c.owner with
    | some (g, tid) =>
      s.failItem g tid c.pc addr (item 2 (c.batch * 256 + c.idx)) code sub 0 c.id (some (2, c.batch))
    | none =>
      match ((s.batches.find? fun (b : Batch) => b.ctx == c.ctx && b.no == c.batch).bind Batch.pkt).bind fun p =>
          (s.pkt? p).map fun k => (p, k) with
      | none => s
      | some (p, k) =>
        if k.code ≠ 0 then s
        else (s.post c.ctx (pktRec s k code sub true addr.toNat 0 0)).modPkt p fun k => { k with code := code, sub := sub }
  s.endCmd c

/-! ### Running a command -/

/-- The group sizes that bound a command's scratch and deep scratch. -/
def State.cmdSizes (s : State) (c : Cmd) : Nat × Nat :=
  match (c.owner.bind fun o => s.group? o.1).bind fun gr => s.kernel? gr.kern with
  | some k => (k.scru, k.deepu)
  | none => (0, 0)

/-- The scratch a command's lists and operands lie in. -/
def State.cmdScratch (s : State) (c : Cmd) : Store Byte :=
  ((c.owner.bind fun o => s.group? o.1).map Group.scratch).getD ⟨0, []⟩

/-- Entry `r` of an index list lies in scratch. -/
def Cmd.listOk (c : Cmd) (scru r : Nat) : Bool :=
  (c.kind != .gather && c.kind != .scatter) || c.list + 4 * r + 4 ≤ 256 * scru

/-- The rows of a move whose elements are placed, with the end that stopped them: nothing moves before every row is
placed or one has failed, so a page brings no part of the work about twice (R259). `cut` is the end after the last row. -/
def State.planRows (s : State) (c : Cmd) (local_ : Bool × Bool) (cut : TileEnd) :
    List Nat → State × List (List Spot × List Spot) × TileEnd
  | [] => (s, [], cut)
  | r :: rs =>
    let b : Block := c.block
    let (scru, deepu) := s.cmdSizes c
    if !c.listOk scru r then (s, [], .failed 0x12 0x10 (BitVec.ofNat 64 (c.list + 4 * r)) 0)
    else
      let (si, di) := sideIdx c.kind (s.cmdScratch c) c.list r
      let es := elemSize b.scode
      let ed := elemSize b.dcode
      let wneeds := if c.kind == .chain && b.readsDst then needsBoth else needsWrite
      let srcs := if local_.1 then rowElems (rowAt b.src b.sstr si) b.srcBytes es else []
      let dsts := if local_.2 then rowElems (rowAt b.dst b.dstr di) b.dstBytes ed else []
      match s.placeRow c b.ssp es needsRead scru deepu srcs with
      | (s, xs, .done) =>
        match s.placeRow c b.dsp ed wneeds scru deepu dsts with
        | (s, ys, .done) =>
          let (s, l, e) := s.planRows c local_ cut rs
          (s, (xs, ys) :: l, e)
        | (s, ys, e) => (s, [(xs, ys)], e)
      | (s, _, e) => (s, [], e)

/-- RNF of the issuing warp (R254). -/
def State.cmdRnf (s : State) (c : Cmd) (b : Bool) : State :=
  match b, c.owner with
  | true, some (g, _) => s.chkstat g c.warp 0 0 1
  | _, _ => s

/-- The destination elements that a command reads. -/
def Cmd.olds (c : Cmd) (ys : List Spot) : List Spot := if c.kind == .chain && Block.readsDst c.block then ys else []

/-- Move the planned rows in order; what peers have answered is numbered from `part`. -/
def State.moveRows (s : State) (c : Cmd) (part : Nat) : List (List Spot × List Spot) → State
  | [] => s
  | (xs, ys) :: l =>
    let b : Block := c.block
    let g := c.owner.map Prod.fst
    let (s, src, part) := s.readSpots g c.got part xs
    let (s, old, part) := s.readSpots g c.got part (c.olds ys)
    let old := if old.isEmpty then List.replicate b.dstBytes 0 else old
    let (out, rnf) := b.mapRow c.kind c.seed src old
    State.moveRows ((s.cmdRnf c rnf).writeSpots c (elemSize b.dcode) out ys) c part l

/-- The end of a plan: a page keeps the command waiting, a failure ends it, else `go`. -/
def State.afterPlan (s : State) (c : Cmd) (e : TileEnd) (work : State → State) (fin : State → State) : State :=
  match e with
  | .waits base size kind absent =>
    let s := if absent then s.request c.ctx base size kind else s
    s.modCmd c.id fun x => { x with paged := some base }
  | .failed code sub addr _ => (work s).failCmd c code sub addr
  | .asks => s
  | .blocked => s
  | .done => fin (work s)

/-- The elements on peers that a plan reads, in order, and those it touches at all. -/
def Cmd.peers (c : Cmd) (plan : List (List Spot × List Spot)) : List Placed × List Placed :=
  let pick := fun (l : List Spot) => (l.filter Spot.onPeer).map Spot.p
  (plan.flatMap fun r => pick (r.1 ++ c.olds r.2), plan.flatMap fun r => pick (r.1 ++ r.2))

/-- A command has moved its rows: it ends, or waits for its peers to acknowledge what it wrote (R345). -/
def State.moved (s : State) (c : Cmd) : State :=
  if s.reqs.any fun r => r.whose.ofCmd c.id then s.modCmd c.id fun x => { x with st := .sent, wrote := true } else s.endCmd c

/-- The rows of a block that a command takes, and the end after them: it meets damage at row `at_`, where the first byte of its
source that can be damaged here lies, or none (R205, R259). -/
def Cmd.rowsTo (c : Cmd) (damage : Byte) (at_ : Nat) : List Nat × TileEnd :=
  let rows := List.range (Block.rows c.block)
  if damage = 0 then (rows, .done)
  else (rows.take at_, .failed 0x42 damage (BitVec.ofNat 64 (rowAt (Block.src c.block) (Block.sstr c.block) at_)) 0)

/-- With a plan made, the elements it reads on peers are asked for, once (R274); a node without a usable port fails the command
(R340); else it goes on. A plan that waits for a page goes no further, nor does one for whose requests a port has no room (R337,
R339). -/
def State.askPeers (s : State) (c : Cmd) (plan : List (List Spot × List Spot)) (e : TileEnd) (go : State → State) : State :=
  let (reads, all) := c.peers plan
  match e with
  | .waits _ _ _ _ => s.afterPlan c e id id
  | _ =>
    match all.find? fun p => (s.portFor p.node (p.pas.headD 0)).isNone with
    | some p => s.failCmd c 0x50 2 (BitVec.ofNat 64 (p.vas.headD 0))
    | none =>
      if s.placedBlocked all then s
      else if !reads.isEmpty && c.got.isEmpty then
        (s.sendReads (fun p => .cmd c.id p) 0
          (peerReads (s.viaPlaced c.ctx (coreOfCluster c.cluster) needsRead) reads)).1.modCmd c.id fun x => { x with st := .sent }
      else go s

/-- A command whose two sides are named by the context's own addresses. -/
def State.runLocal (s : State) (c : Cmd) (damage : Byte) (at_ : Nat) : State :=
  let (rows, cut) := c.rowsTo damage at_
  let (s, plan, e) := s.planRows c (true, true) cut rows
  s.askPeers c plan e fun s => s.afterPlan c e (fun s => s.moveRows c 0 plan) fun s => s.moved c

/-- A request of a command: node, address, size, data, operation. -/
abbrev PeerPart := Nat × Nat × Nat × Option Nat × Option (BitVec 4)

/-- Send requests numbered from `part`, by remote addresses, which nothing translates (R344): none where all are sent, else the
remote address of the first whose node has lost its last usable port (R340). -/
def State.sendParts (s : State) (c : Cmd) (part : Nat) : List PeerPart → State × Option Nat
  | [] => (s, none)
  | (node, pa, size, data, op) :: l =>
    match s.sendReq (.cmd c.id part) node pa size data op none with
    | (s, none) => (s, some (pack [(55, node), (0, pa)]))
    | (s, some _) => State.sendParts s c (part + 1) l

/-- A port that one of some requests would take has no room (R337, R339). -/
def State.partsBlocked (s : State) (ps : List PeerPart) : Bool := ps.any fun p => s.portBlocked p.1 p.2.1

/-- The requests of a remote row, with its bytes for a write. -/
def rowParts (a n : Nat) (data : Option (List Byte)) : List PeerPart :=
  (pieces (remotePa a) n 0 n).map fun p =>
    (remoteNode a, remotePa a + p.1, p.2, data.map fun bs => leNat ((bs.drop p.1).take p.2), none)

/-- A remote address of a command: its node has a route (R347). -/
def State.routeFault (s : State) (addrs : List Nat) : Option Nat :=
  addrs.find? fun a => !(remoteOk a && s.hasRoute (remoteNode a))

/-- The command's requests are sent, or it fails with the address of the first that could not be (R347). -/
def State.sent (s : State) (c : Cmd) (lost : Option Nat) : State :=
  match lost with
  | none => s.modCmd c.id fun x => { x with st := .sent }
  | some addr => s.failCmd c 0x50 2 (BitVec.ofNat 64 addr)

/-- The converted rows of a write to a peer, as requests; what other peers have answered is numbered from `part`. -/
def State.outRows (s : State) (c : Cmd) (r part : Nat) : List (List Spot × List Spot) →
    State × List PeerPart
  | [] => (s, [])
  | (xs, _) :: l =>
    let b : Block := c.block
    let (s, src, part) := s.readSpots (c.owner.map Prod.fst) c.got part xs
    let (out, rnf) := b.mapRow c.kind c.seed src []
    let (s, ps) := State.outRows (s.cmdRnf c rnf) c (r + 1) part l
    (s, rowParts (rowAt b.dst b.dstr r) b.dstBytes (some out) ++ ps)

/-- COPY.R to a peer: the rows are converted here and sent (R345). -/
def State.runOut (s : State) (c : Cmd) (damage : Byte) (at_ : Nat) : State :=
  let b : Block := c.block
  match s.routeFault ((List.range b.rows).map fun r => rowAt b.dst b.dstr r) with
  | some a => s.failCmd c 0x12 5 (BitVec.ofNat 64 a)
  | none =>
    let (rows, cut) := c.rowsTo damage at_
    let (s0, plan, e) := s.planRows c (true, false) cut rows
    s0.askPeers c plan e fun s =>
      let (s1, ps) := s.outRows c 0 0 plan
      if s.partsBlocked ps then s
      else
        let (s, lost) := s1.sendParts c 0 ps
        match e with
        | .failed code sub addr _ => s.failCmd c code sub addr
        | _ => (s.modCmd c.id fun x => { x with wrote := true }).sent c lost

/-- COPY.R from a peer: its rows are asked for (R345). -/
def State.runIn (s : State) (c : Cmd) : State :=
  let b : Block := c.block
  let as := (List.range b.rows).map fun r => rowAt b.src b.sstr r
  match s.routeFault as with
  | some a => s.failCmd c 0x12 5 (BitVec.ofNat 64 a)
  | none =>
    let ps := as.flatMap fun a => rowParts a b.srcBytes none
    if s.partsBlocked ps then s
    else
      let (s, lost) := s.sendParts c 0 ps
      s.sent c lost

/-- The bytes a peer has answered with, in the order of the requests. -/
def Cmd.answer (c : Cmd) : List Byte := (c.got.mergeSort fun x y => x.1 ≤ y.1).flatMap Prod.snd

/-- Write the rows a peer has answered. -/
def State.inRows (s : State) (c : Cmd) (data : List Byte) : List (List Spot × List Spot) → State
  | [] => s
  | (_, ys) :: l =>
    let b : Block := c.block
    let (out, rnf) := b.mapRow c.kind c.seed (data.take b.srcBytes) []
    State.inRows ((s.cmdRnf c rnf).writeSpots c (elemSize b.dcode) out ys) c (data.drop b.srcBytes) l

/-- ATOM.R sends one atomic per row (R346). -/
def State.runAtoms (s : State) (c : Cmd) : State :=
  let b : Block := c.block
  let rows := List.range b.rows
  let n := b.aopBytes
  match s.routeFault (rows.map fun r => rowAt b.dst b.dstr r) with
  | some a => s.failCmd c 0x12 5 (BitVec.ofNat 64 a)
  | none =>
    let (scru, _) := s.cmdSizes c
    match rows.find? fun r => 256 * scru < rowAt b.src b.sstr r + n with
    | some r => s.failCmd c 0x12 0x10 (BitVec.ofNat 64 (rowAt b.src b.sstr r))
    | none =>
      let m := s.cmdScratch c
      let ps := rows.map fun r =>
        let t := rowAt b.dst b.dstr r
        (remoteNode t, remotePa t, atomBytes b.aop, some (m.readN (rowAt b.src b.sstr r) n), some b.aop)
      if s.partsBlocked ps then s
      else
        let (s, lost) := s.sendParts c 0 ps
        s.sent c lost

/-- A command whose last request is answered (R345, R346): it goes on with the answers, or ends. -/
def State.finishRemote (s : State) (c : Cmd) (damage : Byte) (at_ : Nat) : State :=
  let b : Block := c.block
  if c.kind == .atomR then
    let s := if b.rv then
        match c.owner with
        | some (g, _) => s.modGroup g fun gr => { gr with scratch := gr.scratch.setBytes b.ret c.answer }
        | none => s
      else s
    s.endCmd c
  else if c.wrote then s.endCmd c
  else if b.ssp == 3 then
    let (s, plan, e) := s.planRows c (false, true) .done (List.range b.rows)
    s.askPeers c plan e fun s => s.afterPlan c e (fun s => s.inRows c c.answer plan) fun s => s.moved c
  else if c.kind == .copyR then s.runOut c damage at_
  else s.runLocal c damage at_

/-- A command's packet is one of a replay (R365). -/
def State.replayedBatch (s : State) (c : Cmd) : Bool :=
  s.mirage.queue.isSome && s.batches.any fun b =>
    b.ctx == c.ctx && b.no == c.batch && ((b.pkt.bind s.pkt?).map Pkt.queue) == s.mirage.queue

/-- A command that may start: its group is not being saved, nor its packet's context pre-empted or stopped (R85), its
cluster has its rail (R120) and its engine is not frozen (R372), and an ORD command waits for the earlier ones of its batch (R260, R261). -/
def State.cmdReady (s : State) (c : Cmd) : Bool :=
  let here := match c.owner with
    | none => ((s.ctx? c.ctx).map fun x =>
        (!x.pre || s.replayedBatch c) && (x.st == .running || x.st == .saved)).getD false
    | some (g, _) => ((s.group? g).map fun gr => match gr.st with
        | .running => true | .dumping => true | .halted _ => true | _ => false).getD false
  here && c.paged.isNone && (s.cluster c.cluster).gate.up && !s.mgmt.frozen.contains (1, c.cluster)
    && !(Block.ord c.block && s.cmds.any fun x => x.ctx == c.ctx && x.batch == c.batch && x.idx < c.idx && x.st != .done)

/-- Run a command that has not started. -/
def State.runCmd (s : State) (c : Cmd) (damage : Byte) (at_ : Nat) : State :=
  match c.kind with
  | .atomR => if damage = 0 then s.runAtoms c
    else s.failCmd c 0x42 damage (BitVec.ofNat 64 (rowAt (Block.src c.block) (Block.sstr c.block) at_))
  | .copyR => if Block.dsp c.block == 3 then s.runOut c damage at_ else s.runIn c
  | _ => s.runLocal c damage at_

/-- A command of the engine runs and ends, sends its requests, or ends with its last answer (R259). What it meets in its source is
an input: the level code of uncorrectable data with the row it lies in, or with bit 7 set an error that was corrected (R204,
R205, R301; DESIGN CHOICE, log 26). -/
def execCommandComplete (cmd : Ending) (s : State) : Host.Outcome State Fault Refusal :=
  .next (match s.cmds.find? fun c => c.id == cmd.id with
    | none => s
    | some c =>
      let corrected := cmd.damage.getLsbD 7
      let counted := if corrected then s.count c.ctx (dieOfCluster c.cluster) 0x30 1 else s
      let damage := if corrected then 0 else cmd.damage
      match c.st with
      | .done => s
      | .sent =>
        if c.paged.isSome || s.reqs.any fun r => r.whose.ofCmd c.id then s else counted.finishRemote c damage cmd.place
      | .waiting => if s.cmdReady c then counted.runCmd c damage cmd.place else s)

/-! ### COPY packets (R96, R262) -/

/-- A packet fails as it starts: its one record and its status. -/
def State.failPkt (s : State) (p : Nat) (code sub : Byte) (addr : Nat) : State :=
  match s.pkt? p with
  | none => s
  | some k => (s.post k.ctx (pktRec s k code sub true addr 0 0)).endPkt p 2 code sub 0

/-- What reading a block list comes to. -/
inductive Blocks where
  | ok (bs : List Block)
  | fault (code sub : Byte) (addr : Nat)
  | page (base : W64) (size : Nat) (absent : Bool)
  deriving DecidableEq, Repr

/-- Read 64-bit words in a context's space. -/
def State.readWords (s : State) (ctx core : Nat) : List Nat → State × Blocks
  | [] => (s, .ok [[]])
  | va :: l =>
    match s.vread ctx core va 8 needsRead with
    | (s, .fault c sub) => (s, .fault c sub va)
    | (s, .page b z a) => (s, .page b z a)
    | (s, .ok v) =>
      match State.readWords s ctx core l with
      | (s, .ok [ws]) => (s, .ok [BitVec.ofNat 64 v :: ws])
      | r => r

/-- Read `n` command blocks from `va`. -/
def State.readBlocks (s : State) (ctx core va : Nat) : (n : Nat) → State × Blocks
  | 0 => (s, .ok [])
  | n + 1 =>
    match s.readWords ctx core ((List.range 8).map fun i => va + 8 * i) with
    | (s, .ok [b]) =>
      match s.readBlocks ctx core (va + 64) n with
      | (s, .ok bs) => (s, .ok (b :: bs))
      | r => r
    | r => r

/-- The first invalid block of a packet, with its address. -/
def badBlock (va : Nat) : List Block → Option (Byte × Byte × Nat)
  | [] => none
  | b :: bs =>
    match blockCheck b .copy true ⟨0, []⟩ [] 0 0 with
    | some (c, sub) => some (c, sub, va)
    | none => badBlock (va + 64) bs

/-- The commands of a packet's batch. -/
def pktCmds (id no ctx cl : Nat) : (i : Nat) → List Block → List Cmd
  | _, [] => []
  | i, b :: bs => Cmd.mk (id + i) no i ctx cl none 0 0 .copy b 0 0 .waiting none [] false :: pktCmds id no ctx cl (i + 1) bs

/-- A ready COPY packet reads and checks its block list, and runs it as one batch on its OWNER's engine (R262). -/
def execCopyPacketRun (pkt : Nat) (s : State) : Host.Outcome State Fault Refusal :=
  .next (match s.pkt? pkt with
    | none => s
    | some k =>
      if k.st != .launching || k.paged.isSome || bits (k.img.getD 1 0).toNat 0 4 != 4
          || s.mgmt.frozen.contains (1, k.owner) then s
      else
        let va := (k.img.getD 6 0).toNat
        let n := bits (k.img.getD 7 0).toNat 0 8
        match s.readBlocks k.ctx (coreOfCluster k.owner) va n with
        | (s, .fault c sub a) => s.failPkt pkt c sub a
        | (s, .page base size absent) =>
          let s := if absent then s.request k.ctx base size needsRead else s
          s.modPkt pkt fun k => { k with paged := some base }
        | (s, .ok bs) =>
          match badBlock va bs with
          | some (c, sub, a) => s.failPkt pkt c sub a
          | none =>
            let no := ((s.ctx? k.ctx).map Ctx.batchNext).getD 1
            let s := s.modCtx k.ctx fun c => { c with batchNext := nextBatch no }
            let id := s.fresh
            let s := { s with
              fresh := s.fresh + n
              cmds := s.cmds ++ pktCmds id no k.ctx k.owner 0 bs
              batches := s.batches ++ [Batch.mk no k.ctx none (some pkt) k.owner n true] }
            (s.modPkt pkt fun k => { k with st := .running, startTime := s.time }).repoint k.owner)

/-! ### ENQ and EVT (R100, R110) -/

/-- A translated place of `n` bytes for a word that acts at once. -/
def State.placeFor (s : State) (e : Env) (va : W64) (n : Nat) (needs : Needs) (f : State → List Nat → List Nat → Nat →
    State × Issued) : State × Issued :=
  match s.mapAccess e.gr.ctx e.gr.core va.toNat n needs false with
  | (s, .fault c sub) => (s, .fault c sub va)
  | (s, .page b z a) => (s, .page b z needs a)
  | (s, .ok pas vas node _) => f s pas vas node

/-- A write of the issuing core's thread to local global memory at once. -/
def State.enqWrite (s : State) (e : Env) (code : Nat) (va : W64) (pas vas : List Nat) (bs : List Byte) : State :=
  (s.localWrite e.gr.ctx (some e.gr.kern) code pas vas bs).dropL1 e.gr.core fun l =>
    l.ctx == e.gr.ctx && l.line == va.toNat / 64

/-- The packet image as ENQ writes it: NEXT 0, and the device's bits of word 0x10 clear. -/
def enqImage (img : List Byte) : List Byte :=
  List.replicate 8 0 ++ (img.drop 8).take 10 ++ List.replicate 6 0 ++ img.drop 24

/-- What a member's ENQ has in hand with a peer. -/
def State.setSwap (s : State) (g tid : Nat) (w : Option Swap) : State :=
  s.modGroup g fun gr => { gr with swaps := (gr.swaps.filter fun x => x.tid != tid) ++ w.toList }

/-- An ENQ asks a peer, and goes on with the answer (R100, R214, R274): `n` bytes at `pa` of `node`, behind the address `va`. -/
def State.askPeer (s : State) (e : Env) (w : Swap) (va : W64) (node pa n : Nat) (data : Option Nat) (op : Option (BitVec 4))
    (via : Option Via) : State × Issued :=
  let (k, s) := (s.setSwap e.g e.tid none).free
  match s.sendReq (.enq e.g e.tid k) node pa n data op via with
  | (s, none) => (s, .fault 0x50 2 va)
  | (s, some _) => (s.setSwap e.g e.tid (some { w with num := k }), .going)

/-- The link store of an ENQ fails: as any store's that has issued, by its own record and a late fault; the ENQ itself is
performed, since the tail link has been exchanged (R100, R340, R394; DEDUCED, log 20). -/
def State.linkFails (s : State) (e : Env) (pc old : W64) (code sub : Byte) : State × Issued :=
  ((s.setSwap e.g e.tid none).failItem e.g e.tid pc old (item 4 old.toNat) code sub 0 e.op none, .done)

/-- The last step of an ENQ: the tail link has been exchanged for `old`, whose NEXT names the image now. -/
def State.linkStore (s : State) (e : Env) (w : Swap) (old : W64) (opas ovas : List Nat) (onode : Nat) : State × Issued :=
  let s := s.setSwap e.g e.tid none
  if onode == 0 then (s.enqWrite e 1 old opas ovas (leBytes 8 w.p.toNat), .done)
  else if isHostNode onode then ((s.sendReq .device onode (opas.headD 0) 8 (some w.p.toNat) none none).1, .done)
  else
    match s.askPeer e { w with phase := .link old } old onode (opas.headD 0) 8 (some w.p.toNat) none
        (s.viaOf e.gr.ctx e.gr.core needsWrite opas ovas (opas.headD 0)) with
    | (s, .going) => (s, .going)
    | (s, _) => s.linkFails e w.pc old 0x50 2

/-- Ask a peer for its tail link, or for the exchange once the value expected is known (R100, R214, R274). -/
def State.askTail (s : State) (e : Env) (w : Swap) : State × Issued :=
  let via : Option Via := some ⟨e.gr.ctx, e.gr.core, w.tl, needsBoth, s.time⟩
  match w.phase with
  | .exchange old _ _ _ => s.askPeer e w w.tl w.node w.tpa 8 (some (old.toNat + 2 ^ 64 * w.p.toNat)) (some 13#4) via
  | _ => s.askPeer e { w with phase := .read } w.tl w.node w.tpa 8 none none via

/-- ENQ on a tail link in a host's memory: what the link holds is not given, so the value that the exchange succeeds on is a
free value, and the tries before it are not shown (log 19). -/
def State.enqHost (s : State) (e : Env) (w : Swap) : State × Issued :=
  let (n, s) := s.free
  let old := BitVec.ofNat 64 (leNat ((List.range 8).map fun k => Config.remoteByte n k))
  if old = 0 then (s, .fault 0x12 0x40 w.tl)
  else
    s.placeFor e old 8 needsWrite fun s opas ovas onode =>
      let s := (s.sendReq .device w.node w.tpa 8 (some (old.toNat + 2 ^ 64 * w.p.toNat)) (some 13#4) none).1
      s.linkStore e w old opas ovas onode

/-- ENQ, its image written: the exchange on the tail link, then the link store (R100). -/
def State.enqTail (s : State) (e : Env) (pc tl p : W64) : State × Issued :=
  s.placeFor e tl 8 needsBoth fun s tpas tvas tnode =>
    let old := BitVec.ofNat 64 (leNat (tpas.map s.byte))
    let w := Swap.mk e.tid pc tl p (tpas.headD 0) tnode 0 .read
    if isHostNode tnode then s.enqHost e w
    else if tnode != 0 then (if s.portBlocked tnode (tpas.headD 0) then (s, .stall) else s.askTail e w)
    else if s.damageAt tpas != 0 then (s, .fault 0x42 (BitVec.ofNat 8 (s.damageAt tpas)) tl)
    else if old = 0 then (s, .fault 0x12 0x40 tl)
    else
      s.placeFor e old 8 needsWrite fun s opas ovas onode =>
        if s.portBlocked onode (opas.headD 0) then (s, .stall)
        else (s.enqWrite e 2 tl tpas tvas (leBytes 8 p.toNat)).linkStore e w old opas ovas onode

/-- A peer has answered `v`: the image is there; the link read names the packet whose NEXT is translated; the exchange succeeds
where it finds that value, and is tried afresh where it does not; or NEXT is written (R100). -/
def State.swapStep (s : State) (e : Env) (w : Swap) (v : W64) : State × Issued :=
  let s := s.setSwap e.g e.tid none
  match w.phase with
  | .image => s.enqTail e w.pc w.tl w.p
  | .read =>
    if v = 0 then (s, .fault 0x12 0x40 w.tl)
    else
      s.placeFor e v 8 needsWrite fun s opas ovas onode => s.askTail e { w with phase := .exchange v opas ovas onode }
  | .exchange o opas ovas onode =>
    if v = o then s.linkStore e w o opas ovas onode else s.askTail e { w with phase := .read }
  | .link _ => (s, .done)

/-- What a peer was asked fails: the ENQ faults, but for its link store (R340, R342). -/
def State.swapFails (s : State) (e : Env) (w : Swap) (code sub : Byte) : State × Issued :=
  match w.phase with
  | .link old => s.linkFails e w.pc old code sub
  | .image => (s.setSwap e.g e.tid none, .fault code sub w.p)
  | _ => (s.setSwap e.g e.tid none, .fault code sub w.tl)

/-- The exchange is under way or made: the answer decides, whatever halts the group (R100). -/
def SwapPhase.decides : SwapPhase → Bool
  | .exchange _ _ _ _ => true
  | .link _ => true
  | _ => false

/-- ENQ: the image, the exchange on the tail link, the link store (R100). -/
def issueEnq (x y : BitVec 6) (e : Env) (pc : W64) (s : State) : State × Issued :=
  let tl := e.t.getX2 x
  let off := (e.t.getX y).toNat
  if tl.toNat % 8 != 0 then (s, .fault 0x06 4 tl)
  else if off % 64 != 0 then (s, .fault 0x06 4 (BitVec.ofNat 64 off))
  else if outsideScratch e off 64 then (s, .fault 0x12 0x10 (BitVec.ofNat 64 off))
  else
    let img := e.gr.scratch.bytes off 64
    let p := BitVec.ofNat 64 (leNat (img.take 8))
    if p.toNat % 64 != 0 then (s, .fault 0x06 4 p)
    else
      s.placeFor e p 64 needsWrite fun s ppas pvas pnode =>
        if pnode == 0 then (s.enqWrite e 1 p ppas pvas (enqImage img)).enqTail e pc tl p
        else
          let data := some (leNat (enqImage img))
          if isHostNode pnode then (s.sendReq .device pnode (ppas.headD 0) 64 data none none).1.enqTail e pc tl p
          else if s.portBlocked pnode (ppas.headD 0) then (s, .stall)
          else s.askPeer e ⟨e.tid, pc, tl, p, 0, 0, 0, .image⟩ p pnode (ppas.headD 0) 64 data none
            (s.viaOf e.gr.ctx e.gr.core needsWrite ppas pvas (ppas.headD 0))

/-- The record of an event (R107, R110). -/
def evtRecord (s : State) (e : Env) (pc : W64) (kind val : Nat) : Completion where
  pkt := pc
  val := val
  late := false
  sub := 0
  code := 0
  kind := kind
  time := s.time
  ctx := e.gr.ctx

/-- EVT: RELEASE hands a packet to the cluster's SCC, ESTIMATE the kernel's end (R110). VAL of RELEASE's record is the low half
of the address (DESIGN CHOICE, log 23: the payload is longer than the field). -/
def issueEvt (x : BitVec 6) (code : BitVec 8) (e : Env) (pc : W64) (s : State) : State × Issued :=
  let cl := clusterOf e.gr.core
  if code = 0x20#8 then
    let p := e.t.getX2 x
    if p.toNat % 64 != 0 then (s, .fault 0x06 4 p)
    else
      s.placeFor e (p + 0x10) 8 needsWrite fun s _ _ _ =>
        let s := s.complete cl (evtRecord s e pc 5 (p.toNat % 2 ^ 32))
        let k := s.cluster cl
        (s.setCluster cl { k with releases := k.releases ++ [Release.mk e.gr.ctx p none] }, .done)
  else
    let n := (e.t.getX x).toNat
    let s := s.complete cl (evtRecord s e pc 6 n)
    (s.modKernel e.gr.kern fun k => { k with estimate := some (s.time + 1000 * n) }, .done)

end Sys2Proof.Machine
end

