-- ==== Sys2Proof/Machine/Sign.lean ====
section
/-! DEFINITION. Convergence registers: CVDECL (R305), the signatures by which every tile and engine word issues (R292 to
R294), and what an exit does to them (R293). -/

namespace Sys2Proof.Machine

/-! ### The registers -/

def Cv.unset : Cv := ⟨.unset, false, [], [], 0, none, []⟩
def Group.cv (g : Group) (n : Nat) : Cv := Tbl.get Cv.unset g.cvs n
def Group.setCv (g : Group) (n : Nat) (c : Cv) : Group := { g with cvs := Tbl.set Cv.unset g.cvs n c }

/-- Nothing signed, no word recorded. -/
def Cv.cleared (c : Cv) : Cv := { c with st := .ready, signed := [], pc := 0, word := none, waits := [] }

/-- Every member has signed. -/
def Cv.full (c : Cv) : Bool := c.members.all c.signed.contains

/-- CVDECL (R305): the set is fixed unless the register gathers. -/
def execCvdecl (c : BitVec 3) (l : BitVec 1) (a : BitVec 6) (s : State) : Host.Outcome State Fault Refusal :=
  runWord (.cvdecl c l a) (fun e s =>
    let m := (e.t.getX2 a).toNat
    let live := if l = 1#1 then e.gr.live
      else (e.gr.liveIn (warpOf e.tid)).filter fun (t : Thread) => bit m (laneOf t.tid)
    let set := live.map Thread.tid
    if set.isEmpty then s.faultAt e 0x01 7 0
    else if (e.gr.cv c.toNat).st == .gathering then s.faultAt e 0x31 4 0
    else
      (s.modGroup e.g fun g => g.setCv c.toNat { Cv.unset with st := .ready, all := l = 1#1, members := set }).retire e
        e.t 1) s

/-! ### The words that sign -/

/-- What a signed word does when it issues, by its operands and the signers. -/
def issueWord (i : Instr) (signers : List Nat) : Env → W64 → State → State × Issued :=
  match i with
  | .copy x _ => issueCmd .copy x none
  | .copyR x _ => issueCmd .copyR x none
  | .chain x _ => issueCmd .chain x none
  | .gather x y _ => issueCmd .gather x (some y)
  | .scatter x y _ => issueCmd .scatter x (some y)
  | .commit _ => issueCommit
  | .enq x y _ => issueEnq x y
  | .evt x _ e => issueEvt x e
  | .atomR x _ => issueCmd .atomR x none
  | .tld t a b _ => issueMove true t a b
  | .tst t a b _ => issueMove false t a b
  | .tzero t _ => issueTzero t
  | .qnt d s h a _ => issueQnt d s h a
  | .tcvt d s _ => issueTcvt d s
  | .mmaBf16 a t u _ f k => issueMma 1 a t u f k
  | .mmaF16 a t u _ f k => issueMma 2 a t u f k
  | .mmaE4m3 a t u _ f k => issueMma 3 a t u f k
  | .mmaE5m2 a t u _ f k => issueMma 4 a t u f k
  | .mmaE2m3 a t u _ f k => issueMma 5 a t u f k
  | .mmaE3m2 a t u _ f k => issueMma 6 a t u f k
  | .mmaE2m1 a t u _ f k => issueMma 7 a t u f k
  | .mmaDl8 a t u _ f k => issueMma 8 a t u f k
  | .mmaS8 a t u _ f k => issueMma 9 a t u f k
  | .mmaS4 a t u _ f k => issueMma 10 a t u f k
  | .scacc d p a _ => issueScacc d p a
  | .aclr a _ => issueAclr a
  | .amov a t r _ => issueAmov a t r
  | .ast a x b _ => issueAccMove false a x b
  | .ald a x b _ => issueAccMove true a x b
  | .tchk d t _ => issueTchk d t signers
  | _ => fun _ _ s => (s, .done)

/-- The class of a signed operation, as a WAIT or header field covers it: 2 for C, 3 for M (R292). -/
def signClass : Instr → Option Nat
  | .copy _ _ => some 2
  | .copyR _ _ => some 2
  | .chain _ _ => some 2
  | .gather _ _ _ => some 2
  | .scatter _ _ _ => some 2
  | .commit _ => some 2
  | .atomR _ _ => some 2
  | .tld _ _ _ _ => some 3
  | .tst _ _ _ _ => some 3
  | .tzero _ _ => some 3
  | .qnt _ _ _ _ _ => some 3
  | .tcvt _ _ _ => some 3
  | .mmaBf16 _ _ _ _ _ _ => some 3
  | .mmaF16 _ _ _ _ _ _ => some 3
  | .mmaE4m3 _ _ _ _ _ _ => some 3
  | .mmaE5m2 _ _ _ _ _ _ => some 3
  | .mmaE2m3 _ _ _ _ _ _ => some 3
  | .mmaE3m2 _ _ _ _ _ _ => some 3
  | .mmaE2m1 _ _ _ _ _ _ => some 3
  | .mmaDl8 _ _ _ _ _ _ => some 3
  | .mmaS8 _ _ _ _ _ _ => some 3
  | .mmaS4 _ _ _ _ _ _ => some 3
  | .scacc _ _ _ _ => some 3
  | .aclr _ _ => some 3
  | .amov _ _ _ _ => some 3
  | .ast _ _ _ _ => some 3
  | .ald _ _ _ _ => some 3
  | .tchk _ _ _ => some 3
  | _ => none

/-- ENQ and EVT keep their signers at the word until they are performed (R100, R110). -/
def holdsSigners : Instr → Bool
  | .enq _ _ _ => true
  | .evt _ _ _ => true
  | _ => false

/-! ### Threads that wait on a register -/

/-- A thread waits, or is stopped while it waits, on `w`. -/
def Thread.waitsOn (t : Thread) (w : Wait) : Bool :=
  match t.run with
  | .waiting x => x == w
  | .stopped (some x) => x == w
  | _ => false

/-- Its wait is over. -/
def Thread.freed (t : Thread) : Thread :=
  { t with run := match t.run with | .waiting _ => .runnable | .stopped _ => .stopped none | r => r }

/-- Threads that wait to sign `n` anew go on (R293). -/
def State.freeSigners (s : State) (g n : Nat) : State :=
  s.modGroup g fun gr => gr.mapThreads fun t => if t.waitsOn (.sign n) then t.freed else t

/-- The signers an ENQ or EVT held go on past it. -/
def State.passHeld (s : State) (e : Env) (n : Nat) (but : Option Nat) : State :=
  match s.group? e.g with
  | none => s
  | some gr =>
    s.retireEach e (((Tbl.vals gr.threads).filter fun t => t.waitsOn (.engine n) && some t.tid != but).map fun t =>
      t.freed.advance 1)

/-- A fault for a signer of a dropped operation: at the word where it is held there, else at its next boundary with the
signing word in its record (R294). -/
def State.signerFault (s : State) (g tid n : Nat) (pc : W64) (stamp : Nat) (code sub : Byte) (addr : W64) : State :=
  match s.thread? g tid with
  | none => s
  | some t =>
    if t.run == .waiting (.engine n) then
      (s.modThread g tid Thread.freed).deliver g tid ⟨code, sub, addr, pc, t.pos, false⟩
    else
      (s.modThread g tid fun t => if t.waitsOn (.engine n) then t.freed else t).addLate g tid
        ⟨stamp, none, code, sub, addr, pc, false, false⟩

/-! ### Issue -/

/-- The member of lowest TID. -/
def Cv.lowest (c : Cv) : Nat := c.members.min?.getD 0

/-- The environment in which a set's operation issues: its lowest member, under a new operation number. -/
def State.envAt (s : State) (g tid op : Nat) : Option Env :=
  match s.group? g with
  | none => none
  | some gr =>
    match s.kernel? gr.kern, Tbl.find? gr.threads tid with
    | some k, some t => some ⟨g, tid, op, gr, k, t⟩
    | _, _ => none

/-- The operation of a register whose members have all signed: it waits for their accesses (R239), then issues. -/
def State.issueCv (s : State) (g : Nat) (cv : Cv) (i : Instr) (pc : W64) : State × Issued :=
  if s.accs.any fun a => cv.waits.contains a.id then (s, .stall)
  else
    let (op, s1) := s.free
    match s1.envAt g cv.lowest op with
    | none => (s, .done)
    | some e => issueWord i cv.signed e pc s1

/-- An ENQ of register `n` is abandoned: its signatures are withdrawn, and its signers stand at the word (R100). -/
def Group.unsign (g : Group) (n : Nat) : Group :=
  (g.setCv n (g.cv n).cleared).mapThreads fun t => if t.waitsOn (.engine n) || t.waitsOn (.sign n) then t.freed else t

/-- The signers of register `n` are complete, by a signature of `e`'s thread (`signs`) or by its exit: the operation
issues, fails its checks, or waits. True where it has issued or been dropped. The fault of a dropped operation reaches the
member of lowest TID at the word where its own signature is the last, and at its next boundary where it has moved on (R258,
R294; DEDUCED, log 20). -/
def State.endCv (e : Env) (n : Nat) (cv : Cv) (pc : W64) (signs : Bool) (r : State × Issued) : State × Bool :=
  let own := fun (s : State) => if signs then s.retire e e.t 1 else s
  match r with
  | (s, .stall) => (s, false)
  | (s, .going) =>
    let s := s.modGroup e.g fun g => g.setCv n cv
    (if signs then s.waitAt e (.engine n) else s, true)
  | (s, .page base size kind absent) => (s.pageAt e base size kind absent, false)
  | (s, .done) =>
    let s := (s.modGroup e.g fun g => g.setCv n cv.cleared).freeSigners e.g n
    ((own s).passHeld e n none, true)
  | (s, .fault code sub addr) =>
    let low := cv.lowest
    let s := ((s.modGroup e.g fun g => g.setCv n cv.cleared).freeSigners e.g n).passHeld e n (some low)
    if signs && low == e.tid then (s.faultAt e code sub addr, true)
    else ((own s).signerFault e.g low n pc s.fresh code sub addr, true)

/-- The operation of a register whose members have all signed issues. -/
def State.completeCv (s : State) (e : Env) (n : Nat) (cv : Cv) (i : Instr) (pc : W64) (signs : Bool) : State × Bool :=
  State.endCv e n cv pc signs (s.issueCv e.g cv i pc)

/-- An ENQ that has not been performed is abandoned by a halt: its signatures are withdrawn (R100). One whose exchange a peer
has in hand is decided by the answer (`State.swapAnswer`). -/
def Group.unenq (g : Group) : Group :=
  (List.range 8).foldl (fun g n =>
    let mine := fun (w : Swap) => w.pc == (g.cv n).pc
    match (g.cv n).word with
    | some (.enq _ _ _) =>
      if g.swaps.any fun w => mine w && w.phase.decides then g
      else { g.unsign n with swaps := g.swaps.filter fun w => !mine w }
    | _ => g) g

/-- Groups that a debugger halts abandon an ENQ that has not been performed (R100). -/
def State.unenqAll (s : State) (gs : List Nat) : State :=
  s.mapGroups fun n g => if gs.contains n then g.unenq else g

/-- A group is halting, being saved, or held: an ENQ whose exchange has not succeeded is abandoned (R100). -/
def State.stopping (s : State) (gr : Group) : Bool :=
  (gr.st != .running && gr.st != .dumping) || ((s.ctx? gr.ctx).map fun c => c.st != .running).getD false

/-- A peer answers the request of a member's ENQ: with a value, or with a failure (R100, R340). -/
def State.swapAnswer (s : State) (g tid num : Nat) (v : Option W64) (code sub : Byte) : State :=
  let (op, s) := s.free
  match s.envAt g tid op with
  | none => s
  | some e =>
    match e.gr.swaps.find? fun w => w.tid == tid && w.num == num with
    | none => s
    | some w =>
      match (List.range 8).find? fun n => (e.gr.cv n).st == .gathering && (e.gr.cv n).pc == w.pc && (e.gr.cv n).lowest == tid with
      | none => s.setSwap g tid none
      | some n =>
        let withdrawn := fun (s : State) => (s.setSwap g tid none).modGroup g fun gr => gr.unsign n
        if s.stopping e.gr && !w.phase.decides then withdrawn s
        else
        let r : State × Issued := match v with
          | none => s.swapFails e w code sub
          | some v => s.swapStep e w v
        match r.2 with
        | .going =>
          let afresh := ((r.1.group? g).map fun gr => gr.swaps.any fun w => w.tid == tid && w.phase == .read).getD false
          if s.stopping e.gr && afresh then withdrawn r.1 else r.1
        | .page b z k a => withdrawn (r.1.pageAt e b z k a)
        | .stall => withdrawn r.1
        | _ => (State.endCv e n (e.gr.cv n) w.pc false r).1

/-- The accesses of a thread that are not performed (R239). -/
def State.pendingIds (s : State) (g tid : Nat) : List Nat :=
  (s.accs.filter fun a => a.grp == g && a.tid == tid).map Access.id

/-- A member still to issue in this cycle signs register `n` or exits: signatures and exits of one cycle are taken together, and
the last of them brings about what they cause (R293). -/
def State.touchesLater (s : State) (g n : Nat) (cv : Cv) : Bool :=
  s.issuing.any fun i => i.grp == g && cv.members.contains i.tid && (i.cv == some n || i.exits)

/-- The cycle's signers of register `n`, held at the word until all of it is taken together, go on; an ENQ's or EVT's stay. -/
def State.releaseHeld (s : State) (e : Env) (n : Nat) : State :=
  match ((s.group? e.g).bind fun gr => (gr.cv n).word).map holdsSigners with
  | some false => s.passHeld e n none
  | _ => s

/-- So for the registers that nobody of the cycle touches after `e`'s thread. -/
def State.releaseAll (s : State) (e : Env) : List Nat → State
  | [] => s
  | n :: ns =>
    let s := if s.touchesLater e.g n (e.gr.cv n) then s else s.releaseHeld e n
    State.releaseAll s e ns

/-- A signature that was the last of its set, whose operation cannot issue yet, is not made: its word is taken again. -/
def Cv.unsigned (c : Cv) (tid : Nat) : Cv :=
  let left := c.signed.filter (· != tid)
  if left.isEmpty then c.cleared else { c with signed := left }

/-- The cycle's highest signer of register `n` takes its word again. -/
def State.withdrawLast (s : State) (e : Env) (n : Nat) : State :=
  match (s.group? e.g).bind fun gr => ((gr.live.filter fun t => t.waitsOn (.engine n)).map Thread.tid).max? with
  | none => s
  | some t =>
    (s.modGroup e.g fun gr => (gr.setCv n ((gr.cv n).unsigned t)).modThread t Thread.freed).releaseHeld e n

/-- A member has had its turn without a signature of its own: where nobody of the cycle touches register `n` after it, a full
set's operation issues, and the cycle's signers go on (R293). -/
def State.settleCv (s : State) (g tid n : Nat) : State :=
  match s.envAt g tid 0 with
  | none => s
  | some e =>
    let cv := e.gr.cv n
    if s.touchesLater g n cv then s
    else match cv.word with
      | none => s
      | some i =>
        if cv.st == .gathering && cv.full && !(e.gr.swaps.any fun w => w.pc == cv.pc) then
          match s.completeCv e n cv i cv.pc false with
          | (s, true) => s
          | (s, false) => s.withdrawLast e n
        else s.releaseHeld e n

/-- So for some registers. -/
def State.settleCvs (s : State) (g tid : Nat) : List Nat → State
  | [] => s
  | n :: ns => State.settleCvs (s.settleCv g tid n) g tid ns

/-- A thread reaches a word that signs register `n` (R293). -/
def State.sign (s : State) (e : Env) (i : Instr) (n : Nat) : State :=
  let cv := e.gr.cv n
  let pc := e.t.pos.pc
  if cv.st == .unset then s.faultAt e 0x31 3 0
  else if !cv.members.contains e.tid then s.faultAt e 0x31 1 0
  else if cv.st == .gathering && cv.signed.contains e.tid then (s.waitAt e (.sign n)).settleCv e.g e.tid n
  else if cv.st == .gathering && cv.pc != pc then (s.faultAt e 0x31 2 0).settleCv e.g e.tid n
  else
    let cv := { cv with
      st := .gathering
      signed := cv.signed ++ [e.tid]
      pc := pc
      word := some i
      waits := cv.waits ++ s.pendingIds e.g e.tid }
    let signs := s.modGroup e.g fun g => g.setCv n cv
    if s.touchesLater e.g n cv then signs.waitAt e (.engine n)
    else if cv.full then
      match s.completeCv e n cv i pc true with
      | (s, true) => s
      | (s, false) => s.releaseHeld e n
    else if holdsSigners i then signs.waitAt e (.engine n)
    else (signs.retire e e.t 1).releaseHeld e n

/-- A word that signs the register of its CV field. -/
def runSigned (i : Instr) (n : BitVec 3) : State → Host.Outcome State Fault Refusal :=
  runWord i fun e s => s.sign e i n.toNat

/-! ### Exits (R293) -/

/-- A member that leaves its set. -/
def Cv.without (c : Cv) (tid : Nat) : Cv :=
  { c with members := c.members.filter (· != tid), signed := c.signed.filter (· != tid) }

/-- The exit of `tid` completes the register: the other members have all signed, and it had too or leaves an all set. -/
def Cv.completedBy (c : Cv) (tid : Nat) : Bool :=
  c.st == .gathering && c.members.contains tid && (c.all || c.signed.contains tid) && (c.without tid).signed != []
    && (c.without tid).full

/-- The slot that serves the warp a tile operation counts in. -/
def State.slotOf (s : State) (o : TileOp) : Nat :=
  ((((s.group? o.grp).bind fun gr => Tbl.find? gr.warps o.warp).map Warp.place).getD 0) % 4

/-- A tile operation that an exit has just completed stands before those of this cycle, of later numbers than the exit's own,
that slots after the exit's have issued (R291). -/
def State.enterBySlot (s : State) (e : Env) : State :=
  let c := s.core e.gr.core
  match c.tileq.getLast? with
  | none => s
  | some o =>
    let before := fun (x : TileOp) => !(e.op < x.id && e.warp.place % 4 < s.slotOf x)
    let q := c.tileq.dropLast
    s.setCore e.gr.core { c with tileq := q.takeWhile before ++ o :: q.dropWhile before }

/-- The operations that an exit completes issue before it; false while one of them waits. -/
def State.exitIssues (s : State) (e : Env) : List Nat → State × Bool
  | [] => (s, true)
  | n :: ns =>
    match (s.group? e.g).map fun gr => gr.cv n with
    | none => (s, true)
    | some cv =>
      if cv.completedBy e.tid && !s.touchesLater e.g n cv then
        match cv.word with
        | none => State.exitIssues s e ns
        | some i =>
          match s.completeCv e n (cv.without e.tid) i cv.pc false with
          | (t, true) =>
            let entered := (s.core e.gr.core).tileq.length < (t.core e.gr.core).tileq.length
            State.exitIssues (if entered then t.enterBySlot e else t) e ns
          | r => r
      else State.exitIssues s e ns

/-- CONV_ORPHAN for every signer of a dropped operation. -/
def State.orphan (s : State) (g n : Nat) (pc : W64) : List Nat → State
  | [] => s
  | t :: ts => State.orphan (s.signerFault g t n pc s.fresh 0x30 1 0) g n pc ts

/-- What is left to do when a thread has exited: it leaves its sets, and an unsigned member of a mask set drops the
operation being gathered. -/
def State.exitCvs (s : State) (g tid : Nat) : List Nat → State
  | [] => s
  | n :: ns =>
    match (s.group? g).map fun gr => gr.cv n with
    | none => s
    | some cv =>
      let s :=
        if !cv.members.contains tid then s
        else if cv.st == .gathering && !cv.all && !cv.signed.contains tid then
          ((s.modGroup g fun gr => gr.setCv n (cv.without tid).cleared).freeSigners g n).orphan g n cv.pc cv.signed
        else s.modGroup g fun gr => gr.setCv n (cv.without tid)
      State.exitCvs s g tid ns

/-! ### The tile words (R308 to R317) and the engine words (R100, R110, R255 to R257, R344) -/

def execCopy (x : BitVec 6) (c : BitVec 3) (s : State) :
    Host.Outcome State Fault Refusal := runSigned (.copy x c) c s
def execCopyR (x : BitVec 6) (c : BitVec 3) (s : State) :
    Host.Outcome State Fault Refusal := runSigned (.copyR x c) c s
def execChain (x : BitVec 6) (c : BitVec 3) (s : State) :
    Host.Outcome State Fault Refusal := runSigned (.chain x c) c s
def execGather (x : BitVec 6) (y : BitVec 6) (c : BitVec 3) (s : State) :
    Host.Outcome State Fault Refusal := runSigned (.gather x y c) c s
def execScatter (x : BitVec 6) (y : BitVec 6) (c : BitVec 3) (s : State) :
    Host.Outcome State Fault Refusal := runSigned (.scatter x y c) c s
def execCommit (c : BitVec 3) (s : State) :
    Host.Outcome State Fault Refusal := runSigned (.commit c) c s
def execEnq (x : BitVec 6) (y : BitVec 6) (c : BitVec 3) (s : State) :
    Host.Outcome State Fault Refusal := runSigned (.enq x y c) c s
def execEvt (x : BitVec 6) (c : BitVec 3) (e : BitVec 8) (s : State) :
    Host.Outcome State Fault Refusal := runSigned (.evt x c e) c s
def execAtomR (x : BitVec 6) (c : BitVec 3) (s : State) :
    Host.Outcome State Fault Refusal := runSigned (.atomR x c) c s
def execTld (t : BitVec 4) (a : BitVec 6) (b : BitVec 6) (c : BitVec 3) (s : State) :
    Host.Outcome State Fault Refusal := runSigned (.tld t a b c) c s
def execTst (t : BitVec 4) (a : BitVec 6) (b : BitVec 6) (c : BitVec 3) (s : State) :
    Host.Outcome State Fault Refusal := runSigned (.tst t a b c) c s
def execTzero (t : BitVec 4) (c : BitVec 3) (s : State) :
    Host.Outcome State Fault Refusal := runSigned (.tzero t c) c s
def execQnt (d : BitVec 4) (s : BitVec 4) (h : BitVec 3) (a : BitVec 6) (c : BitVec 3) (st : State) :
    Host.Outcome State Fault Refusal := runSigned (.qnt d s h a c) c st
def execTcvt (d : BitVec 4) (s : BitVec 4) (c : BitVec 3) (st : State) :
    Host.Outcome State Fault Refusal := runSigned (.tcvt d s c) c st
def execMmaBf16 (a : BitVec 5) (t : BitVec 4) (u : BitVec 4) (c : BitVec 3) (f : BitVec 2) (k : BitVec 6) (s : State) :
    Host.Outcome State Fault Refusal := runSigned (.mmaBf16 a t u c f k) c s
def execMmaF16 (a : BitVec 5) (t : BitVec 4) (u : BitVec 4) (c : BitVec 3) (f : BitVec 2) (k : BitVec 6) (s : State) :
    Host.Outcome State Fault Refusal := runSigned (.mmaF16 a t u c f k) c s
def execMmaE4m3 (a : BitVec 5) (t : BitVec 4) (u : BitVec 4) (c : BitVec 3) (f : BitVec 2) (k : BitVec 6) (s : State) :
    Host.Outcome State Fault Refusal := runSigned (.mmaE4m3 a t u c f k) c s
def execMmaE5m2 (a : BitVec 5) (t : BitVec 4) (u : BitVec 4) (c : BitVec 3) (f : BitVec 2) (k : BitVec 6) (s : State) :
    Host.Outcome State Fault Refusal := runSigned (.mmaE5m2 a t u c f k) c s
def execMmaE2m3 (a : BitVec 5) (t : BitVec 4) (u : BitVec 4) (c : BitVec 3) (f : BitVec 2) (k : BitVec 6) (s : State) :
    Host.Outcome State Fault Refusal := runSigned (.mmaE2m3 a t u c f k) c s
def execMmaE3m2 (a : BitVec 5) (t : BitVec 4) (u : BitVec 4) (c : BitVec 3) (f : BitVec 2) (k : BitVec 6) (s : State) :
    Host.Outcome State Fault Refusal := runSigned (.mmaE3m2 a t u c f k) c s
def execMmaE2m1 (a : BitVec 5) (t : BitVec 4) (u : BitVec 4) (c : BitVec 3) (f : BitVec 2) (k : BitVec 6) (s : State) :
    Host.Outcome State Fault Refusal := runSigned (.mmaE2m1 a t u c f k) c s
def execMmaDl8 (a : BitVec 5) (t : BitVec 4) (u : BitVec 4) (c : BitVec 3) (f : BitVec 2) (k : BitVec 6) (s : State) :
    Host.Outcome State Fault Refusal := runSigned (.mmaDl8 a t u c f k) c s
def execMmaS8 (a : BitVec 5) (t : BitVec 4) (u : BitVec 4) (c : BitVec 3) (f : BitVec 2) (k : BitVec 6) (s : State) :
    Host.Outcome State Fault Refusal := runSigned (.mmaS8 a t u c f k) c s
def execMmaS4 (a : BitVec 5) (t : BitVec 4) (u : BitVec 4) (c : BitVec 3) (f : BitVec 2) (k : BitVec 6) (s : State) :
    Host.Outcome State Fault Refusal := runSigned (.mmaS4 a t u c f k) c s
def execScacc (d : BitVec 5) (p : BitVec 5) (a : BitVec 6) (c : BitVec 3) (s : State) :
    Host.Outcome State Fault Refusal := runSigned (.scacc d p a c) c s
def execAclr (a : BitVec 5) (c : BitVec 3) (s : State) :
    Host.Outcome State Fault Refusal := runSigned (.aclr a c) c s
def execAmov (a : BitVec 5) (t : BitVec 4) (r : BitVec 1) (c : BitVec 3) (s : State) :
    Host.Outcome State Fault Refusal := runSigned (.amov a t r c) c s
def execAst (a : BitVec 5) (x : BitVec 6) (b : BitVec 6) (c : BitVec 3) (s : State) :
    Host.Outcome State Fault Refusal := runSigned (.ast a x b c) c s
def execAld (a : BitVec 5) (x : BitVec 6) (b : BitVec 6) (c : BitVec 3) (s : State) :
    Host.Outcome State Fault Refusal := runSigned (.ald a x b c) c s
def execTchk (d : BitVec 6) (t : BitVec 4) (c : BitVec 3) (s : State) :
    Host.Outcome State Fault Refusal := runSigned (.tchk d t c) c s

end Sys2Proof.Machine
end

