-- ==== Sys2Proof/Machine/Ctrl.lean ====
section
/-! DEFINITION. Control words: branches, calls and returns (R168 to R171), REP (R138, R172), EXIT (R173), WAIT (R240), BAR and
BARCFG (R243 to R247), MWAIT (R220), HALTG (R128), YIELD (R143), TRAP and RFT (R174, R177), BKPT (R360), ACMARK and TRK
(R353, R356), COMMIT's place being with the engine words. -/

namespace Sys2Proof.Machine

/-! ### Transfers -/

/-- Look at a transfer's target (R168): a header is entered, else BAD_TARGET `sub`; `mis` where low bits are refused. -/
def State.target (s : State) (e : Env) (t : W64) (mis : Bool) (sub : Byte) (go : State → State) : State :=
  if mis && t.toNat % 4 != 0 then s.faultAt e 0x03 3 t
  else
    match s.fetch e.gr t with
    | (s, .page base size absent) => s.pageAt e base size needsFetch absent
    | (s, .fault c sub) => s.faultAt e c sub t
    | (s, .ok w) => if isHeader w then go s else s.faultAt e 0x03 sub t

/-- The target of BRA and CALL. -/
def Thread.relTarget (t : Thread) (o : BitVec 18) : W64 := t.pos.pc + 4 * o.signExtend 64

/-- A call: the position after the word is pushed (R170). -/
def Thread.callTo (t : Thread) (target : W64) : Thread :=
  { t with stack := t.pos.skip 1 :: t.stack }.jump target

def execBra (o : BitVec 18) (g : BitVec 6) (s : State) : Host.Outcome State Fault Refusal :=
  runWord (.bra o g) (fun e s =>
    let t := e.t.relTarget o
    s.target e t false 1 fun s => s.retireAt e (e.t.jump t)) s

def execBrx (a g : BitVec 6) (s : State) : Host.Outcome State Fault Refusal :=
  runWord (.brx a g) (fun e s =>
    let t := e.t.getX2 a
    s.target e t true 2 fun s => s.retireAt e (e.t.jump t)) s

def execCall (o : BitVec 18) (g : BitVec 6) (s : State) : Host.Outcome State Fault Refusal :=
  runWord (.call o g) (fun e s =>
    let t := e.t.relTarget o
    if 31 ≤ e.t.stack.length then s.faultAt e 0x01 0x15 0
    else s.target e t false 1 fun s => s.retireAt e (e.t.callTo t)) s

def execCallx (a g : BitVec 6) (s : State) : Host.Outcome State Fault Refusal :=
  runWord (.callx a g) (fun e s =>
    let t := e.t.getX2 a
    if 31 ≤ e.t.stack.length then s.faultAt e 0x01 0x15 0
    else s.target e t true 2 fun s => s.retireAt e (e.t.callTo t)) s

def execRet (g : BitVec 6) (s : State) : Host.Outcome State Fault Refusal :=
  runWord (.ret g) (fun e s =>
    match e.t.stack with
    | [] => s.faultAt e 0x01 0x16 0
    | p :: ps => s.retireAt e { e.t with pos := p, stack := ps }) s

/-! ### REP (R138) -/

/-- The sub-code of a decoding error (R70). -/
def errorSub : DecodeError → Byte
  | .truncated => 8
  | .unassigned => 1
  | .headerMark => 2
  | .reservedField => 3

/-- The class check of R62 step 2: the sub-code of CLASS_MISMATCH, if any (R56, R57). -/
def classSub (hdr : W32) (w : Nat) : Option Byte :=
  let cls := bits hdr.toNat 4 3
  match classOf (w / 2 ^ 24) with
  | none => none
  | some c => if cls == 5 || c == cls || w / 2 ^ 24 == 0 then none else some (BitVec.ofNat 8 (16 * c + cls))

/-- The places of the fields a MARK selects. -/
def markPlaces (m : Nat) : List Nat := [18, 12, 6, 0].filter fun p => bit m (p / 6)

/-- What the checks of a REP on its word come to, in order (R62, R138): a fault, if any. -/
def repCheck (hdr : W32) (k : Kernel) (count mark stride w : Nat) : Option (Byte × Byte) :=
  match classSub hdr w with
  | some sub => some (0x04, sub)
  | none =>
    match decodeWords [w, 0] with
    | .error e => some (0x01, errorSub e)
    | .ok i =>
      let us := regUses i
      let cls := (classOf (w / 2 ^ 24)).getD 4
      let subs := (illegal i).toList
        ++ (if (markPlaces mark).any fun p => us.all fun u => u.at_ != p then [9] else [])
        ++ (if 2 ≤ cls || w / 2 ^ 24 == 4 then [0x17] else [])
      match (subs.map BitVec.toNat).min? with
      | some sub => some (0x01, BitVec.ofNat 8 sub)
      | none =>
        match regRange k.allot k.tiles k.accs i with
        | some sub => some (0x05, sub)
        | none =>
          let marked := us.filter fun u => (markPlaces mark).contains u.at_
          if marked.any fun u => stride % u.k != 0 then some (0x01, 6)
          else if 0 < count && marked.any fun u => k.allot < u.reg.toNat + (count - 1) * stride + u.k then some (0x05, 3)
          else none

/-- A fault of R57 that the repeated word itself takes: CLASS_MISMATCH, and 0xC7 in its place. -/
def framing (code sub : Byte) : Bool := code = 0x04 || (code = 0x01 && sub = 0x02)

/-- REP: its word is checked here once (R138). A word of another class, or 0xC7, faults as that word (R57), any other check
at the REP (DEDUCED, log 21). -/
def execRep (c : BitVec 8) (m st : BitVec 4) (s : State) : Host.Outcome State Fault Refusal :=
  runWord (.rep c m st) (fun e s =>
    if e.t.pos.left ≤ 1 then s.faultAt e 0x01 8 0
    else
      match s.fetch e.gr (e.t.pos.pc + 4) with
      | (s, .page base size absent) => s.pageAt e base size needsFetch absent
      | (s, .fault code sub) => s.faultAt e code sub (e.t.pos.pc + 4)
      | (s, .ok w) =>
        match repCheck e.t.pos.hdr e.k c.toNat m.toNat st.toNat w with
        | some (code, sub) =>
          if framing code sub then s.deliver e.g e.tid ⟨code, sub, 0, e.t.pos.pc + 4, e.t.pos.skip 1, false⟩
          else s.faultAt e code sub 0
        | none =>
          if c = 0#8 then s.retire e e.t 2
          else s.retireAt e { e.t with
            rep := some ⟨c.toNat, st.toNat, m, 0, BitVec.ofNat 32 w⟩, pos := e.t.pos.skip 1 }) s

/-! ### Counters at a WAIT or header (R54, R237, R240, R259) -/

def under (q : List Nat) (n : Nat) : Bool := n == 7 || q.length ≤ n

/-- Every field's counter is at or below its threshold. -/
def Waits.met (w : Waits) (wp : Warp) : Bool := under wp.lq w.l && under wp.sq w.s && under wp.cq w.c && under wp.mq w.m

/-- The field of a class: 2 for C, 3 for M. -/
def Waits.field (w : Waits) (cls : Nat) : Nat := match cls with | 0 => w.l | 1 => w.s | 2 => w.c | _ => w.m

/-- The counter of a class. -/
def Warp.queue (w : Warp) (cls : Nat) : List Nat := match cls with | 0 => w.lq | 1 => w.sq | 2 => w.cq | _ => w.mq

/-- A thread has signed a register whose operation has not issued, of a class a field covers (R292). -/
def Group.owes (g : Group) (tid : Nat) (w : Waits) : Bool :=
  g.cvs.any fun c => c.2.st == .gathering && c.2.signed.contains tid &&
    ((c.2.word.bind signClass).map fun k => w.field k != 7).getD false

/-- Failures whose operation the WAIT or header has found performed are delivered from here on (R259). -/
def Thread.found (t : Thread) (wp : Warp) (w : Waits) : Thread :=
  { t with late := t.late.map fun l =>
      match l.needs with
      | some (k, op) => if w.field k != 7 && !(wp.queue k).contains op then { l with needs := none } else l
      | none => l }

def execWait (m c st l : BitVec 3) (s : State) : Host.Outcome State Fault Refusal :=
  runWord (.wait m c st l) (fun e s =>
    let w : Waits := ⟨l.toNat, st.toNat, c.toNat, m.toNat⟩
    if e.warp.cannotClose then s
    else
      let s := (s.closeBatch e.g (warpOf e.tid)).retireOps e.g
      match s.envAt e.g e.tid e.op with
      | none => s
      | some e =>
        if w.met e.warp && !e.gr.owes e.tid w then s.retire e { e.t.found e.warp w with run := .runnable } 1
        else s.waitAt e (.counters w)) s

/-! ### Barriers (R243 to R247) -/

/-- The mask of the warps a group occupies. -/
def Group.allWarps (g : Group) : BitVec 16 := BitVec.ofNat 16 (2 ^ g.warps.length - 1)
def Group.bar (g : Group) (n : Nat) : Barrier := (Tbl.find? g.barriers n).getD ⟨g.allWarps, []⟩
def Group.setBar (g : Group) (n : Nat) (b : Barrier) : Group := { g with barriers := Tbl.put g.barriers n b }

/-- Every thread of the expected set has arrived. -/
def Group.allArrived (g : Group) (b : Barrier) : Bool :=
  g.live.all fun t => !b.wmask.getLsbD (warpOf t.tid) || b.pend.contains t.tid

/-- A generation completes: every PEND bit is cleared and its waiters go on (R244). -/
def State.releaseBar (s : State) (e : Env) (n : Nat) : State :=
  match s.group? e.g with
  | none => s
  | some gr =>
    let waiters := (Tbl.vals gr.threads).filter fun t => t.waitsOn (.barrier n)
    (s.modGroup e.g fun g => g.setBar n { g.bar n with pend := [] }).retireEach e
      (waiters.map fun t => t.freed.advance 1)

/-- A re-arrival that the generation just completed had blocked: SYNC waits on, ARR is complete. -/
def Thread.rearrival (t : Thread) (n : Nat) : Option Bool :=
  match t.run with
  | .waiting (.rearrive m sync) => if m = n then some sync else none
  | _ => none

/-- The blocked re-arrivals arrive in the new generation (R244). -/
def State.rearriveEach (s : State) (e : Env) (n : Nat) : List Thread → State
  | [] => s
  | t :: ts =>
    match t.rearrival n with
    | none => State.rearriveEach s e n ts
    | some sync =>
      let s := s.modGroup e.g fun g => g.setBar n { g.bar n with pend := (g.bar n).pend ++ [t.tid] }
      let s := if sync then s.modThread e.g t.tid fun t => { t with run := .waiting (.barrier n) }
        else s.retireEach e [t.freed.advance 1]
      State.rearriveEach s e n ts

/-- A thread stopped while its re-arrival was blocked takes the word again when it resumes (R131). -/
def Thread.unblocked (t : Thread) (n : Nat) : Thread :=
  match t.run with
  | .stopped (some (.rearrive m _)) => if m = n then t.freed else t
  | _ => t

/-- The completion of a generation, the re-arrivals it had blocked, and the completion these cause (R244, R245). -/
def State.completeBar (s : State) (e : Env) (n : Nat) : State :=
  let s := s.releaseBar e n
  match s.group? e.g with
  | none => s
  | some gr =>
    let s := (s.modGroup e.g fun g => g.mapThreads fun t => t.unblocked n).rearriveEach e n (Tbl.vals gr.threads)
    match s.group? e.g with
    | none => s
    | some gr => if (gr.bar n).pend != [] && gr.allArrived (gr.bar n) then s.releaseBar e n else s

/-- Complete a barrier whose open generation expects nobody more. -/
def State.checkBar (s : State) (e : Env) (n : Nat) : State :=
  match s.group? e.g with
  | none => s
  | some gr => if (gr.bar n).pend != [] && gr.allArrived (gr.bar n) then s.completeBar e n else s

def State.checkBars (s : State) (e : Env) : List Nat → State
  | [] => s
  | n :: ns => State.checkBars (s.checkBar e n) e ns

/-- ARR and SYNC: an arrival, as a release of the thread's own accesses (R246); `sync` waits for the completion. The
release is made by not arriving before these accesses are performed (DESIGN CHOICE, log 21). -/
def State.arrive (s : State) (e : Env) (n : Nat) (sync : Bool) : State :=
  let b := e.gr.bar n
  if !b.wmask.getLsbD (warpOf e.tid) then s.faultAt e 0x33 2 0
  else if s.pending e.g e.tid then s
  else if b.pend.contains e.tid then s.waitAt e (.rearrive n sync)
  else
    let b := { b with pend := b.pend ++ [e.tid] }
    let s := s.modGroup e.g fun g => g.setBar n b
    if e.gr.allArrived b then (s.completeBar e n).retire e e.t 1
    else if sync then s.waitAt e (.barrier n)
    else s.retire e e.t 1

def execBar (o : BitVec 2) (b : BitVec 4) (p : BitVec 5) (s : State) : Host.Outcome State Fault Refusal :=
  runWord (.bar o b p) (fun e s =>
    let n := b.toNat
    let pend := (e.gr.bar n).pend.contains e.tid
    match o.toNat with
    | 0 => s.arrive e n false
    | 1 => if pend then s.waitAt e (.barrier n) else s.retire e e.t 1
    | 2 => s.arrive e n true
    | _ => s.retire e (e.t.setP p.toNat !pend) 1) s

/-- BARCFG (R247). An invalid mask is ILLEGAL_OP 0x07 whatever the phase, as the ILLEGAL_OP checks come before execution
faults (R62; DEDUCED, log 21). -/
def execBarcfg (b : BitVec 4) (a : BitVec 6) (s : State) : Host.Outcome State Fault Refusal :=
  runWord (.barcfg b a) (fun e s =>
    let m := (e.t.getX a).toNat
    if m == 0 || (m &&& e.gr.allWarps.toNat) != m then s.faultAt e 0x01 7 0
    else if (e.gr.bar b.toNat).pend != [] then s.faultAt e 0x33 3 0
    else (s.modGroup e.g fun g => g.setBar b.toNat ⟨BitVec.ofNat 16 m, []⟩).retire e e.t 1) s

/-! ### EXIT (R173) -/

/-- The thread as EXIT leaves it. -/
def Thread.exit (t : Thread) : Thread :=
  { t with run := .exited, monitor := none, handler := none, rep := none, again := none, pass := false, late := [] }

/-- The other live threads of a thread's warp. -/
def Group.others (g : Group) (tid : Nat) : List Thread := (g.liveIn (warpOf tid)).filter fun t => t.tid != tid

/-- EXIT (R173). The group's end takes the failure of an exited issuer: where it held several, the first it would have taken
(R259; DESIGN CHOICE, log 22). -/
def execExit (g : BitVec 6) (s : State) : Host.Outcome State Fault Refusal :=
  runWord (.exit g) (fun e s =>
    let last := (e.gr.others e.tid).isEmpty
    let mine := (List.range 8).filter fun n => (e.gr.cv n).members.contains e.tid
    if last && e.warp.cannotClose then s.releaseAll e mine
    else
      match s.exitIssues e (List.range 8) with
      | (s, false) => s.releaseAll e mine
      | (s, true) =>
        match s.thread? e.g e.tid with
        | none => s
        | some t =>
          let s := if t.handler.isSome && e.gr.holder == some e.tid then s.dropHolds e.g else s
          let s := s.modGroup e.g fun gr =>
            { gr with failing := gr.failing.or ((firstLate t.late).map fun l => (l.code, l.sub)) }
          let s := s.retireAt { e with t := t } t.exit
          let s := if last then s.closeBatch e.g (warpOf e.tid) else s
          (((s.checkBars e (List.range 16)).exitCvs e.g e.tid (List.range 8)).releaseAll e mine).slipCheck e.gr.core) s

/-! ### MWAIT (R220) -/

/-- A thread waits on its monitor up to a time. -/
def State.awaitUntil (s : State) (e : Env) (lim : Nat) : State :=
  (s.waitAt e (.monitor (some lim))).after (lim - s.time) (.mwaitTimeout e.g e.tid)

def execMwait (d a : BitVec 6) (t : BitVec 1) (s : State) : Host.Outcome State Fault Refusal :=
  runWord (.mwait d a t) (fun e s =>
    let done := fun (v : Nat) =>
      s.retire e { e.t.setX d (BitVec.ofNat 32 v) with monitor := none, run := .runnable } 1
    match e.t.monitor with
    | none => done 0
    | some m =>
      match m.code with
      | some c => done c
      | none =>
        if t = 1#1 then
          let us := (e.t.getX a).toNat
          if us == 0 then done 7 else s.awaitUntil e (s.time + 1000 * us)
        else s.waitAt e (.monitor none)) s

/-! ### HALTG, RFT and traps -/

/-- A target is halted: HALTED with its copy batches ended, SAVED or gone (R128). A SAVED target counts as halted although copy
commands that its frame keeps may not have started: their batches end only after the restore (DESIGN CHOICE, log 27). -/
def State.targetHalted (s : State) (t : Nat) : Bool :=
  match s.group? t with
  | none => true
  | some gr =>
    match gr.st with
    | .halted _ => !s.cmds.any fun c => (c.owner.map Prod.fst) == some t && c.st != .done
    | .saved => true
    | .ended => true
    | _ => false

/-- The groups a HALTG of scope `sc` targets. -/
def State.haltTargets (s : State) (g : Nat) (gr : Group) (sc : Nat) : List Nat :=
  (s.groups.filter fun x => x.1 != g && x.2.kern == gr.kern && (sc == 1 || x.2.core == gr.core)).map Prod.fst

/-- A group whose thread has executed HALTG: DUMPING, or halted or saved as such where a hold or a save came with it in the
cycle (R123). -/
def Group.dump (g : Group) : Group :=
  match g.st with
  | .halted _ => { g with st := .halted true }
  | .saving => { g with ret := match g.ret with | .halted _ => .halted true | _ => .dumping }
  | _ => { g with st := .dumping }

def execHaltg (sc : BitVec 1) (s : State) : Host.Outcome State Fault Refusal :=
  runWord (.haltg sc) (fun e s =>
    if e.t.handler.isNone then s.faultAt e 0x01 0x14 0
    else
      let s := if e.gr.holder.isSome then s
        else
          let ts := s.haltTargets e.g e.gr sc.toNat
          (s.modGroup e.g fun g => { g.dump with holder := some e.tid, scope := sc.toNat, targets := ts }).holdAll
            (.group e.g) ts
      match s.group? e.g with
      | none => s
      | some gr =>
        if gr.targets.all s.targetHalted then s.retire e { e.t with run := .runnable } 1 else s.waitAt e .haltg) s

def execRft (s : State) : Host.Outcome State Fault Refusal :=
  runWord .rft (fun e s =>
    match e.t.handler with
    | none => s.faultAt e 0x01 0x18 0
    | some h =>
      let back := fun (s : State) =>
        let s := if e.gr.holder == some e.tid then s.dropHolds e.g else s
        s.retireAt e (e.t.returnFrom h)
      if !h.moved then back s
      else if h.saved.pc.toNat % 4 != 0 then s.faultAt e 0x03 5 h.saved.pc
      else
        match s.fetch e.gr h.saved.pc with
        | (s, .page base size absent) => s.pageAt e base size needsFetch absent
        | (s, .fault c sub) => s.faultAt e c sub h.saved.pc
        | (s, .ok w) => if isHeader w then back s else s.faultAt e 0x03 5 h.saved.pc) s

/-- A word that raises a fault and saves the position after it (R174, R360); as the last counted word it leaves its clause
(R53). -/
def State.raise (s : State) (e : Env) (code : Byte) (n : BitVec 16) : State :=
  (if e.t.pos.left ≤ 1 then s.leaveClause e else s).deliver e.g e.tid
    ⟨code, n.setWidth 8, n.setWidth 64, e.t.pos.pc, e.t.pos.skip 1, false⟩

def execTrap (c : BitVec 16) (s : State) : Host.Outcome State Fault Refusal :=
  runWord (.trap c) (fun e s => s.raise e 0x7F c) s

/-! ### Breakpoints (R358, R360) -/

/-- The groups in the scope of a debugger's halt: 1 the group, 2 its kernel, 3 the context. -/
def State.scopeGroups (s : State) (g ctx kern scope : Nat) : List Nat :=
  match scope with
  | 0 => []
  | 1 => [g]
  | 2 => (s.groups.filter fun x => x.2.ctx == ctx && x.2.kern == kern).map Prod.fst
  | _ => (s.groups.filter fun x => x.2.ctx == ctx).map Prod.fst

/-- A thread stops where it stands, its YIELD discarded (R130, R143). A step whose word has not issued yet stays outstanding
through the halt and the RESUME, which R142 leaves open (DESIGN CHOICE, log 27). -/
def Thread.stop (t : Thread) : Thread :=
  { t with yieldLeft := 0, part := none, run := match t.run with | .runnable => .stopped none | .waiting w => .stopped (some w) | r => r }

/-- A thread stops after its word, once a failure that may reach it there has: its record, and the scope's hold (R131, R143,
R358). -/
def State.breakAt (s : State) (e : Env) (sub : Byte) (addr : W64) (scope : Nat) (t : Thread) : State :=
  let s := (s.retireAt e t).faultFirst e.g e.tid
  match s.thread? e.g e.tid with
  | none => s
  | some _ =>
    let gs := s.scopeGroups e.g e.gr.ctx e.gr.kern scope
    (((s.post e.gr.ctx (groupRec s e.gr e.k 0x70 sub false false e.t.pos.pc addr e.tid 0 (item 0 e.t.pos.pc.toNat))).modThread
      e.g e.tid Thread.stop).unenqAll gs).holdAll (.debugger scope) gs

def execBkpt (i : BitVec 16) (s : State) : Host.Outcome State Fault Refusal :=
  runWord (.bkpt i) (fun e s =>
    match (s.ctx? e.gr.ctx).bind Ctx.debug with
    | some scope => s.breakAt e (i.setWidth 8) (i.setWidth 64) scope (e.t.advance 1)
    | none => s.raise e 0x70 i) s

/-! ### Words that leave a mark -/

/-- YIELD (R143): a save or halt that begins in its cycle discards the lowered rank. -/
def execYield (s : State) : Host.Outcome State Fault Refusal :=
  runThread .yield (fun e => .done { e.t with yieldLeft := if e.gr.runs then 16 else 0 }) s

/-- The number of the key issue a word issues in (R354). -/
def Env.keyIssue (e : Env) : Nat := e.t.part.getD e.op

/-- ACMARK: the first issue of its key issue spills the context's accumulators on the core and writes the mark; the
charges of its own cycle are not in them yet (R353). -/
def execAcmark (m : BitVec 16) (s : State) : Host.Outcome State Fault Refusal :=
  runWord (.acmark m) (fun e s =>
    let c := s.core e.gr.core
    let s := if c.marks.contains e.keyIssue then s
      else
        let open_ := fun (k : Nat) => s.groups.any fun g => g.2.threads.any fun t => t.2.part == some k
        let s := s.setCore e.gr.core { c with marks := c.marks.filter open_ ++ [e.keyIssue] }
        (s.spill e.gr.core fun (a : Accum) => a.ctx == e.gr.ctx).account e.gr.ctx s.time
          (pack [(48, m.toNat), (32, Config.coreNumber e.gr.core), (12, 1)])
    s.retire e e.t 1) s

/-- TRK: one spoor record (R355, R356). -/
def execTrk (a : BitVec 6) (t : BitVec 12) (s : State) : Host.Outcome State Fault Refusal :=
  runWord (.trk a t) (fun e s =>
    let s := s.spoor e.gr.ctx
      [e.t.pos.pc.toNat, s.time, 2 ^ laneOf e.tid, 0, pack [(48, e.tid), (0, 0xFD)],
       pack [(32, (e.t.getX a).toNat), (0, t.toNat)], 0, pack [(32, e.k.id), (0, e.gr.lin)]]
    s.retire e e.t 1) s

end Sys2Proof.Machine
end

