-- ==== Sys2Proof/Machine/Special.lean ====
section
/-! DEFINITION. Special registers: SRD and SWR over every register of R73 (R166, R167), and CKM (R306). -/

namespace Sys2Proof.Machine

/-- Deep-scratch units of a die that contexts resident there hold (R82). -/
def State.unitsHeld (s : State) (die : Nat) : Nat :=
  ((s.ctxs.filter fun c => s.groups.any fun g =>
    g.2.ctx == c.1 && g.2.st.resident && dieOfCore g.2.core == die).map fun c => c.2.deep).sum

/-- DSTAT of a core's die (R202). -/
def State.dstat (s : State) (core : Nat) : Nat :=
  let d := s.die (dieOfCore core)
  pack [(8, d.thn.toNat), (4, 15 - min 15 (s.unitsHeld (dieOfCore core))), (0, b2n d.therm)]

/-- A special register's value (R73, R139). -/
def State.readSpr (s : State) (e : Env) (n : Nat) : Nat :=
  let cx := fun (f : Ctx → Nat) => ((s.ctx? e.gr.ctx).map f).getD 0
  let hd := fun (f : Handler → Nat) => (e.t.handler.map f).getD 0
  if n == 0x000 then 64
  else if n == 0x001 then e.tid
  else if n == 0x002 then laneOf e.tid
  else if n == 0x003 then warpOf e.tid
  else if n == 0x004 then e.gr.gx
  else if n == 0x005 then e.gr.gy
  else if n == 0x006 then e.gr.gz
  else if n == 0x008 then e.k.gdimx
  else if n == 0x009 then e.k.gdimy
  else if n == 0x00A then e.k.gdimz
  else if n == 0x00C then e.k.gszx
  else if n == 0x00D then e.k.gszy
  else if n == 0x00E then e.k.gszz
  else if n == 0x010 then e.k.id
  else if n == 0x011 then e.gr.ctx
  else if n == 0x012 then Config.coreNumber e.gr.firstCore
  else if n == 0x013 then e.k.nbv
  else if n == 0x014 then e.t.repidx
  else if n == 0x015 then e.k.allot
  else if n == 0x016 then e.k.agel
  else if n == 0x017 then cx Ctx.tenant
  else if 0x020 ≤ n && n ≤ 0x027 then (e.gr.seed (n - 0x020)).toNat
  else if 0x030 ≤ n && n ≤ 0x03F then (e.gr.tcs.word (n - 0x030)).toNat % 2 ^ 25
  else if n == 0x040 then e.warp.chkstat.toNat
  else if n == 0x041 then e.gr.retrymax.toNat
  else if n == 0x042 then e.warp.mode
  else if n == 0x043 then cx fun c => pack [(16, c.sden), (0, c.snum)]
  else if n == 0x044 then (s.core e.gr.core).trim
  else if n == 0x050 then s.time % 2 ^ 32
  else if n == 0x051 then e.t.ptimeh.toNat
  else if n == 0x060 then s.dstat e.gr.core
  else if n == 0x061 then cx Ctx.deep
  else if n == 0x070 then hd fun h => pack [(8, h.sub.toNat), (0, h.code.toNat)]
  else if n == 0x071 then hd fun h => h.saved.pc.toNat % 2 ^ 32
  else if n == 0x072 then hd fun h => h.saved.pc.toNat / 2 ^ 32
  else if n == 0x073 then hd fun h => h.addr.toNat % 2 ^ 32
  else if n == 0x074 then hd fun h => h.addr.toNat / 2 ^ 32
  else 0

/-- SRD; a read of PTIME latches PTIMEH (R8, R166). -/
def execSrd (d : BitVec 6) (n : BitVec 12) (s : State) : Host.Outcome State Fault Refusal :=
  runWord (.srd d n) (fun e s =>
    let v := BitVec.ofNat 32 (s.readSpr e n.toNat)
    let t := if n = 0x050#12 then { e.t with ptimeh := BitVec.ofNat 32 (s.time / 2 ^ 32) } else e.t
    s.retire e (t.setX d v) 1) s

/-- XPCL (`hi` false) or XPCH written in a handler: the saved position becomes a header, and the repeat state the fault
interrupted is cleared (R58, R139, R176). -/
def Handler.movePc (h : Handler) (hi : Bool) (v : W32) : Handler :=
  let pc := if hi then v ++ h.saved.pc.extractLsb' 0 32 else h.saved.pc.extractLsb' 32 32 ++ v
  { h with saved := Pos.header pc, rep := none, moved := true }

/-- A write of a writable register whose scope is the group or the warp. -/
def Group.writeSpr (g : Group) (w n : Nat) (v : W32) : Group :=
  if 0x020 ≤ n && n ≤ 0x027 then { g with hseed := Tbl.set 0 g.hseed (n - 0x020) v }
  else if 0x030 ≤ n && n ≤ 0x03F then { g with tcs := g.tcs.setWord (n - 0x030) (BitVec.ofNat 32 (v.toNat % 2 ^ 25)) }
  else if n == 0x040 then g.modWarp w fun wp => { wp with chkstat := v &&& 0x00FFFF0F }
  else if n == 0x041 then { g with retrymax := v }
  else g

/-- SWR (R167). -/
def execSwr (a : BitVec 6) (n : BitVec 12) (s : State) : Host.Outcome State Fault Refusal :=
  runWord (.swr a n) (fun e s =>
    let v := e.t.getX a
    if n = 0x041#12 && 7 < v.toNat then s.faultAt e 0x01 7 0
    else if n = 0x071#12 || n = 0x072#12 then
      s.retire e { e.t with handler := e.t.handler.map fun h => h.movePc (n = 0x072#12) v } 1
    else (s.modGroup e.g fun g => g.writeSpr (warpOf e.tid) n.toNat v).retire e e.t 1) s

/-- CKM: the warp's check mode (R306); a core with a warp in EXACT is pinned at the safe point (R324). -/
def execCkm (m : BitVec 2) (s : State) : Host.Outcome State Fault Refusal :=
  runWord (.ckm m) (fun e s =>
    ((s.modGroup e.g fun g => g.modWarp (warpOf e.tid) fun w => { w with mode := m.toNat }).retire e e.t 1).slipCheck
      e.gr.core) s

end Sys2Proof.Machine
end

