-- ==== Sys2Proof/Machine/Account.lean ====
section
/-! DEFINITION. Charges and accumulators (R348, R350, R351): a cycle's charges stand in the core until they settle into its
accumulators; ACCOUNT_SPILL; telemetry entries (R301). -/

namespace Sys2Proof.Machine

/-- An accumulator holds a charge's key (R351). -/
def Accum.keyed (a : Accum) (q : Charge) : Bool :=
  a.ctx == q.ctx && a.kern == q.kern % 65536 && a.pc == q.pc && a.cause == q.cause

/-- The accumulator charged least recently. -/
def oldestAccum : List Accum → Option Accum
  | [] => none
  | a :: as => match oldestAccum as with
    | some b => if a.last ≤ b.last then some a else some b
    | none => some a

/-- A slot-cycle granted in the running µs (R106). -/
def countGrant (ctx tenant : Nat) (region : Option Nat) : List Grant → List Grant
  | [] => [⟨ctx, tenant, region, 1⟩]
  | g :: l =>
    if g.ctx == ctx && g.tenant == tenant && g.region == region then { g with n := g.n + 1 } :: l
    else g :: countGrant ctx tenant region l

/-- The cycle of a charge is granted to its context, to be charged to its tenant and to its packet's region (R106). -/
def State.grant (s : State) (q : Charge) (l : List Grant) : List Grant :=
  countGrant q.ctx (((s.ctx? q.ctx).map Ctx.tenant).getD 0) ((s.kernel? (q.ctx * 2 ^ 32 + q.kern)).map Kernel.region) l

/-- One charge (R350, R351): to IDLE, to the accumulator of its key, to a free one, or to one that spills first. -/
def State.addCharge (s : State) (n : Nat) (q : Charge) : State :=
  let c := { s.core n with granted := s.grant q (s.core n).granted }
  if q.ctx == 0 then s.setCore n { c with idle := c.idle + 1 }
  else if c.accums.any (fun (a : Accum) => a.keyed q) then
    let bump := fun (a : Accum) => if a.keyed q then { a with count := a.count + 1, last := c.cyc } else a
    let s := s.setCore n { c with accums := c.accums.map bump }
    s.spill n (fun (a : Accum) => a.count == 2 ^ 32 - 1)
  else
    let s := s.setCore n c
    let s := if c.accums.length < 1024 then s
      else match oldestAccum c.accums with
        | some o => s.spill n (fun (a : Accum) => a == o)
        | none => s
    let c := s.core n
    s.setCore n { c with accums := c.accums ++ [Accum.mk q.ctx (q.kern % 65536) q.pc q.cause 1 c.cyc] }

def State.addCharges (s : State) (n : Nat) : List Charge → State
  | [] => s
  | q :: qs => State.addCharges (s.addCharge n q) n qs

/-- The last cycle of a core, with its charges, enters the counts (R350). -/
def State.settle (s : State) (n : Nat) : State :=
  let c := s.core n
  if c.charges.isEmpty then s
  else (s.setCore n { c with charges := [], cyc := c.cyc + 1 }).addCharges n c.charges

def State.settleCores (s : State) : List Nat → State
  | [] => s
  | n :: ns => State.settleCores (s.settle n) ns

/-- Every core's last cycle enters the counts. -/
def State.settleAll (s : State) : State := s.settleCores (s.cores.map Prod.fst)

/-- A context leaves RUNNING: what the cores hold for it is spilled (R351). -/
def State.leaveRunning (s : State) (id : Nat) : State := s.settleAll.spillAll fun a => a.ctx == id

/-- At every 1,000 µs boundary every accumulator spills (R351). -/
def execAccountSpill (s : State) : Host.Outcome State Fault Refusal := .next (s.settleAll.spillAll fun _ => true)

/-! ### Telemetry (R301) -/

/-- Add counted events to their fields: tenant, die, field, amount. -/
def State.addCounts (s : State) : List (Nat × Nat × Nat × Nat) → State
  | [] => s
  | (tenant, die, field, n) :: l =>
    let at_ := s.mgmt.tlmbase.toNat + 64 * (8 * tenant + die) + field
    State.addCounts (s.deviceWrite at_ 8 ((s.readN at_ 8 + n) % 2 ^ 64)) l

/-- The counts since the last addition go to the table in memory. -/
def execTelemetryAdd (s : State) : Host.Outcome State Fault Refusal :=
  .next (if s.mgmt.tlmbase = 0 then { s with telemetry := [] } else { s.addCounts s.telemetry with telemetry := [] })

end Sys2Proof.Machine
end

