-- ==== Sys2Proof/Machine/Mem.lean ====
section
/-! DEFINITION. The MEM-class words: loads and stores (R206, R207), LDA and STL (R212), ATOM and REDA (R213, R215), FENCE
and FENCE.ALIAS (R230, R233), PREF (R216), MARM (R217), scratch windows (R275, R276), TLBP (R277); and the performance
of an access (R208). -/

namespace Sys2Proof.Machine

/-! ### Global loads, stores and atomics -/

/-- An unmarked access before its address is known. -/
def askPlain (kind : AccKind) (level : Level) : Ask where
  kind := kind
  level := level
  scope := .core
  marked := false
  acquire := false
  release := false
  va := 0
  pas := []
  vas := []
  node := 0
  expiry := 0
  size := 0
  data := 0
  cmp := 0
  dst := 0
  sext := false
  offs := []
  wr := false

/-- A load to X[D] of size SZ (R207). -/
def askLoad (level : Level) (d : BitVec 6) (z : BitVec 4) : Ask :=
  { askPlain .load level with dst := d.toNat, size := szBytes z, sext := z == 1#4 || z == 3#4 }

/-- A store of the low bytes of X[D]. -/
def askStore (level : Level) (t : Thread) (d : BitVec 6) (z : BitVec 4) : Ask :=
  { askPlain .store level with size := szBytes z, data := t.getXs d (szRegs z) % 2 ^ (8 * szBytes z) }

def ldG (i : Instr) (d a : BitVec 6) (z : BitVec 4) : State → Host.Outcome State Fault Refusal :=
  runWord i fun e s => s.globalAccess e i (e.t.getX2 a) (szBytes z) 1 needsRead (askLoad .global d z)
def stG (i : Instr) (d a : BitVec 6) (z : BitVec 4) : State → Host.Outcome State Fault Refusal :=
  runWord i fun e s => s.globalAccess e i (e.t.getX2 a) (szBytes z) 1 needsWrite (askStore .global e.t d z)
def lda (i : Instr) (sc : Scope) (d a : BitVec 6) (z : BitVec 4) : State → Host.Outcome State Fault Refusal :=
  runWord i fun e s => s.globalAccess e i (e.t.getX2 a) (szBytes z) 2 needsRead
    { askLoad .global d z with scope := sc, marked := true, acquire := true }
def stl (i : Instr) (sc : Scope) (d a : BitVec 6) (z : BitVec 4) : State → Host.Outcome State Fault Refusal :=
  runWord i fun e s => s.globalAccess e i (e.t.getX2 a) (szBytes z) 2 needsWrite
    { askStore .global e.t d z with scope := sc, marked := true, release := true }

/-- The operand of an atomic and the value a CAS compares with (R68). -/
def atomOperand (t : Thread) (b : BitVec 6) (o : BitVec 4) : Nat × Nat :=
  if o == 12#4 then ((t.getX (b + 1)).toNat, (t.getX b).toNat)
  else if o == 13#4 then ((t.getX2 (b + 2)).toNat, (t.getX2 b).toNat)
  else (t.getXs b (opBRegs o), 0)

/-- ATOM and REDA (R213, R215); ORD bit 0 is acquire, bit 1 release. -/
def atomic (i : Instr) (kind : AccKind) (sc : Scope) (d a b : BitVec 6) (r : BitVec 2) (o : BitVec 4) :
    State → Host.Outcome State Fault Refusal :=
  runWord i fun e s =>
    let (x, c) := atomOperand e.t b o
    s.globalAccess e i (e.t.getX2 a) (atomBytes o) 2 needsBoth
      { askPlain kind .global with
        scope := sc, marked := true, acquire := r.getLsbD 0, release := r.getLsbD 1, data := x, cmp := c, dst := d.toNat }

def execLdG (d a : BitVec 6) (z : BitVec 4) (h : BitVec 2) (g : BitVec 6) (s : State) :
    Host.Outcome State Fault Refusal := ldG (.ldG d a z h g) d a z s
def execStG (d a : BitVec 6) (z : BitVec 4) (h : BitVec 2) (g : BitVec 6) (s : State) :
    Host.Outcome State Fault Refusal := stG (.stG d a z h g) d a z s
def execLdaCore (d a : BitVec 6) (z : BitVec 4) (h : BitVec 2) (g : BitVec 6) (s : State) :
    Host.Outcome State Fault Refusal := lda (.ldaCore d a z h g) .core d a z s
def execLdaDev (d a : BitVec 6) (z : BitVec 4) (h : BitVec 2) (g : BitVec 6) (s : State) :
    Host.Outcome State Fault Refusal := lda (.ldaDev d a z h g) .device d a z s
def execLdaSys (d a : BitVec 6) (z : BitVec 4) (h : BitVec 2) (g : BitVec 6) (s : State) :
    Host.Outcome State Fault Refusal := lda (.ldaSys d a z h g) .system d a z s
def execStlCore (d a : BitVec 6) (z : BitVec 4) (h : BitVec 2) (g : BitVec 6) (s : State) :
    Host.Outcome State Fault Refusal := stl (.stlCore d a z h g) .core d a z s
def execStlDev (d a : BitVec 6) (z : BitVec 4) (h : BitVec 2) (g : BitVec 6) (s : State) :
    Host.Outcome State Fault Refusal := stl (.stlDev d a z h g) .device d a z s
def execStlSys (d a : BitVec 6) (z : BitVec 4) (h : BitVec 2) (g : BitVec 6) (s : State) :
    Host.Outcome State Fault Refusal := stl (.stlSys d a z h g) .system d a z s
def execAtomCore (d a b : BitVec 6) (r : BitVec 2) (o : BitVec 4) (s : State) : Host.Outcome State Fault Refusal :=
  atomic (.atomCore d a b r o) (.atom o) .core d a b r o s
def execAtomDev (d a b : BitVec 6) (r : BitVec 2) (o : BitVec 4) (s : State) : Host.Outcome State Fault Refusal :=
  atomic (.atomDev d a b r o) (.atom o) .device d a b r o s
def execAtomSys (d a b : BitVec 6) (r : BitVec 2) (o : BitVec 4) (s : State) : Host.Outcome State Fault Refusal :=
  atomic (.atomSys d a b r o) (.atom o) .system d a b r o s
def execRedaDev (a b : BitVec 6) (r : BitVec 2) (o : BitVec 4) (s : State) : Host.Outcome State Fault Refusal :=
  atomic (.redaDev a b r o) (.reda o) .device 0 a b r o s
def execRedaSys (a b : BitVec 6) (r : BitVec 2) (o : BitVec 4) (s : State) : Host.Outcome State Fault Refusal :=
  atomic (.redaSys a b r o) (.reda o) .system 0 a b r o s

/-! ### Scratch, its windows, deep scratch (R200, R201, R275) -/

/-- What the touch of a window's block comes to. -/
inductive Touch where
  | ready
  | fault (code sub : Byte) (va : W64)
  | page (base : W64) (size : Nat) (absent : Bool)
  | damaged (code sub : Byte) (va : W64)
  | wait
  deriving DecidableEq, Repr

/-- The bytes of a block that a peer has answered with, in order. -/
def Window.answer (w : Window) (blk : Nat) : List Byte :=
  ((w.got.filter fun x => x.1 == blk).mergeSort fun x y => x.2.1 ≤ y.2.1).flatMap fun x => x.2.2

/-- A block in a peer's or a host's memory is asked for in 16 reads of 256 bytes; the touch waits for their answers, and fails
with them (R274, R332). A host's answer has values the spec does not give (log 19). -/
def State.fillRemote (s : State) (e : Env) (w : Window) (blk : Nat) (va : W64) (pas vas : List Nat) (node : Nat)
    (fill : State → List Byte → State × Touch) : State × Touch :=
  let waits := s.reqs.any fun r => match r.whose with | .fill g st b _ => g == e.g && st == w.s && b == blk | _ => false
  match w.failed with
  | some (b, code, sub) =>
    if b == blk then (s.modGroup e.g fun g => g.modWindow w.s fun w => { w with failed := none }, .damaged code sub va)
    else (s, .wait)
  | none =>
    if waits then (s, .wait)
    else if (w.answer blk).length == 4096 then fill s (w.answer blk)
    else if isHostNode node then
      let (n, s) := s.free
      fill (s.emit (.request n node (pas.headD 0) 4096 none none)) ((List.range 4096).map fun k => Config.remoteByte n k)
    else
      if s.portBlocked node (pas.headD 0) then (s, .wait)
      else match s.sendReads (fun p => .fill e.g w.s blk p) 0 ((List.range 16).map fun p =>
          let pa := pas.getD (256 * p) 0
          (node, pa, 256, s.viaOf e.gr.ctx e.gr.core needsRead pas vas pa)) with
      | (s, none) => (s, .wait)
      | (s, some _) => (s, .damaged 0x50 2 va)

/-- A load or store touches a block: an EMPTY block is filled, a store needs WR (R275). The fill waits for the thread's
own global accesses. -/
def State.touchWindow (s : State) (e : Env) (w : Window) (o : Nat) (store : Bool) : State × Touch :=
  let blk := o / 4096
  let base := w.v.toNat + (4096 * blk - w.s)
  let va := w.v + BitVec.ofNat 64 (o - w.s)
  let writable := fun (w : Window) => { w with writable := w.writable ++ [blk] }
  if w.filled.contains blk then
    if !store || w.writable.contains blk then (s, .ready)
    else
      match s.mapAccess e.gr.ctx e.gr.core base 4096 needsWrite false with
      | (s, .fault c sub) => (s, .fault c sub va)
      | (s, .page b z a) => (s, .page b z a)
      | (s, .ok _ _ _ _) => (s.modGroup e.g fun g => g.modWindow w.s writable, .ready)
  else if s.accs.any fun a => a.grp == e.g && a.tid == e.tid && a.level == .global then (s, .wait)
  else
    match s.mapAccess e.gr.ctx e.gr.core base 4096 (if store then needsBoth else needsRead) false with
    | (s, .fault c sub) => (s, .fault c sub va)
    | (s, .page b z a) => (s, .page b z a)
    | (s, .ok pas vas node _) =>
      let fill := fun (s : State) (bs : List Byte) =>
        (s.modGroup e.g fun g =>
          { g with scratch := g.scratch.setBytes (4096 * blk) bs }.modWindow w.s fun w =>
            let w := { w with filled := w.filled ++ [blk], got := w.got.filter fun x => x.1 != blk }
            if store then { writable w with underWr := w.underWr ++ [blk] } else w, Touch.ready)
      if node == 0 then
        if s.damageAt pas != 0 then (s, .damaged 0x42 (BitVec.ofNat 8 (s.damageAt pas)) va)
        else fill (s.outdate e.gr.core e.gr.ctx none (e.g, e.tid) pas) (pas.map s.byte)
      else s.fillRemote e w blk va pas vas node fill

/-- A .S access: alignment, range, window, issue (R207, R200). -/
def State.scratchAccess (s : State) (e : Env) (i : Instr) (o n : Nat) (store : Bool) (q : Ask) : State :=
  let va := BitVec.ofNat 64 o
  let go := fun (s : State) => s.issueAccess e i
    { q with va := va, pas := span o n, vas := [], size := n, expiry := 0 }
  if o % n != 0 then s.faultLane e 0x06 1 va
  else if 256 * e.k.scru < o + n then s.faultLane e 0x12 0x10 va
  else
    match e.gr.windowAt o with
    | none => go s
    | some w =>
      match s.touchWindow e w o store with
      | (s, .ready) => go s
      | (s, .wait) => s
      | (s, .fault c sub va) => s.transFault e c sub va
      | (s, .page b z a) => s.pageLane e b z (if store then needsBoth else needsRead) a
      | (s, .damaged code sub va) => s.failLane e va code sub

/-- A .D access (R207, R201). -/
def State.deepAccess (s : State) (e : Env) (i : Instr) (va : W64) (n : Nat) (q : Ask) : State :=
  if va.toNat % n != 0 then s.faultLane e 0x06 1 va
  else if 4096 * e.k.deepu < va.toNat + n then s.faultLane e 0x12 0x11 va
  else s.issueAccess e i { q with va := va, pas := span va.toNat n, vas := [], size := n, expiry := 0 }

def execLdS (d a : BitVec 6) (z : BitVec 4) (g : BitVec 6) (s : State) : Host.Outcome State Fault Refusal :=
  runWord (.ldS d a z g) (fun e s =>
    s.scratchAccess e (.ldS d a z g) (e.t.getX a).toNat (szBytes z) false (askLoad .scratch d z)) s
def execStS (d a : BitVec 6) (z : BitVec 4) (g : BitVec 6) (s : State) : Host.Outcome State Fault Refusal :=
  runWord (.stS d a z g) (fun e s =>
    s.scratchAccess e (.stS d a z g) (e.t.getX a).toNat (szBytes z) true (askStore .scratch e.t d z)) s
def execLdD (d a : BitVec 6) (z : BitVec 4) (g : BitVec 6) (s : State) : Host.Outcome State Fault Refusal :=
  runWord (.ldD d a z g) (fun e s =>
    s.deepAccess e (.ldD d a z g) (e.t.getX2 a) (szBytes z) (askLoad .deep d z)) s
def execStD (d a : BitVec 6) (z : BitVec 4) (g : BitVec 6) (s : State) : Host.Outcome State Fault Refusal :=
  runWord (.stD d a z g) (fun e s =>
    s.deepAccess e (.stD d a z g) (e.t.getX2 a) (szBytes z) (askStore .deep e.t d z)) s

/-! ### Fences (R230, R233) -/

/-- FENCE waits for the thread's own accesses; beyond core scope it drops the core's lines (R230). -/
def execFence (sc : BitVec 2) (s : State) : Host.Outcome State Fault Refusal :=
  runWord (.fence sc) (fun e s =>
    if s.pending e.g e.tid then s.waitAt e .fence
    else
      let s := if sc = 0#2 then s else s.dropCtxL1 e.gr.core e.gr.ctx
      s.retire e { e.t with run := .runnable } 1) s

/-- log2 of the mapped page that holds an address just translated. -/
def State.pageBits (s : State) (ctx core va : Nat) : Nat := ((s.tlbFind ctx core va).map TlbEntry.bits).getD 16

/-- FENCE.ALIAS: the thread's stores and atomics to the physical page are performed, and the core's lines of that page
dropped (R233). -/
def execFenceAlias (a : BitVec 6) (s : State) : Host.Outcome State Fault Refusal :=
  runWord (.fenceAlias a) (fun e s =>
    let va := e.t.getX2 a
    match s.mapAccess e.gr.ctx e.gr.core va.toNat 1 needsRead false with
    | (s, .fault c sub) => s.faultAt e c sub va
    | (s, .page base size absent) => s.pageAt e base size needsRead absent
    | (s, .ok pas vas node _) =>
      let b := s.pageBits e.gr.ctx e.gr.core (vas.headD 0)
      let inPage := fun (p : Nat) => p / 2 ^ b == pas.headD 0 / 2 ^ b
      if s.accs.any fun x => x.grp == e.g && x.tid == e.tid && x.level == .global && x.kind.writes
          && x.node == node && x.pas.any inPage then s.waitAt e (.aliased (pas.headD 0 / 2 ^ b) b node)
      else
        (s.dropL1 e.gr.core fun l => node == 0 && l.pas.any inPage).retire e { e.t with run := .runnable } 1) s

/-! ### PREF and MARM (R216 to R219) -/

/-- PREF with HINT 0 brings the line's sectors to the L1; the other hints act on levels that hold no state here. It never
faults. -/
def execPref (a : BitVec 6) (h : BitVec 2) (g : BitVec 6) (s : State) : Host.Outcome State Fault Refusal :=
  runWord (.pref a h g) (fun e s =>
    let va := (e.t.getX2 a).toNat
    let s := if h = 0#2 then
        (s.fillL1 e.gr.ctx e.gr.core (va / 128 * 128)).fillL1 e.gr.ctx e.gr.core (va / 128 * 128 + 64)
      else s
    s.retire e e.t 1) s

/-- The armed monitors of a slice in the order they were armed: threads' and queues' (R219). -/
def State.armed (s : State) (slice : Nat) : List (Nat × Option (Nat × Nat) × Nat) :=
  let ts := s.groups.flatMap fun g => g.2.threads.filterMap fun t =>
    match t.2.monitor with
    | some m => if m.code.isNone && Config.slice (m.sector / 2) % 64 == slice then
        some (m.stamp, some (g.1, t.1), 0) else none
    | none => none
  let qs := s.queues.filterMap fun q =>
    match q.2.monitor with
    | some m => if Config.slice (m.1 / 2) % 64 == slice then some (m.2, none, q.1) else none
    | none => none
  (ts ++ qs).mergeSort fun x y => x.1 ≤ y.1

/-- Make room in a full slice: the monitor armed earliest wakes with code 6. -/
def State.makeRoom (s : State) (slice : Nat) : State :=
  let l := s.armed slice
  if l.length < 1024 then s
  else match l with
    | (_, some (g, t), _) :: _ => s.modThread g t fun th => { th with monitor := th.monitor.map (Monitor.wake · s.time 6) }
    | (_, none, q) :: _ => s.modQueue q fun k => { k with monitor := none, blocked := false }
    | [] => s

/-- The sector key of a physical byte; a peer's sectors are kept apart. -/
def sectorKey (pa node : Nat) : Nat := pa / 64 + node * 2 ^ 46

/-- MARM arms the thread's monitor (R217). -/
def execMarm (a g : BitVec 6) (s : State) : Host.Outcome State Fault Refusal :=
  runWord (.marm a g) (fun e s =>
    let va := e.t.getX2 a
    let (s, vs) := s.viewsOf e.gr.ctx
    let off := match claiming vs va.toNat with
      | [v] => (va.toNat - v.wbase) % v.e
      | _ => 0
    if off != 0 then s.faultAt e 0x06 3 va
    else
      match s.mapAccess e.gr.ctx e.gr.core va.toNat 1 needsRead false with
      | (s, .fault c sub) => s.faultAt e c sub va
      | (s, .page base size absent) => s.pageAt e base size needsRead absent
      | (s, .ok pas _ node _) =>
        let k := sectorKey (pas.headD 0) node
        let s := s.modThread e.g e.tid fun t => { t with monitor := none }
        let s := (s.makeRoom (Config.slice (k / 2) % 64)).dropL1 e.gr.core fun l =>
          node == 0 && l.pas.any fun p => p / 64 == k
        let (n, s) := s.free
        s.retire e { e.t with monitor := some ⟨k, n, none, 0⟩ } 1) s

/-! ### MAPS, FLUSHS, INVS (R276) -/

/-- The thread has scratch accesses that are not performed, or the group write-backs: the window words wait for them. -/
def State.windowBusy (s : State) (e : Env) : Bool :=
  s.accs.any fun a => a.grp == e.g && ((a.tid == e.tid && a.level == .scratch) || a.kind == .writeBack)

/-- Count a word in S and nothing else (R236). -/
def State.countS (s : State) (e : Env) : State :=
  s.modGroup e.g fun gr => gr.modWarp (warpOf e.tid) fun w =>
    if w.sq.contains e.op then w else { w with sq := w.sq ++ [e.op] }

/-- What the write-back of a block needs of its page: nothing more where the block was filled under WR, which needs no new
translation (R276). -/
def Window.needsBack (w : Window) (blk : Nat) : Needs := if w.underWr.contains blk then 0 else needsWrite

/-- Start the write-back of one block of a window: the bytes marked, as they stand (R276). They stay marked until it is
performed (R275). -/
def State.flushBlock (s : State) (e : Env) (w : Window) (blk : Nat) : State :=
  let os := w.marks.filter fun o => o / 4096 == blk && !w.flushing.contains o
  if os.isEmpty then s
  else
    let base := w.v.toNat + (4096 * blk - w.s)
    let va := BitVec.ofNat 64 base
    let fail := fun (s : State) (c sub : Byte) =>
      s.failItem e.g e.tid e.t.pos.pc va (item 4 va.toNat) c sub 0 e.op (some (1, e.op))
    match s.mapAccess e.gr.ctx e.gr.core base 4096 (w.needsBack blk) false with
    | (s, .fault c sub) => fail s c sub
    | (s, .page _ _ _) => fail s 0x12 2
    | (s, .ok pas vas node expiry) =>
      let pick := fun (l : List Nat) => os.map fun o => l.getD (o % 4096) 0
      let s := s.addAccess e { askPlain .writeBack .global with
        va := va, pas := pick pas, vas := pick vas, node := node, expiry := expiry, size := os.length
        data := leNat (os.map e.gr.scratch.byte), offs := os, wr := !w.underWr.contains blk }
      s.modGroup e.g fun g => g.modWindow w.s fun w => { w with flushing := w.flushing ++ os }

def State.flushBlocks (s : State) (e : Env) (w : Window) : List Nat → State
  | [] => s
  | b :: bs => State.flushBlocks (s.flushBlock e w b) e w bs

/-- The blocks of a window inside a scratch range. -/
def Window.blocksIn (w : Window) (o len : Nat) : List Nat :=
  (List.range (w.len / 4096)).filterMap fun k =>
    let b := w.s / 4096 + k
    if o ≤ 4096 * b && 4096 * b + 4096 ≤ o + len then some b else none

def State.flushWindows (s : State) (e : Env) (o len : Nat) : List Window → State
  | [] => s
  | w :: ws => State.flushWindows (s.flushBlocks e w (w.blocksIn o len)) e o len ws

/-- The operand checks the three words share. -/
def windowCheck (e : Env) (o len v : Nat) : Option (Byte × Byte × W64) :=
  if o % 4096 != 0 || len % 4096 != 0 || v % 4096 != 0 then some (0x06, 8, BitVec.ofNat 64 o)
  else if 256 * e.k.scru < o + len then some (0x12, 0x10, BitVec.ofNat 64 o)
  else none

/-- A MAPS that is ILLEGAL_OP 0x07 (R276): of length 0 where no window starts; or, where it equals none (`same`), overlapping
one or making a ninth. -/
def Group.noWindow (g : Group) (o len : Nat) (same : Bool) : Bool :=
  if len == 0 then !g.windows.any fun w => w.s == o
  else !same && (8 ≤ g.windows.length || g.windows.any fun w => w.s < o + len && o < w.s + w.len)

/-- The fills of a group's blocks that `p` picks, by window and block, are asked for no more: an answer to one is discarded. -/
def State.dropFills (s : State) (g : Nat) (p : Nat → Nat → Bool) : State :=
  { s with reqs := s.reqs.filter fun r => match r.whose with | .fill g' st b _ => !(g' == g && p st b) | _ => true }

def execMaps (so v l : BitVec 6) (s : State) : Host.Outcome State Fault Refusal :=
  runWord (.maps so v l) (fun e s =>
    let o := (e.t.getX so).toNat
    let va := e.t.getX2 v
    let len := (e.t.getX l).toNat
    let same := e.gr.windows.any fun w => w.s == o && w.v == va && w.len == len
    if e.gr.noWindow o len same then s.faultAt e 0x01 7 0
    else match windowCheck e o len va.toNat with
    | some (c, sub, a) => s.faultAt e c sub a
    | none =>
      if !canonicalVa va.toNat then s.faultAt e 0x12 1 va
      else if s.windowBusy e then s
      else match e.gr.windows.find? fun w => len == 0 && w.s == o with
      | some w =>
        if fullFor e.warp.sq e.op then s
        else
          let s := ((s.countS e).flushBlocks e w (w.blocksIn w.s w.len)).dropFills e.g fun st _ => st == o
          (s.modGroup e.g fun g => { g with windows := g.windows.filter fun x => x.s != o }).retire e e.t 1
      | none =>
        let s := if same then s else s.modGroup e.g fun g =>
          { g with windows := g.windows ++ [⟨o, va, len, [], [], [], [], [], [], none⟩] }
        s.retire e e.t 1) s

def execFlushs (so l : BitVec 6) (s : State) : Host.Outcome State Fault Refusal :=
  runWord (.flushs so l) (fun e s =>
    let o := (e.t.getX so).toNat
    let len := (e.t.getX l).toNat
    match windowCheck e o len 0 with
    | some (c, sub, a) => s.faultAt e c sub a
    | none =>
      if len == 0 then s.retire e e.t 1
      else if s.windowBusy e || fullFor e.warp.sq e.op then s
      else ((s.countS e).flushWindows e o len e.gr.windows).retire e e.t 1) s

/-- The access is performed: its operation may retire and its sample end (R236, R237, R354); the kernel of a group that has ended
may have waited for it (R101, R363). -/
def State.finish (s : State) (a : Access) : State :=
  let last := fun (m : Sample) => if a.key == some m.num then { m with last := some (laneOf a.tid), done := s.time } else m
  let s := { s with samples := s.samples.map last }
  let s := ((s.dropAccess a).retireOps a.grp).progress a.grp
  let s := if (s.group? a.grp).isNone then s.kernelCheck a.kern else s
  match a.key with
  | none => s
  | some n => s.endSample n

/-- The issued stores to scratch bytes that some pick are over: what they wrote is discarded (R276). -/
def State.finishList (s : State) : List Access → State
  | [] => s
  | a :: as => State.finishList (s.finish a) as

def State.finishStores (s : State) (g : Nat) (gone : Nat → Bool) : State :=
  s.finishList (s.accs.filter fun a => a.grp == g && a.level == .scratch && a.kind == .store && a.pas.any gone)

/-- INVS: the blocks are EMPTY at issue; it waits for nothing, and what was stored there before is discarded (R276). -/
def execInvs (so l : BitVec 6) (s : State) : Host.Outcome State Fault Refusal :=
  runWord (.invs so l) (fun e s =>
    let o := (e.t.getX so).toNat
    let len := (e.t.getX l).toNat
    match windowCheck e o len 0 with
    | some (c, sub, a) => s.faultAt e c sub a
    | none =>
        let keep := fun (w : Window) (b : Nat) => !(w.blocksIn o len).contains b
        let gone := fun (x : Nat) => e.gr.windows.any fun w => !keep w (x / 4096)
        let s := s.dropFills e.g fun st b => e.gr.windows.any fun w => w.s == st && !keep w b
        ((s.finishStores e.g gone).modGroup e.g fun g => { g with windows := g.windows.map fun w => { w with
          filled := w.filled.filter (keep w)
          writable := w.writable.filter (keep w)
          underWr := w.underWr.filter (keep w)
          got := w.got.filter fun x => keep w x.1
          failed := w.failed.filter fun x => keep w x.1
          marks := w.marks.filter fun x => keep w (x / 4096)
          flushing := w.flushing.filter fun x => keep w (x / 4096) } }).retire e e.t 1) s

/-! ### TLBP (R277) -/

def execTlbp (d a : BitVec 6) (s : State) : Host.Outcome State Fault Refusal :=
  runWord (.tlbp d a) (fun e s =>
    s.issueAccess e (.tlbp d a) { askPlain .tlbp .global with va := e.t.getX2 a, dst := d.toNat, size := 8 }) s

/-- TLBP's result for an ordinary address: a cached entry or a walk, which sets no TDIES bit. -/
def State.probe (s : State) (ctx core va : Nat) : State × W64 :=
  let leaf := fun (e bitsOf : Nat) => BitVec.ofNat 64
    (pack [(55, bits e 7 9), (16, bits (leafPa e bitsOf 0) 16 36), (8, sizeCode bitsOf), (4, 1), (1, bits e 1 3), (0, 1)])
  if !canonicalVa va then (s, BitVec.ofNat 64 (2 ^ 56))
  else
    let (n, s) := s.free
    match (s.tlbFind ctx core va).filter fun _ => Config.tlbHeld n with
    | some t => (s, leaf t.leaf.toNat t.bits)
    | none =>
      match (walk s va 4 (((s.ctx? ctx).map Ctx.ptroot).getD 0) []).1 with
      | .fault sub st _ lvl =>
        (s, BitVec.ofNat 64 (pack [(56, sub.toNat), (8, if st == 0 then 0 else sizeCode (levelBits lvl)), (4, st)]))
      | .page lvl absent _ =>
        (s, BitVec.ofNat 64 (pack [(8, sizeCode (levelBits lvl)), (4, if absent then 2 else 3)]))
      | .leaf e lvl => ((s.tlbFill ctx core va e lvl).2, leaf e (levelBits lvl))

/-- A result that reports a VIEW_FAULT. -/
def viewProbe (sub : Byte) : W64 := BitVec.ofNat 64 (sub.toNat * 2 ^ 56 + 2 ^ 55)

/-- TLBP's result: the tests of R284 that do not depend on the access, then the canonical byte. -/
def State.tlbProbe (s : State) (ctx core va : Nat) : State × W64 :=
  let (s, vs) := s.viewsOf ctx
  match claiming vs va with
  | [] => s.probe ctx core va
  | [v] =>
    match viewTests v va 1 false false with
    | some sub => (s, viewProbe sub)
    | none =>
      let (s, r) := s.probe ctx core (v.byteAt (va - v.wbase))
      (s, if r.getLsbD 0 && bits r.toNat 55 9 != 0 then viewProbe 4 else r)
  | _ => (s, viewProbe 5)

/-! ### Performance of an access (R208) -/

/-- Write an access's result to its destination, unless the thread has exited (R173, R207). -/
def Thread.receive (t : Thread) (a : Access) (v : Nat) : Thread :=
  let d := BitVec.ofNat 6 a.dst
  if a.size < 4 then t.setX d (if a.sext then BitVec.ofInt 32 (toSigned (8 * a.size) v) else BitVec.ofNat 32 v)
  else t.setXs d v (a.size / 4)

/-- Performed with a value for its destination. -/
def State.finishWith (s : State) (a : Access) (v : Nat) : State :=
  (s.modThread a.grp a.tid fun t => if t.live then t.receive a v else t).finish a

/-- Failed after issue: its record, its fault to come, and its place in its counter given up (R394); an access whose group
has ended has its record alone (R90), and none where its context is being destroyed (R84). What a write-back had captured is no longer in flight (R275). -/
def State.failAccess (s : State) (a : Access) (code sub : Byte) : State :=
  let s : State := match s.group? a.grp with
    | some _ => s.failItem a.grp a.tid a.pc a.va (item 4 a.va.toNat) code sub 0 a.op
        (if a.kind == AccKind.writeBack then some (1, a.op) else none)
    | none =>
      if ((s.ctx? a.ctx).map fun c => c.st == .destroying).getD false then s else s.post a.ctx (a.record s code sub)
  let s : State := if a.kind == .writeBack then s.modGroup a.grp fun g => { g with windows := g.windows.map fun (w : Window) =>
      { w with flushing := w.flushing.filter fun o => !a.offs.contains o } } else s
  s.finish a

/-- A write-back is performed: what has not been stored since it was captured is clean (R275). -/
def State.flushed (s : State) (a : Access) : State :=
  s.modGroup a.grp fun g => { g with windows := g.windows.map fun w =>
    let clean := w.flushing.filter a.offs.contains
    { w with marks := w.marks.filter fun o => !clean.contains o, flushing := w.flushing.filter fun o => !clean.contains o } }

/-- The bytes a load of global memory takes: from the L1 when it is relaxed or of core scope and the sector is still
held, else from its home, filling the L1 (R212, R227). -/
def State.loadBytes (s : State) (a : Access) : State × List Byte :=
  let met := fun (s : State) => s.outdate a.core a.ctx (some (a.va.toNat / 64)) (a.grp, a.tid) a.pas
  let fresh := fun (s : State) =>
    (met (s.fillL1 a.ctx a.core a.va.toNat), a.pas.map s.byte)
  if a.acquire && a.scope != .core then (fresh (s.dropCtxL1 a.core a.ctx))
  else
    let (n, s) := s.free
    match s.readL1 a.core a.ctx a.va.toNat a.size (a.grp, a.tid) with
    | some bs => if Config.l1Held n then (met s, bs) else fresh s
    | none => fresh s

/-- Damage that a write-back meets: its own, or of a home sector that it writes in part (R276). -/
def State.backDamage (s : State) (a : Access) (damage : Byte) : Byte :=
  if damage ≠ 0 then damage
  else BitVec.ofNat 8 (s.damageAt (a.pas.filter fun p => !(span (p / 32 * 32) 32).all a.pas.contains))

/-- Damage that a reading access meets. -/
def State.readDamage (s : State) (a : Access) (damage : Byte) : Byte :=
  if damage ≠ 0 then damage else BitVec.ofNat 8 (s.damageAt a.pas)

/-- An access of a group's own scratch or deep scratch, performed. -/
def State.performOwn (s : State) (a : Access) (gr : Group) (damage : Byte) : State :=
  let data := leBytes a.size a.data
  if damage ≠ 0 then s.failAccess a 0x42 damage
  else match a.level, a.kind with
  | .scratch, .load => s.finishWith a (leNat (a.pas.map gr.scratch.byte))
  | .scratch, _ => (s.modGroup a.grp fun g => g.storeScratch (a.pas.headD 0) data).finish a
  | _, .load => s.finishWith a (leNat (a.pas.map gr.deep.byte))
  | _, _ => (s.modGroup a.grp fun g => { g with deep := g.deep.setBytes (a.pas.headD 0) data }).finish a

/-- An access of local global memory performed at its home; it may outlive its group. -/
def State.performHome (s : State) (a : Access) (damage : Byte) : State :=
  let data := leBytes a.size a.data
  let line := some (a.va.toNat / 64)
  match a.kind with
  | .load =>
    let sub := s.readDamage a damage
    if sub ≠ 0 then s.failAccess a 0x42 sub
    else let (s, bs) := s.loadBytes a; s.finishWith a (leNat bs)
  | .store =>
    if damage ≠ 0 then s.failAccess a 0x42 damage
    else (((s.localWrite a.ctx (some a.kern) 1 a.pas a.vas data).storeL1 a.core a.ctx a.va.toNat data).outdate a.core a.ctx
      line (a.grp, a.tid) a.pas).finish a
  | .writeBack =>
    let sub := s.backDamage a damage
    if sub ≠ 0 then s.failAccess a 0x42 sub
    else (((s.localWrite a.ctx (some a.kern) 1 a.pas a.vas data).dropBytesL1 a.core a.pas).flushed a).finish a
  | .tlbp => let (s, v) := s.tlbProbe a.ctx a.core a.va.toNat; s.finishWith a v.toNat
  | .atom o =>
    let sub := s.readDamage a damage
    if sub ≠ 0 then s.failAccess a 0x42 sub
    else
      let (s, old) := s.atomicAt a.ctx (some a.kern) 2 o a.pas a.vas a.data a.cmp
      ((s.dropL1 a.core fun l => l.ctx == a.ctx && ((a.acquire && a.scope != .core) || some l.line == line)).outdate a.core a.ctx
        line (a.grp, a.tid) a.pas).finishWith a old
  | .reda o =>
    let sub := s.readDamage a damage
    if sub ≠ 0 then s.failAccess a 0x42 sub
    else
      let (s, _) := s.atomicAt a.ctx (some a.kern) 2 o a.pas a.vas a.data a.cmp
      ((s.dropL1 a.core fun l => l.ctx == a.ctx && some l.line == line).outdate a.core a.ctx line (a.grp, a.tid) a.pas).finish a

/-- A local access performed at its place. -/
def State.performLocal (s : State) (a : Access) (damage : Byte) : State :=
  if a.level == .global then s.performHome a damage
  else match s.group? a.grp with
    | some gr => s.performOwn a gr damage
    | none => s.dropAccess a

/-- What an access needs of its page (R266); the write-back of a block filled under WR nothing more (R276). -/
def Access.needs (a : Access) : Needs :=
  match a.kind with
  | .load => needsRead
  | .tlbp => needsRead
  | .store => needsWrite
  | .writeBack => if a.wr then needsWrite else 0
  | _ => needsBoth

/-- What a request carries: the data of a store, the operands of an atomic. -/
def Access.payload (a : Access) : Option Nat × Option (BitVec 4) :=
  match a.kind with
  | .store => (some a.data, none)
  | .writeBack => (some a.data, none)
  | .atom o => (some (if isCas o then a.cmp + 2 ^ (8 * a.size) * a.data else a.data), some o)
  | .reda o => (some a.data, some o)
  | _ => (none, none)

/-- The answer to a remote access: its data for a load or an atomic (R340). An acquire beyond core scope drops the core's lines,
as one performed here does (R226, R235). -/
def State.answer (s : State) (a : Access) (data : List Byte) : State :=
  let acquired := if a.acquire && a.scope != .core then s.dropCtxL1 a.core a.ctx else s
  match a.kind with
  | .load => acquired.finishWith a (leNat (data.take a.size))
  | .atom _ => acquired.finishWith a (leNat (data.take a.size))
  | .writeBack => if s.reqs.any fun r => r.whose == .acc a.id then s else (s.flushed a).finish a
  | _ => s.finish a

/-- A remote access: a host's memory answers with values the spec does not give (log 19); a peer's request is sent, when its
port has room, and answered later. A write-back goes as the writes of its runs (R332). -/
def State.performRemote (s : State) (a : Access) : State :=
  let (data, op) := a.payload
  let sent := fun (s : State) (r : Nat) =>
    { s with accs := s.accs.map fun b => if b.id == a.id then { b with req := some r } else b }
  if a.req.isSome || s.portBlocked a.node (a.pas.headD 0) then s
  else if isHostNode a.node && op.any fun o => !hostAtomic o then s.failAccess a 0x11 5
  else if a.kind == .writeBack then
    match s.sendWrites (fun _ => .acc a.id) (s.viaOf a.ctx a.core a.needs a.pas a.vas) a.node 0
        (writeParts a.pas (leBytes a.size a.data)) with
    | (s, false) => s.failAccess a 0x50 2
    | (s, true) => if isHostNode a.node then (s.flushed a).finish a else sent s s.fresh
  else
    match s.sendReq (.acc a.id) a.node (a.pas.headD 0) a.size data op
        (s.viaOf a.ctx a.core a.needs a.pas a.vas (a.pas.headD 0)) with
    | (s, none) => s.failAccess a 0x50 2
    | (s, some r) =>
      if isHostNode a.node then s.answer a ((List.range a.size).map fun k => Config.remoteByte r k) else sent s r

/-- An access whose translation's lease has ended is translated again before it is performed (R268, R274): none while its
page is away; its group is then saved, with the access still to be performed (R270, R273). A write-back's bytes are not in one
run, so its block is translated; where its page has left PRESENT it fails (R276). -/
def State.retranslate (s : State) (a : Access) : State × Option Access :=
  if a.level != .global || a.kind == .tlbp || s.time + 2 < a.expiry then (s, some a)
  else
    let back := a.kind == .writeBack
    match s.mapAccess a.ctx a.core a.va.toNat (if back then 4096 else a.size) a.needs a.marked with
    | (s, .fault c sub) => (s.failAccess a c sub, none)
    | (s, .page base size absent) =>
      if back then (s.failAccess a 0x12 2, none)
      else
      let s := { s with accs := s.accs.map fun (b : Access) => if b.id == a.id then { b with paged := some base } else b }
      if (s.group? a.grp).isSome then (s.pageFault a.grp base size a.needs absent, none)
      else (if absent then s.request a.ctx base size a.needs else s, none)
    | (s, .ok pas vas node expiry) =>
      let pick := fun (l : List Nat) => if back then a.offs.map fun o => l.getD (o % 4096) 0 else l
      (s, some { a with
        pas := pick pas
        vas := pick vas
        node := node
        expiry := expiry })

/-- The group of an access is where it can be performed: not saved with it, nor on its way back. -/
def State.accessHere (s : State) (a : Access) : Bool :=
  ((s.group? a.grp).map fun g => g.st != .saved && g.st != .restoring).getD true

/-- A load, store, atomic or write-back is performed, where nothing older stands before it. `damage` is what it meets: the
level code of uncorrectable data, or with bit 7 set an error that was corrected, which is counted (R204, R205, R208, R301;
DESIGN CHOICE, log 26). -/
def execAccessPerformed (acc : Nat) (damage : BitVec 8) (s : State) : Host.Outcome State Fault Refusal :=
  .next (match s.accs.find? fun a => a.id == acc with
    | none => s
    | some a =>
      if !s.mayPerform a || a.paged.isSome || !s.accessHere a then s
      else
        let s := if damage.getLsbD 7 then s.count a.ctx (dieOfCore a.core) 0x30 1 else s
        let damage := if damage.getLsbD 7 then 0 else damage
        if a.req.isSome then s
        else match s.retranslate a with
          | (s, none) => s
          | (s, some a) =>
            if a.level == .global && a.kind != .tlbp && a.node != 0 then s.performRemote a else s.performLocal a damage)

end Sys2Proof.Machine
end

