-- ==== Sys2Proof/Machine/Context.lean ====
section
/-! DEFINITION. Contexts: the CCB (R81), the commands of CXCMD (R83, R84), pre-emption's two phases (R85), the loss of a die
(R88) and of the Oasis (R4), the fault queue's wait for room (R91). -/

namespace Sys2Proof.Machine

/-! ### The CCB (R81) -/

/-- The base and bytes of each structure that a CCB names by physical address. -/
def ccbExtents (w : Nat → Nat) : List (Nat × Nat) :=
  [(w 1, 4096), (bits (w 7) 12 52 * 4096, 64 * 2 ^ bits (w 7) 0 5), (w 3, 16 * bits (w 4) 0 32),
   (w 5, 64 * bits (w 6) 0 32), (w 10, if w 10 == 0 then 0 else 2048)]

/-- The CCB at `ccb` is valid for BIND. One that reaches beyond 1 TiB itself, which R81's list does not name, is not (DESIGN
CHOICE, log 27). -/
def State.ccbValid (s : State) (ccb : Nat) : Bool :=
  let w := fun i => s.readN (ccb + 8 * i) 8
  let fqsz := bits (w 7) 0 5
  let fqvec := bits (w 7) 6 6
  ccb % 128 == 0 && ccb + 128 ≤ hbmBytes
    && bits (w 0) 56 8 == 0 && bits (w 0) 34 6 == 0 && bits (w 0) 20 4 == 0 && bits (w 0) 13 3 == 0
    && bits (w 11) 32 32 == 0 && bits (w 12) 12 52 == 0 && bits (w 12) 4 4 == 0
    && w 13 == 0 && w 14 == 0 && w 15 == 0
    && 4 ≤ fqsz && fqsz ≤ 16 && fqvec != 1 && fqvec != 2
    && bits (w 11) 0 16 != 0 && bits (w 11) 0 16 ≤ bits (w 11) 16 16
    && bits (w 0) 24 10 ≤ 1000
    && w 1 % 4096 == 0 && w 3 % 64 == 0 && w 5 % 64 == 0 && w 9 % 4096 == 0 && w 10 % 2048 == 0
    && (ccbExtents w).all fun e => e.1 + e.2 ≤ hbmBytes

/-- The fields that the device reads at BIND and at RESUME. -/
def State.readCcb (s : State) (c : Ctx) : Ctx :=
  let w := fun i => s.readN (c.ccb + 8 * i) 8
  { c with
    tenant := bits (w 0) 0 12
    nbvd := bits (w 0) 12 1
    deep := bits (w 0) 16 4
    lease := bits (w 0) 24 10
    ptroot := w 1
    accb := w 3
    accn := bits (w 4) 0 32
    spb := w 5
    spn := bits (w 6) 0 32
    fqb := bits (w 7) 12 52 * 4096
    fqvec := bits (w 7) 6 6
    fqi := bit (w 7) 5
    fqsz := bits (w 7) 0 5
    saveb := BitVec.ofNat 64 (w 9)
    vtab := w 10
    sden := bits (w 11) 16 16
    snum := bits (w 11) 0 16 }

/-- A context as BIND makes it, before its CCB is read: counts clear, the launch and batch counters at 1. -/
def Ctx.fresh (port : Fin 2) (ccb : Nat) : Ctx where
  st := .saved
  pre := false
  port := port
  ccb := ccb
  tenant := 0
  nbvd := 0
  deep := 0
  lease := 0
  ptroot := 0
  lhor := 0
  accb := 0
  accn := 0
  accw := 0
  spb := 0
  spn := 0
  spw := 0
  fqb := 0
  fqvec := 0
  fqi := false
  fqsz := 4
  fqwr := 0
  saveb := 0
  vtab := 0
  snum := 1
  sden := 1
  tdies := 0
  dlost := 0
  lastop := 1
  kernNext := 1
  batchNext := 1
  held := []
  frames := []
  debug := none
  requests := []

/-! ### CXCMD (R83, R84) -/

/-- CXCMD after a command of a port: its OP, ID and RESULT. -/
def State.answerCx (s : State) (p : Fin 2) (op : Nat) (id : BitVec 12) (res : Nat) : State :=
  s.setPort p { s.port p with cxcmd := BitVec.ofNat 32 (pack [(28, res), (8, id.toNat), (0, op)]) }

/-- A command is accepted: LASTOP and what it changes, in the CCB too. -/
def State.accept (s : State) (id op : Nat) (f : Ctx → Ctx) : State :=
  (s.modCtx id fun c => { f c with lastop := op }).writeBack id

/-- BIND (R84). -/
def execBind (port : Fin 2) (id : BitVec 12) (s : State) : Host.Outcome State Fault Refusal :=
  .next (
    let ccb := (s.port port).cxaddr.toNat
    if id = 0 then s.answerCx port 1 id 4
    else if (s.ctx? id.toNat).isSome then s.answerCx port 1 id 3
    else if s.ccbValid ccb then
      let c := s.readCcb (Ctx.fresh port ccb)
      ({ s with ctxs := Tbl.put s.ctxs id.toNat c }.writeBack id.toNat).answerCx port 1 id 0
    else s.answerCx port 1 id 1)

/-- PREEMPT (R84): a SAVED context is quiesced, a RUNNING one starts to halt. -/
def execPreempt (port : Fin 2) (id : BitVec 12) (s : State) : Host.Outcome State Fault Refusal :=
  .next (match s.ctx? id.toNat with
    | none => s.answerCx port 2 id 4
    | some c =>
      match c.st, c.pre with
      | .saved, false => (s.accept id.toNat 2 fun c => { c with pre := true }).answerCx port 2 id 0
      | .running, _ =>
        let s := s.leaveRunning id.toNat
        let s := s.mapGroups fun _ g => if g.ctx == id.toNat then g.unenq else g
        (s.accept id.toNat 2 fun c => { c with pre := true, st := .halting }).answerCx port 2 id 0
      | _, _ => s.answerCx port 2 id 2)

/-- Some group of a context is saved or still to be placed. -/
def State.hasWork (s : State) (id : Nat) : Bool :=
  s.groups.any (fun g => g.2.ctx == id && g.2.st == .saved)
    || s.kernels.any fun k => k.2.ctx == id && k.2.st == .placing

/-- RESUME (R84): the CCB is read again and dispatch goes on. -/
def execResume (port : Fin 2) (id : BitVec 12) (s : State) : Host.Outcome State Fault Refusal :=
  .next (match s.ctx? id.toNat with
    | none => s.answerCx port 3 id 4
    | some c =>
      let go := fun (st : CtxState) =>
        (s.accept id.toNat 3 fun c => { s.readCcb c with pre := false, st := st }).answerCx port 3 id 0
      match c.st, c.pre with
      | .saved, true => go (if s.hasWork id.toNat then .running else .saved)
      | .stopped, _ => go .running
      | _, _ => s.answerCx port 3 id 2)

/-! ### Discarding a context's work (R84, R115) -/

def State.dropGroups (s : State) : List Nat → State
  | [] => s
  | g :: gs => State.dropGroups (s.dropGroup g) gs

/-- The packets of a list end cancelled, without records (R84, R94). -/
def State.cancelPkts (s : State) : List Nat → State
  | [] => s
  | p :: ps => State.cancelPkts ((s.endPkt p 3 0 0 0).modPkt p fun k => { k with quiet := true }) ps

/-- A packet that has not ended. -/
def PktState.open : PktState → Bool
  | .finished => false
  | _ => true

/-- A kernel that is discarded while it has not ended (R115). -/
def Kernel.discard (k : Kernel) : Kernel :=
  match k.st with
  | .placing => { k with st := .discarded }
  | .running => { k with st := .discarded }
  | .failing => { k with st := .discarded }
  | _ => k

/-- Halt and discard some groups and batches of engine work: the kernels that `kern` picks are DISCARDED and the packets that
`pkt` picks take STATUS 3. -/
def State.discardBy (s : State) (grp : Group → Bool) (batch : Nat → Nat → Bool) (kern : Kernel → Bool) (pkt : Pkt → Bool) :
    State :=
  let s := s.dropGroups ((s.groups.filter fun g => grp g.2).map Prod.fst)
  let gone := (s.cmds.filter fun (c : Cmd) => batch c.ctx c.batch).map Cmd.id
  let s := { s with
    cmds := s.cmds.filter fun (c : Cmd) => !batch c.ctx c.batch
    batches := s.batches.filter fun (b : Batch) => !batch b.ctx b.no
    reqs := s.reqs.filter fun r => !(gone.any r.whose.ofCmd)
    kernels := mapVals (fun _ k => if kern k then k.discard else k) s.kernels }
  s.cancelPkts ((s.pkts.filter fun (p : Nat × Pkt) => pkt p.2 && p.2.st.open).map Prod.fst)

/-- Discard all the work of a context (R84). -/
def State.discard (s : State) (id : Nat) : State :=
  s.discardBy (fun g => g.ctx == id) (fun c _ => c == id) (fun k => k.ctx == id) fun p => p.ctx == id

/-- Discard the work of the packets that `p` picks (R365). -/
def State.discardWhere (s : State) (p : Pkt → Bool) : State :=
  let of := fun (n : Nat) => ((s.pkt? n).map p).getD false
  let kern := fun (k : Kernel) => of k.pkt
  s.discardBy (fun g => ((s.kernel? g.kern).map kern).getD false)
    (fun ctx no => s.batches.any fun b => b.ctx == ctx && b.no == no && (b.pkt.map of).getD false) kern p

/-- The DIE_LOST records of a group's accesses that are not performed (R88). -/
def State.abandonAccs (s : State) (gr : Group) (k : Kernel) (sub : Byte) : List Access → State
  | [] => s
  | a :: as =>
    State.abandonAccs (s.post gr.ctx (groupRec s gr k 0x40 sub true false a.pc a.va a.tid 0 (item 4 a.va.toNat))) gr k sub as

/-- The DIE_LOST records of a group, and of its commands and accesses that are not finished (R88). -/
def State.abandonGroup (s : State) (g : Nat) (sub : Byte) : State :=
  match s.group? g with
  | none => s
  | some gr =>
    match s.kernel? gr.kern with
    | none => s
    | some k =>
      let s := if gr.ending.isSome then s
        else s.post gr.ctx (groupRec s gr k 0x40 sub true false 0 0 0xFFFF 0 (item 1 gr.lin))
      let s := s.failCmds gr k 0x40 sub (s.cmds.filter fun (c : Cmd) => (c.owner.map Prod.fst) == some g)
      { s.abandonAccs gr k sub (s.accs.filter fun a => a.grp == g) with accs := s.accs.filter fun a => a.grp != g }

def State.abandonGroups (s : State) (sub : Byte) : List Nat → State
  | [] => s
  | g :: gs => State.abandonGroups (s.abandonGroup g sub) sub gs

/-- The DIE_LOST records of a context's COPY packets that run (R88); one that has failed has its record (R90). -/
def State.abandonPkts (s : State) (sub : Byte) : List Pkt → State
  | [] => s
  | k :: ks =>
    State.abandonPkts (if k.code ≠ 0 then s else s.post k.ctx (pktRec s k 0x40 sub true 0 0 0)) sub ks

/-- A detached queue with no packet left is gone; its DETACH answers (R94). -/
def State.queueCheck (s : State) (q : Nat) : State :=
  match s.queue? q with
  | none => s
  | some k =>
    if !k.detached || s.pkts.any fun p => p.2.queue == q then s
    else
      let s := { s with queues := Tbl.erase s.queues q }
      match k.detachPort with
      | some p => s.setPort p { s.port p with qcmd := 2 }
      | none => s

def State.queueChecks (s : State) : List Nat → State
  | [] => s
  | q :: qs => State.queueChecks (s.queueCheck q) qs

/-- The queues some pick detach: nothing more is consumed (R94). -/
def State.detachAll (s : State) (p : Queue → Bool) : State :=
  let qs := (s.queues.filter fun q => p q.2).map Prod.fst
  let s := { s with queues := mapVals (fun _ q => if p q then { q with detached := true, monitor := none } else q) s.queues }
  s.queueChecks qs

/-- An ATTACH that waits for a page of a context finds it not bound any more (R94, R395). -/
def State.endAttach (s : State) (id : Nat) (p : Fin 2) : State :=
  if (s.port p).attach.any fun a => a.ctx == id then
    s.setPort p { s.port p with attach := none, qcmd := BitVec.ofNat 32 (pack [(28, 2), (0, 1)]) }
  else s

/-- DESTROY (R84, R88), in any bound state: the work is discarded; only a context that lost a die has its unfinished items
reported. -/
def execDestroy (port : Fin 2) (id : BitVec 12) (s : State) : Host.Outcome State Fault Refusal :=
  .next (match s.ctx? id.toNat with
    | none => s.answerCx port 4 id 4
    | some c =>
      let n := id.toNat
      let s := s.leaveRunning n
      let s := if c.dlost = 0 then s
        else
          (s.abandonGroups 2 ((s.groups.filter fun g => g.2.ctx == n).map Prod.fst)).abandonPkts 2
            ((Tbl.vals s.pkts).filter fun k => k.ctx == n && k.st == .running && bits (k.img.getD 1 0).toNat 0 4 == 4)
      let s := (((s.discard n).detachAll fun q => q.ctx == n).endAttach n 0).endAttach n 1
      (s.accept n 4 fun c => { c with st := .destroying }).answerCx port 4 id 0)

/-! ### The phases of pre-emption and destruction -/

def State.startSaves (s : State) (cause : Nat) : List Nat → State
  | [] => s
  | g :: gs => State.startSaves (s.startSave g cause) cause gs

/-- The groups of a context. -/
def State.groupsOf (s : State) (id : Nat) : List Nat := (s.groups.filter fun g => g.2.ctx == id).map Prod.fst

/-- No thread of a context is in the middle of the cycle's issue. -/
def State.atBoundary (s : State) (id : Nat) : Bool :=
  s.issuing.all fun i => ((s.group? i.grp).map fun g => g.ctx != id).getD true

/-- Every core is at a boundary: the groups start to be saved (R85). -/
def execContextHalted (id : BitVec 12) (s : State) : Host.Outcome State Fault Refusal :=
  .next (match s.ctx? id.toNat with
    | none => s
    | some c =>
      if c.st != .halting || !s.atBoundary id.toNat then s
      else (s.startSaves 0 (s.groupsOf id.toNat)).setCtxState id.toNat .staging)

/-- No group of a context holds a core. -/
def State.allStaged (s : State) (id : Nat) : Bool := s.groups.all fun g => g.2.ctx != id || !g.2.st.resident

/-- The last state is staged: the context is SAVED (R84, R351). -/
def execStagingComplete (id : BitVec 12) (s : State) : Host.Outcome State Fault Refusal :=
  .next (match s.ctx? id.toNat with
    | none => s
    | some c =>
      if c.st != .staging || !s.allStaged id.toNat then s
      else (s.leaveRunning id.toNat).setCtxState id.toNat .saved)

/-- All is discarded and every held record written: the id is free (R84). Accesses that had issued are performed
first. -/
def State.destroyed (s : State) (id : Nat) (c : Ctx) : Bool :=
  c.st == .destroying && c.held.isEmpty && s.groups.all (fun g => g.2.ctx != id) && s.pkts.all (fun p => p.2.ctx != id)
    && s.queues.all (fun q => q.2.ctx != id) && s.accs.all fun a => a.ctx != id

def execDestroyComplete (id : BitVec 12) (s : State) : Host.Outcome State Fault Refusal :=
  .next (match s.ctx? id.toNat with
    | none => s
    | some c =>
      let n := id.toNat
      if !s.destroyed n c then s
      else
        let s := s.setCtxState n .unbound
        { s with
          ctxs := Tbl.erase s.ctxs n
          kernels := s.kernels.filter fun k => k.2.ctx != n
          tlb := s.tlb.filter fun t => t.ctx != n
          views := s.views.filter fun v => v.ctx != n
          cores := mapVals (fun _ k => { k with l1 := k.l1.filter fun l => l.ctx != n }) s.cores })

/-- Held records are written while there is room (R91). -/
def execFqRoomPoll (id : BitVec 12) (s : State) : Host.Outcome State Fault Refusal :=
  .next (match s.ctx? id.toNat with
    | none => s
    | some c => s.flushHeld id.toNat c.held)

/-! ### Losses (R4, R88) -/

/-- The addresses that decide where frame `f` of a context lies, of which `size` bytes are in use: one in each 64 KiB page
(R124), or each byte of the page where a view claims it, whose bytes lie apart (R281, R282). -/
def State.frameVas (s : State) (ctx size f : Nat) : List Nat :=
  let base := ((s.ctx? ctx).map fun c => c.saveb.toNat).getD 0 + 2 ^ 22 * f
  let views := (s.viewsOf ctx).2
  (List.range ((65535 + (base % 65536 + size)) / 65536)).flatMap fun i =>
    let first := max base (65536 * (base / 65536 + i))
    let last := min (base + size) (65536 * (base / 65536 + (i + 1)))
    (if (claiming views (first % 2 ^ 64)).isEmpty then [first] else span first (last - first)).map (· % 2 ^ 64)

/-- Whether the loss of a die takes a group with it: 1 the group was there, or its deep scratch still is; 3 some of its
frame is in that die's memory. -/
def State.lostGroup (s : State) (d : Nat) (gr : Group) : Option Byte :=
  let deepu := ((s.kernel? gr.kern).map Kernel.deepu).getD 0
  let vas := (gr.frame.map (s.frameVas gr.ctx gr.saveSize)).getD []
  if dieOfCore gr.core == d && (gr.st.resident || (gr.keepsDeep && deepu != 0)) then some 1
  else if vas.any fun v => s.vaDie gr.ctx v == some d then some 3
  else none

def State.loseGroups (s : State) (d : Nat) : List Nat → State
  | [] => s
  | g :: gs =>
    match (s.group? g).bind fun gr => (s.kernel? gr.kern).map fun k => (gr, k) with
    | none => State.loseGroups s d gs
    | some (gr, k) =>
      match s.lostGroup d gr with
      | none => State.loseGroups s d gs
      | some sub =>
        let at_ := if sub = 3 then ((s.ctx? gr.ctx).map fun c => c.saveb + BitVec.ofNat 64 (gr.frame.getD 0 * 2 ^ 22)).getD 0
          else 0
        State.loseGroups (s.endGroup g (some (groupRec s gr k 0x40 sub true false 0 at_ 0xFFFF 0 (item 1 gr.lin))) 0x40
          sub) d gs

/-- A command that was on the die's engine, or that needs its memory. -/
def State.loseCmds (s : State) (d : Nat) : List Cmd → State
  | [] => s
  | c :: cs =>
    let s := if c.st == .done then s
      else if dieOfCluster c.cluster == d then s.failCmd c 0x40 1 0
      else if c.st != .waiting || c.kind == .copyR || c.kind == .atomR then s
      else match s.planRows c (true, true) .done (List.range (Block.rows c.block)) with
        | (_, _, .failed code sub addr _) => if code = 0x40 then s.failCmd c code sub addr else s
        | _ => s
    State.loseCmds s d cs

/-- Accesses outstanding to the die's memory fail (R88). -/
def State.loseAccs (s : State) : List Access → State
  | [] => s
  | a :: as =>
    State.loseAccs (if a.level == .global && a.node == 0 && a.pas.any s.lostPa then s.failAccess a 0x40 3 else s) as

/-- The late failures that may reach a context's threads where they stand reach them (R85). -/
def State.faultEach (s : State) : List (Nat × Nat) → State
  | [] => s
  | (g, tid) :: l => State.faultEach (s.faultFirst g tid) l

/-- The threads of a context with such a failure. -/
def State.lateThreads (s : State) (id : Nat) : List (Nat × Nat) :=
  s.groups.flatMap fun g =>
    if g.2.ctx == id && g.2.st.issues then
      ((Tbl.vals g.2.threads).filter fun t => t.dueLate.isSome).map fun t => (g.1, t.tid)
    else []

/-- A bound context that had touched the die stops: its items there are reported, its other groups saved (R88). -/
def State.loseCtx (s : State) (d id : Nat) : State :=
  match s.ctx? id with
  | none => s
  | some c =>
    if !c.tdies.getLsbD d || c.st == .destroying then s
    else
      let s := s.leaveRunning id
      let s := s.modCtx id fun c => { c with dlost := c.dlost ||| BitVec.ofNat 8 (2 ^ d) }
      let s := s.setCtxState id .stopped
      let s := s.loseGroups d (s.groupsOf id)
      let s := s.loseCmds d (s.cmds.filter fun (c : Cmd) => c.ctx == id)
      let s := s.loseAccs (s.accs.filter fun a => a.ctx == id)
      let s := s.faultEach (s.lateThreads id)
      let s := s.mapGroups fun _ g => if g.ctx == id then g.unenq else g
      s.startSaves 2 (s.groupsOf id)

def State.loseCtxs (s : State) (d : Nat) : List Nat → State
  | [] => s
  | c :: cs => State.loseCtxs (s.loseCtx d c) d cs

/-- A compute die is lost (R88). -/
def execDieLoss (die : Fin 8) (s : State) : Host.Outcome State Fault Refusal :=
  .next (
    let d := s.die die
    if d.lost then s
    else
      let s := s.setDie die { d with lost := true }
      s.loseCtxs die (s.ctxs.map Prod.fst))

/-- The Oasis is lost: every context of the package ends (R4). -/
def execOasisLoss (s : State) : Host.Outcome State Fault Refusal :=
  .next { s with
    oasisLost := true
    ctxs := []
    queues := []
    ports := mapVals (fun _ p => { p with attach := none }) s.ports
    regions := []
    pkts := []
    kernels := []
    groups := []
    accs := []
    batches := []
    cmds := []
    reqs := []
    samples := []
    issuing := []
    due := [] }

end Sys2Proof.Machine
end

