-- ==== Sys2Proof/Machine/Rail.lean ====
section
/-! DEFINITION. Power: gating and wakes (R120, R331), throttling and the boost bank (R319, R326), phases and dark clusters
(R330), thermal state (R202), current records and the minimum-voltage latch (R328, R329), the warm reset of a die (R321). -/

namespace Sys2Proof.Machine

/-! ### Clusters that work (R330) -/

/-- A cluster with power: not dark, on a die that is not lost. -/
def State.alive (s : State) (c : Nat) : Bool := !(s.cluster c).dark && !(s.die (dieOfCluster c)).lost

/-- The cluster that serves for `c`: itself, or while it has no power the awake one of lowest rank on its die, or on
another (R330). -/
def State.substitute (s : State) (c : Nat) : Nat :=
  if s.alive c then c
  else
    let best := fun (cs : List Nat) =>
      ((cs.filter s.alive).map fun k => (b2n !(s.cluster k).gate.up, Config.clusterRank k, k)).mergeSort fun x y =>
        x.1 < y.1 || (x.1 == y.1 && (x.2.1 < y.2.1 || (x.2.1 == y.2.1 && x.2.2 ≤ y.2.2)))
    let here := (List.range 16).map (16 * dieOfCluster c + ·)
    match best here with
    | k :: _ => k.2.2
    | [] => ((best (List.range 128)).head?.map fun k => k.2.2).getD c

/-! ### Gating (R120) and wakes (R331) -/

/-- The clusters that share a phase group with `c`. -/
def neighbours (c : Nat) : List Nat := ((List.range 4).map (c / 4 * 4 + ·)).filter (· != c)

/-- Drop what is still timed for a cluster's wake. -/
def State.untime (s : State) (c : Nat) : State :=
  { s with timers := s.timers.filter fun t =>
      t.2 != .softStartStep (Fin.ofNat 128 c) && t.2 != .wakeWaitExpiry (Fin.ofNat 128 c) }

/-- The soft start begins: four steps of 500 ns. -/
def State.softStart (s : State) (c : Nat) : State :=
  let s := s.untime c
  (s.setCluster c { s.cluster c with step := 1, waitUntil := none }).after 500 (.softStartStep (Fin.ofNat 128 c))

/-- The phase groups of a die that two of its clusters share: of VH and VL, and of VM (R330). -/
def sharedGroups (c n : Nat) : List Nat := (if c / 2 == n / 2 then [c % 16 / 2] else []) ++ [8 + c % 16 / 4]

/-- The current cap of a phase group for a cluster: 7/8 of the fused one once a phase has failed (R330), 1.25 times that at
the boost point (R319, R371). -/
def State.phaseCap (s : State) (c group : Nat) : Nat :=
  let d := dieOfCluster c
  let fused := Config.phaseCap d group
  let cap := if (s.die d).failed.any fun f => f.1 == group then fused * 7 / 8 else fused
  if (s.cluster c).boost then cap * 5 / 4 else cap

/-- A waking cluster looks at its neighbours: one that draws more than 90 % of a shared cap delays the soft start (what it
draws is sensed, log 10). -/
def State.checkNeighbours (s : State) (c : Nat) : State :=
  let (n, s) := s.free
  if (neighbours c).any fun k => (sharedGroups c k).any fun g => 9 * s.phaseCap k g < 10 * Config.drawn n k g then
    (s.setCluster c { s.cluster c with waitUntil := some (s.time + 20000) }).after 20000 (.wakeWaitExpiry (Fin.ofNat 128 c))
  else s.softStart c

/-- Neighbours asked to wake in the same cycle, and not at their wake yet, come after a lower cluster. -/
def State.deferWakes (s : State) : List Nat → State
  | [] => s
  | k :: ks => State.deferWakes ((s.untime k).setCluster k { s.cluster k with step := 0, waitUntil := none }) ks

/-- A dispatch or a COPY packet needs the cluster. -/
def State.wakeCluster (s : State) (c : Nat) : State :=
  let k := s.cluster c
  match k.gate with
  | .idle => s.setCluster c { k with gate := .awake, idleCount := 0 }
  | .handshake => s.setCluster c { k with gate := .awake, idleCount := 0 }
  | .gated =>
    let s := s.setCluster c { k with gate := .waking, step := 0, waitUntil := none, asked := s.time, idleCount := 0 }
    let same := (neighbours c).filter fun n => (s.cluster n).gate == .waking && (s.cluster n).asked == s.time
    if same.any (· < c) then s else (s.deferWakes same).checkNeighbours c
  | _ => s

/-- So for some clusters: the substitutes of COPY packets about to start (R330). -/
def State.wakeClusters (s : State) : List Nat → State
  | [] => s
  | c :: cs => State.wakeClusters (s.wakeCluster c) cs

/-- The wake ends; the lowest neighbour asked in the same cycle, which stood behind it, begins its own. -/
def State.wakeComplete (s : State) (c : Nat) : State :=
  let s := s.setCluster c { s.cluster c with gate := .awake, step := 0 }
  match (neighbours c).find? fun n =>
      (s.cluster n).gate == .waking && (s.cluster n).step == 0 && (s.cluster n).waitUntil.isNone
        && (s.cluster n).asked == (s.cluster c).asked with
  | some n => s.checkNeighbours n
  | none => s

/-- A cluster's engine has work: commands, but for those a saved group takes along (R261), or a COPY packet. -/
def State.engineBusy (s : State) (c : Nat) : Bool :=
  s.cmds.any (fun (k : Cmd) => k.cluster == c && k.st != .done
      && !(k.owner.any fun o => ((s.group? o.1).map fun g => g.st == .saved).getD false))
    || s.pkts.any fun p => p.2.owner == c && bits (p.2.img.getD 1 0).toNat 0 4 == 4
        && (p.2.st == .launching || p.2.st == .running)

/-- A cluster has a resident group or engine work. -/
def State.clusterBusy (s : State) (c : Nat) : Bool :=
  s.engineBusy c || s.groups.any fun g => clusterOf g.2.core == c && g.2.st.resident

/-- A cluster's own part of a cycle: an idle one counts (R120). -/
def State.gateTick (s : State) (c : Nat) : State :=
  let k := s.cluster c
  let busy := s.clusterBusy c
  match k.gate with
  | .awake => if busy then s else s.setCluster c { k with gate := .idle, idleCount := 1 }
  | .idle =>
    if busy then s.setCluster c { k with gate := .awake, idleCount := 0 }
    else
      let s := s.setCluster c { k with idleCount := min 64 (k.idleCount + 1) }
      if 63 ≤ k.idleCount then s.later (.gatingIdleExpiry (Fin.ofNat 128 c)) else s
  | _ => s

def execGatingIdleExpiry (cluster : Fin 128) (s : State) : Host.Outcome State Fault Refusal :=
  .next (
    let k := s.cluster cluster
    if k.gate == .idle && k.idleCount == 64 then s.setCluster cluster { k with gate := .handshake } else s)

def execGatingConfirm (cluster : Fin 128) (s : State) : Host.Outcome State Fault Refusal :=
  .next (
    let k := s.cluster cluster
    match k.gate with
    | .handshake => if s.clusterBusy cluster then s.setCluster cluster { k with gate := .awake, idleCount := 0 }
        else s.setCluster cluster { k with gate := .gated, idleCount := 0 }
    | _ => s)

/-- The wait on a busy neighbour ends after 20 µs. -/
def execWakeWaitExpiry (cluster : Fin 128) (s : State) : Host.Outcome State Fault Refusal :=
  .next (
    let k := s.cluster cluster
    if k.gate == .waking && k.waitUntil.any (· ≤ s.time) then s.softStart cluster else s)

/-- A neighbour's draw falls below 90 % of the cap: the cluster that waits for it begins its soft start. -/
def execNeighbourDrawFall (cluster : Fin 128) (s : State) : Host.Outcome State Fault Refusal :=
  .next (
    let k := s.cluster cluster
    if k.gate == .waking && k.waitUntil.isSome then s.softStart cluster else s)

/-- A step of the soft start; the fourth ends the wake. -/
def execSoftStartStep (cluster : Fin 128) (s : State) : Host.Outcome State Fault Refusal :=
  .next (
    let k := s.cluster cluster
    if k.gate != .waking || k.step == 0 then s
    else if k.step < 4 then
      (s.setCluster cluster { k with step := k.step + 1 }).after 500 (.softStartStep cluster)
    else s.wakeComplete cluster)

/-! ### Throttling and boost (R319, R326) -/

def execThrottleExpiry (cluster : Fin 128) (s : State) : Host.Outcome State Fault Refusal :=
  .next (s.setCluster cluster { s.cluster cluster with throttled := false })

def execBoostBankRecharged (cluster : Fin 128) (s : State) : Host.Outcome State Fault Refusal :=
  .next (s.setCluster cluster { s.cluster cluster with bankFull := true })

/-- Boost is withdrawn on a die: its kernels and packets at the boost point go on at OP2. -/
def execBoostWithdraw (die : Fin 8) (s : State) : Host.Outcome State Fault Refusal :=
  .next (
    let here := (s.groups.filter fun g => dieOfCore g.2.core == die && g.2.st.resident).map fun g => g.2.kern
    let s := { s with
      kernels := mapVals (fun n k => if here.contains n && k.point == 3 then { k with point := 2 } else k) s.kernels
      pkts := mapVals (fun _ p => if dieOfCluster p.owner == die && p.point == 3 then { p with point := 2 } else p) s.pkts }
    s.repoints ((List.range 16).map (16 * die.val + ·)))

/-! ### Phases and dark clusters (R330) -/

/-- The clusters a phase group of a die feeds. -/
def fedBy (die pg : Nat) : List Nat :=
  if pg < 8 then [16 * die + 2 * pg, 16 * die + 2 * pg + 1]
  else (List.range 4).map fun i => 16 * die + 4 * (pg - 8) + i

def State.failCmdList (s : State) (code sub : Byte) : List Cmd → State
  | [] => s
  | c :: cs => State.failCmdList (s.failCmd c code sub 0) code sub cs

/-- The items of dark clusters fail: groups resident there, with their commands, each with its one record. -/
def State.darkGroups (s : State) : List Nat → State
  | [] => s
  | g :: gs =>
    match (s.group? g).bind fun gr => (s.kernel? gr.kern).map fun k => (gr, k) with
    | none => State.darkGroups s gs
    | some (gr, k) =>
      let r := groupRec s gr k 0x41 1 true false 0 0 0xFFFF 0 (item 1 gr.lin)
      let s := if gr.ending.isSome then s else s.post gr.ctx r
      let mine := fun (c : Cmd) => (c.owner.map Prod.fst) == some g
      let s := s.failCmds gr k 0x41 2 (s.cmds.filter mine)
      let s := { s with cmds := s.cmds.filter fun c => !mine c }
      State.darkGroups (if gr.ending.isSome then s else s.endRecorded g gr k r) gs

/-- A regulator phase fails. -/
def execPhaseFail (die : Fin 8) (pg : Fin 12) (phase : Fin 8) (s : State) : Host.Outcome State Fault Refusal :=
  .next (
    let d := s.die die
    if d.failed.contains (pg.val, phase.val) then s
    else
      let before := (d.failed.filter fun f => f.1 == pg.val).length
      let s := s.setDie die { d with failed := d.failed ++ [(pg.val, phase.val)] }
      if before == 0 then s.event 1 (pack [(8, phase.val), (4, pg.val), (0, die.val)]) 0 s.time
      else if before == 1 then
        let cs := fedBy die pg
        let s := s.event 2 (pack [(16, (cs.map fun c => 2 ^ (c % 16)).sum), (0, die.val)]) 0 s.time
        let s := { s with clusters := cs.foldl (fun t c => Tbl.put t c { s.cluster c with dark := true }) s.clusters }
        let s := s.darkGroups ((s.groups.filter fun g => cs.contains (clusterOf g.2.core) && g.2.st.resident).map Prod.fst)
        let s := s.failCmdList 0x41 3 (s.cmds.filter fun (c : Cmd) => cs.contains c.cluster && c.owner.isNone && c.st != .done)
        let moves := fun (p : Pkt) => p.st != .running && p.st != .finished && s.substitute p.owner != p.owner
        let started := (s.pkts.filter fun p => moves p.2 && p.2.st == .launching && bits (p.2.img.getD 1 0).toNat 0 4 == 4)
        let s := { s with pkts := mapVals (fun _ p => if moves p then { p with owner := s.substitute p.owner } else p) s.pkts }
        s.wakeClusters (started.map fun p => (s.pkt? p.1).map Pkt.owner |>.getD 0)
      else s)

/-! ### Sensors and reports (R202, R328, R329) -/

/-- A Caliche sensor crosses a threshold. -/
def execCalicheThermal (die : Fin 8) (hot : Bool) (s : State) : Host.Outcome State Fault Refusal :=
  .next (
    let d := s.die die
    if hot && !d.therm then s.setDie die { d with therm := true, thn := d.thn + 1 }
    else s.setDie die { d with therm := hot })

/-- A cluster of a die withholds slots in this µs (R328). -/
def State.noteThrottle (s : State) (d : Nat) : State :=
  let k := s.die d
  let us := some (s.time / 1000)
  if k.thrAt == us then s else s.setDie d { k with thrus := k.thrus + 1, thrAt := us }

/-- The current record of the ms that has ended; currents are sensed (log 10), THRUS is counted. -/
def execCurrentRecord (die : Fin 8) (s : State) : Host.Outcome State Fault Refusal :=
  .next (
    let thrus := (s.die die).thrus
    let s := s.setDie die { s.die die with thrus := 0 }
    if s.mgmt.curbase = 0 || (s.die die).lost then s
    else
      let m := s.time / 1000000 - 1
      let v := fun i => Config.sensed die m i % 65536
      let dark := ((List.range 16).map fun i => if (s.cluster (16 * die.val + i)).dark then 2 ^ i else 0).sum
      s.deviceWords (s.mgmt.curbase.toNat + 65536 * die.val + 64 * (m % 1024))
        [1000000 * m, pack [(48, v 0), (32, v 1), (16, v 2), (0, v 3)], pack [(48, v 4), (32, v 5), (16, dark), (0, thrus)],
         pack [(56, (s.die die).failed.length)], 0, 0, 0, 0])

/-- The latch keeps the lowest voltage and its time. -/
def execVminSample (die : Fin 8) (mv : BitVec 16) (s : State) : Host.Outcome State Fault Refusal :=
  .next (
    let d := s.die die
    if mv < d.vminv then s.setDie die { d with vminv := mv, vmint := s.time } else s)

/-- Any write to VMINV. -/
def execVminvWrite (die : Fin 8) (s : State) : Host.Outcome State Fault Refusal :=
  .next (s.setDie die { s.die die with vminv := 0xFFFF, vmint := 0 })

def State.safeTrims (s : State) : List Nat → State
  | [] => s
  | n :: ns => State.safeTrims (s.setCore n { s.core n with trim := 700 }) ns

def State.lightClusters (s : State) : List Nat → State
  | [] => s
  | c :: cs => State.lightClusters (s.setCluster c { s.cluster c with dark := false }) cs

/-- A warm reset of a die: trims at the safe point, phases and clusters restored; package time runs on (R6, R321, R330). -/
def execDieWarmReset (die : Fin 8) (s : State) : Host.Outcome State Fault Refusal :=
  .next (
    let s := s.setDie die { s.die die with failed := [] }
    (s.safeTrims ((List.range 128).map (128 * die.val + ·))).lightClusters ((List.range 16).map (16 * die.val + ·)))

end Sys2Proof.Machine
end

