-- ==== Sys2Proof/Machine/Queue.lean ====
section
/-! DEFINITION. Queues and packets: ATTACH and DETACH (R93, R94), consumption (R97, R99), readiness and effects (R96, R101), what
follows a packet's end (R101, R102), regions (R103 to R105), tokens (R106), slack and points (R108), EVT's releases (R110),
and the packets of a Mirage replay (R364). -/

namespace Sys2Proof.Machine

/-! ### Packets as read (R95) -/

def Pkt.w (k : Pkt) (i : Nat) : Nat := (k.img.getD i 0).toNat
def Pkt.ptype (k : Pkt) : Nat := bits (k.w 1) 0 4
def Pkt.nsucc (k : Pkt) : Nat := bits (k.w 1) 8 8
def Pkt.core (k : Pkt) : Nat := coreOfCluster k.owner

/-! ### Regions (R103 to R105) -/

/-- A region and its ancestors, nearest first. -/
def State.chain (s : State) : (fuel : Nat) → Nat → List (Nat × Region)
  | 0, _ => []
  | f + 1, r =>
    match Tbl.find? s.regions r with
    | none => []
    | some g => (r, g) :: (match g.parent with | some p => State.chain s f p | none => [])

/-- The chain of a region, at most 16 deep. -/
def State.regionChain (s : State) (r : Nat) : List (Nat × Region) := s.chain 16 r

/-- The effective failure domain: propagate unless the nearest region that sets it contains. -/
def State.propagates (s : State) (r : Nat) : Bool :=
  (((s.regionChain r).find? fun x => x.2.fd != 0).map fun x => x.2.fd == 2).getD true

/-- The effective priority. -/
def State.regionPrio (s : State) (r : Nat) : Nat := (((s.regionChain r).filterMap fun x => x.2.prio).head?).getD 64

/-- A packet's priority (R105). -/
def State.pktPrio (s : State) (k : Pkt) : Nat := if bit (k.w 1) 23 then bits (k.w 1) 16 7 else s.regionPrio k.region

/-- An RCB that a push refuses. -/
def rcbBad (ws : List W64) : Bool :=
  let w := fun i => (ws.getD i 0).toNat
  bits (w 2) 26 38 != 0 || bits (w 2) 11 5 != 0 || bits (w 2) 24 2 == 3 || bits (w 3) 32 32 != 0 || bits (w 4) 4 60 != 0
    || w 5 != 0 || w 6 != 0 || w 7 != 0

/-- A region as its RCB's fields give it. -/
def regionOf (ctx clu : Nat) (rcb : W64) (parent : Option Nat) (depth : Nat) (ws : List W64) : Region :=
  let w := fun i => (ws.getD i 0).toNat
  { rcb := rcb
    parent := parent
    tok := bits (w 1) 0 32
    fd := bits (w 2) 24 2
    prio := if bit (w 2) 23 then some (bits (w 2) 16 7) else none
    maxc := bits (w 2) 0 11
    mq := bits (w 3) 0 32
    depth := depth
    spent := ⟨0, 1⟩
    ctx := ctx
    clu := clu
    owed := none
    paged := none }

/-! ### Tokens (R106) -/

def Share.norm (n d : Nat) : Share := ⟨n / Nat.gcd n d, d / Nat.gcd n d⟩
def Share.add (a b : Share) : Share := Share.norm (a.num * b.den + b.num * a.den) (a.den * b.den)
/-- Whole tokens. -/
def Share.whole (a : Share) : Nat := a.num / a.den
/-- What is left beyond whole tokens. -/
def Share.part (a : Share) : Share := ⟨a.num % a.den, a.den⟩

/-- A tenant's entry and its fields: BAL, REFILL, DEBT, BRW. -/
def State.tenantAt (s : State) (t : Nat) : Nat := s.mgmt.tbbase.toNat + 16 * t
def State.bal (s : State) (t : Nat) : Int := toSigned 32 (s.readN (s.tenantAt t + 4) 4)
def State.refill (s : State) (t : Nat) : Nat := if s.mgmt.tbbase = 0 then 0 else s.readN (s.tenantAt t) 4
def State.debt (s : State) (t : Nat) : Nat := s.readN (s.tenantAt t + 12) 4
def State.brw (s : State) (t : Nat) : Bool := bit (s.readN (s.tenantAt t + 8) 4) 0
def State.setBal (s : State) (t : Nat) (b : Int) : State := s.deviceWrite (s.tenantAt t + 4) 4 (wrap32 b)
def State.setDebt (s : State) (t d : Nat) : State := s.deviceWrite (s.tenantAt t + 12) 4 (d % 2 ^ 32)

/-- A tenant with no ready or running packet. -/
def State.idleTenant (s : State) (t : Nat) : Bool :=
  s.pkts.all fun p => (p.2.st == .pending || p.2.st == .finished)
    || ((s.ctx? p.2.ctx).map fun c => c.tenant != t).getD true

/-- The pool of a period. -/
def State.pool (s : State) : Int :=
  (((List.range 4096).filter s.idleTenant).map fun t => max 0 (s.bal t)).sum - (s.borrowed : Int)

/-- Draw in steps of 10 while the balance is not positive. -/
def State.draw (s : State) (t : Nat) : (fuel : Nat) → State
  | 0 => s
  | f + 1 =>
    if s.bal t ≤ 0 && s.brw t && s.debt t < 4 * s.refill t && 10 ≤ s.pool then
      State.draw { (s.setBal t (s.bal t + 10)).setDebt t (s.debt t + 10) with borrowed := s.borrowed + 10 } t f
    else s

/-- A tenant that may place a new group, after drawing what it may (R106). -/
def State.tenantReady (s : State) (t : Nat) : State × Bool :=
  if s.refill t == 0 then (s, true)
  else if 0 < s.bal t then (s, true)
  else
    let s := s.draw t ((-(s.bal t)).toNat / 10 + 1)
    (s, 0 < s.bal t)

/-- Every tenant that may draws what it lacks, in order of number. -/
def State.draws (s : State) : List Nat → State
  | [] => s
  | t :: ts =>
    State.draws (if s.refill t != 0 && s.bal t ≤ 0 && s.brw t then s.draw t ((-(s.bal t)).toNat / 10 + 1) else s) ts

def State.drawAll (s : State) : State := if s.mgmt.tbbase = 0 then s else s.draws (List.range 4096)

def State.chargeRegions (s : State) (x : Share) : List (Nat × Region) → State
  | [] => s
  | (r, _) :: l =>
    State.chargeRegions { s with regions := Tbl.modify s.regions r fun g => { g with spent := g.spent.add x } } x l

/-- The shares of one core's µs: to the tenants and the region chains, whether or not their kernels still run. -/
def State.chargeCore (s : State) (total : Nat) : List Grant → State
  | [] => s
  | g :: l =>
    let x := Share.norm g.n total
    let s := { s with shares := Tbl.put s.shares g.tenant ((Tbl.get (Share.mk 0 1) s.shares g.tenant).add x) }
    let s := match g.region with
      | some r => s.chargeRegions x (s.regionChain r)
      | none => s
    State.chargeCore s total l

def State.chargeCores (s : State) : List Nat → State
  | [] => s
  | n :: ns =>
    let c := s.core n
    let total := (c.granted.map Grant.n).sum
    State.chargeCores ((s.setCore n { c with granted := [] }).chargeCore total (c.granted.filter fun g => g.ctx != 0)) ns

/-- Whole tokens leave the balances. -/
def State.debit (s : State) : List (Nat × Share) → State
  | [] => s
  | (t, x) :: l => State.debit (if s.mgmt.tbbase = 0 || x.whole == 0 then s else s.setBal t (s.bal t - x.whole)) l

/-- Each µs every core's token is divided among the contexts resident there (R106). -/
def execTokenCharge (s : State) : Host.Outcome State Fault Refusal :=
  .next (
    let s := s.settleAll
    let s := s.chargeCores (s.cores.map Prod.fst)
    let s := s.debit s.shares
    let left := if s.mgmt.tbbase = 0 then [] else
      (s.shares.map fun x => (x.1, x.2.part)).filter fun x => x.2.num != 0
    State.drawAll { s with shares := left })

/-- Repay and refill one tenant. -/
def State.refillTenant (s : State) (t : Nat) : State :=
  let r := s.refill t
  if r == 0 then s
  else
    let repay := min (s.debt t) (r / 4)
    (s.setBal t (min (s.bal t + r - repay) r)).setDebt t (s.debt t - repay)

def State.refillTenants (s : State) : List Nat → State
  | [] => s
  | t :: ts => State.refillTenants (s.refillTenant t) ts

/-- A region has a count to write to TUSED (R103); on a page fault the write waits for RESOLVE (R395), and another fault
leaves TUSED as it is, a step that no row of R395 names (DESIGN CHOICE, log 24). -/
def State.writeTused (s : State) (r : Nat) : State :=
  match Tbl.find? s.regions r with
  | none => s
  | some g =>
    match g.owed, g.paged with
    | some v, none =>
      match s.vwrite g.ctx (coreOfCluster g.clu) (g.rcb.toNat + 12) 4 v 1 with
      | (s, .page b z a) =>
        let s := if a then s.request g.ctx b z needsWrite else s
        { s with regions := Tbl.modify s.regions r fun g => { g with paged := some b } }
      | (s, _) => { s with regions := Tbl.modify s.regions r fun g => { g with owed := none } }
    | _, _ => s

/-- A region's count goes to TUSED now (R103). -/
def State.owe (s : State) (r : Nat) : State :=
  { s with regions := Tbl.modify s.regions r fun g => { g with owed := some (g.spent.whole % 2 ^ 32) } }.writeTused r

/-- The counts that waited are written. -/
def State.retryTuseds (s : State) : List Nat → State
  | [] => s
  | r :: rs => State.retryTuseds (s.writeTused r) rs

def State.writeTuseds (s : State) : List Nat → State
  | [] => s
  | r :: rs => State.writeTuseds (s.owe r) rs

/-- The regions that still count: those on a queue's stack, or above a packet that has not ended (R103). -/
def State.liveRegions (s : State) : List Nat :=
  (((Tbl.vals s.queues).map Queue.region ++ (Tbl.vals s.pkts).map Pkt.region).flatMap fun r =>
    (s.regionChain r).map Prod.fst).eraseDups

/-- A period's boundary: debts repaid, balances refilled, the regions' counts written and begun again (R103, R106). -/
def execTokenRefill (s : State) : Host.Outcome State Fault Refusal :=
  .next (
    let s := if s.mgmt.tbbase = 0 then s else s.refillTenants (List.range 4096)
    let s := ({ s with borrowed := 0 } : State).drawAll.writeTuseds s.liveRegions
    { s with regions := mapVals (fun _ g => { g with spent := ⟨0, 1⟩ }) s.regions })

/-! ### ATTACH and DETACH (R93, R94) -/

def State.answerQ (s : State) (p : Fin 2) (op res : Nat) (busy : Bool) : State :=
  s.setPort p { s.port p with qcmd := BitVec.ofNat 32 (pack [(31, b2n busy), (28, res), (0, op)]) }

/-- The QCB at `qcb` is invalid. -/
def State.qcbBad (s : State) (qcb : Nat) : Bool :=
  let w := fun i => s.readN (qcb + 8 * i) 8
  qcb % 64 != 0 || hbmBytes < qcb + 64 || w 0 == 0 || w 0 % 64 != 0 || bits (w 2) 42 22 != 0 || bits (w 2) 40 2 == 3
    || bit (w 2) 39 || bits (w 2) 12 20 != 0 || w 5 != 0 || w 6 != 0 || w 7 != 0

/-- An attached queue with this QCB: one that is detaching, though its packets still run, is not attached any more, nor
among its cluster's 64 (DESIGN CHOICE, log 25). -/
def State.queueAt (s : State) (qcb : Nat) : Option (Nat × Queue) :=
  List.find? (fun (q : Nat × Queue) => q.2.qcb == qcb && !q.2.detached) s.queues

/-- A command of QCMD that runs on, or a new one: BUSY keeps others out, but for the ATTACH that takes its step again. -/
def Port.takes (p : Port) : Bool :=
  match p.attach with
  | some a => a.paged.isNone
  | none => !bit p.qcmd.toNat 31

/-- QUEUE_ATTACH: the sentinel counts as consumed and done; the stack starts with ROOT. DOP, CLU and CTX are read here, once
(DESIGN CHOICE, log 25). NCONS stays as the QCB holds it, and PARENT and DEPTH of ROOT's RCB as software left them: the spec
gives no write of either (R93, R103; DESIGN CHOICE, log 27). -/
def State.queueAttach (s : State) (port : Fin 2) : State :=
  if !(s.port port).takes then s
  else
    let qcb := ((s.port port).attach.map Attach.qcb).getD (s.port port).qaddr.toNat
    let s := s.setPort port { s.port port with attach := none }
    let w := fun i => s.readN (qcb + 8 * i) 8
    if (s.queueAt qcb).isSome then s.answerQ port 1 6 false
    else if s.qcbBad qcb then s.answerQ port 1 1 false
    else
      let ctx := bits (w 2) 0 12
      let clu := bits (w 2) 32 7
      if ((s.ctx? ctx).map fun c => c.st == .destroying).getD true then s.answerQ port 1 2 false
      else if 64 ≤ (s.queues.filter fun q => q.2.clu == clu && !q.2.detached).length then s.answerQ port 1 3 false
      else
        match s.readWords ctx (coreOfCluster clu) ((List.range 8).map fun i => w 3 + 8 * i) with
        | (s, .ok [ws]) =>
          if w 3 % 64 != 0 || rcbBad ws then s.answerQ port 1 1 false
          else
            let (r, s) := s.free
            let (q, s) := s.free
            let root := regionOf ctx clu (BitVec.ofNat 64 (w 3)) none 0 ws
            let s := { s with
              regions := Tbl.put s.regions r root
              queues := Tbl.put s.queues q
                { qcb := qcb, ctx := ctx, clu := clu, dop := bits (w 2) 40 2, last := BitVec.ofNat 64 (w 0), region := r,
                  blocked := false, paged := none, monitor := none, link := none, failed := none, detachPort := none,
                  detached := false } }
            (s.deviceWrite (qcb + 8) 8 (w 0)).answerQ port 1 0 false
        | (s, .page b z a) =>
          let s := if a then s.request ctx b z needsRead else s
          let s := s.answerQ port 1 0 true
          s.setPort port { s.port port with attach := some ⟨qcb, ctx, some b⟩ }
        | (s, _) => s.answerQ port 1 1 false

def execQueueAttach (port : Fin 2) (s : State) : Host.Outcome State Fault Refusal := .next (s.queueAttach port)

/-- A consumed packet that has not started. -/
def PktState.unstarted : PktState → Bool
  | .pending => true
  | .ready => true
  | .launching => true
  | _ => false

/-- QUEUE_DETACH: BUSY until the queue's last started packet has ended. -/
def execQueueDetach (port : Fin 2) (s : State) : Host.Outcome State Fault Refusal :=
  .next (
    if bit (s.port port).qcmd.toNat 31 then s
    else
      match s.queueAt (s.port port).qaddr.toNat with
      | none => s.answerQ port 2 4 false
      | some (q, _) =>
        let s := s.modQueue q fun k => { k with detached := true, monitor := none, detachPort := some port }
        let s := s.cancelPkts ((s.pkts.filter fun (p : Nat × Pkt) => p.2.queue == q && p.2.st.unstarted).map Prod.fst)
        (s.answerQ port 2 0 true).queueCheck q)

/-! ### Faults of the SCC (R395) -/

/-- A record of a step of the SCC, about the packet at `p`. Its DIE and CORE are 0, as R389 has them in a packet's record, but for
the DIE of a lost one (log 23). -/
def sccRec (s : State) (ctx : Nat) (p : W64) (code sub : Byte) (fin : Bool) (addr : W64) : FaultRec where
  fin := fin
  hnd := false
  die := s.recDie ctx code sub addr.toNat 0
  sub := sub
  code := code
  time := s.time
  pc := 0
  addr := addr
  grp := 0
  kern := 0
  detail := 0
  core := 0
  tid := 0xFFFF
  item := item 3 p.toNat

/-- Read, change and write back a 64-bit word in a context's space as one atomic act. -/
def State.rmw (s : State) (ctx core va : Nat) (f : Nat → Nat) : State × Got :=
  match s.mapAccess ctx core va 8 needsBoth false with
  | (s, .ok pas vas node _) =>
    if node == 0 && s.damageAt pas != 0 then (s, .fault 0x42 (BitVec.ofNat 8 (s.damageAt pas)))
    else
      let old := leNat (s.readMapped pas node)
      match s.ctxWrite ctx core 2 pas vas node (leBytes 8 (f old)) with
      | (s, true) => (s, .ok old)
      | (s, false) => (s, .fault 0x50 2)
  | (s, .fault c sub) => (s, .fault c sub)
  | (s, .page b z a) => (s, .page b z a)

/-! ### Dependences (R101, R102) -/

/-- A consumed packet of a context by its address, while it waits. -/
def State.pendingPkt (s : State) (ctx : Nat) (p : W64) : Option Nat :=
  (List.find? (fun (k : Nat × Pkt) => k.2.ctx == ctx && k.2.addr == p && k.2.st == .pending) s.pkts).map Prod.fst

/-- A record the SCC posts about a packet. -/
def pktEvent (s : State) (ctx : Nat) (p : W64) (kind : Nat) : Completion where
  pkt := p
  val := 0
  late := false
  sub := 0
  code := 0
  kind := kind
  time := s.time
  ctx := ctx

/-- `release_dep`: one atomic act on the packet's word 0x10 (R101). -/
def State.releaseDep (s : State) (ctx core : Nat) (p : W64) : State × Got :=
  match s.rmw ctx core ((p + 0x10).toNat) fun w => if bits w 0 16 == 0 then w else w - 1 with
  | (s, .ok w) =>
    if bits w 0 16 == 1 && bit w 31 && !bit w 30 then
      let s := s.complete (bits w 32 7) (pktEvent s ctx p 3)
      match s.pendingPkt ctx p with
      | some k => (s.modPkt k fun k => { k with st := .ready, readyTime := s.time }, .ok 0)
      | none => (s, .ok 0)
    else (s, .ok 0)
  | r => r

/-- A consumed packet of a context by its address, while it has not started. -/
def State.unstartedPkt (s : State) (ctx : Nat) (p : W64) : Option Nat :=
  (List.find? (fun (k : Nat × Pkt) => k.2.ctx == ctx && k.2.addr == p && k.2.st.unstarted) s.pkts).map Prod.fst

/-- Cancel a successor: at once when it is consumed, else by CXL (R102). One that has started runs to its end: the spec speaks of
no such successor (DESIGN CHOICE, log 27). -/
def State.cancelDep (s : State) (ctx core : Nat) (p : W64) : State × Got :=
  match s.rmw ctx core ((p + 0x10).toNat) fun w => if bit w 31 || bit w 30 then w else w + 2 ^ 30 with
  | (s, .ok w) =>
    match bit w 31, s.unstartedPkt ctx p with
    | true, some k => (s.endPkt k 3 0 0 0, .ok 0)
    | _, _ => (s, .ok 0)
  | r => r

/-- Successors `i` and on of a packet that has ended: released or cancelled; none when all are done, else the page the
step waits for. -/
def State.successors (s : State) (n : Nat) (k : Pkt) (cancel : Bool) : List Nat → State × Option (W64 × Nat × Bool)
  | [] => (s, none)
  | i :: is =>
    let va := (k.w 3 + 8 * i) % 2 ^ 64
    let past := fun (s : State) => s.modPkt n fun k => { k with released := i + 1 }
    match s.vread k.ctx k.core va 8 needsRead with
    | (s, .page b z a) => (s, some (b, z, a))
    | (s, .fault c sub) =>
      State.successors (past (s.post k.ctx (sccRec s k.ctx k.addr c sub false (BitVec.ofNat 64 va)))) n k cancel is
    | (s, .ok v) =>
      let p := BitVec.ofNat 64 v
      match if cancel then s.cancelDep k.ctx k.core p else s.releaseDep k.ctx k.core p with
      | (s, .page b z a) => (s, some (b, z, a))
      | (s, .fault c sub) => State.successors (past (s.post k.ctx (sccRec s k.ctx p c sub false (p + 0x10)))) n k cancel is
      | (s, .ok _) => State.successors (past s) n k cancel is

/-- A packet's step waits for a page. -/
def State.pktWaits (s : State) (n : Nat) (k : Pkt) (base : W64) (size : Nat) (kind : Needs) (absent : Bool) : State :=
  (if absent then s.request k.ctx base size kind else s).modPkt n fun k => { k with paged := some base }

/-! ### Replay (R364, R365) -/

/-- A replay ends: the context is SAVED with PRE 1, its stand-in queue, packets and kernels are gone, and each cluster they were
on goes to the point of the work it has left (R319). -/
def State.endReplay (s : State) (st : MirState) : State :=
  let m := s.mirage
  let s := match m.queue with
    | some q =>
      let ps := s.pkts.filter fun (p : Nat × Pkt) => p.2.queue == q
      let s := { s with
        queues := Tbl.erase s.queues q
        pkts := s.pkts.filter fun p => p.2.queue != q
        kernels := s.kernels.filter fun k => !ps.any fun (p : Nat × Pkt) => p.1 == k.2.pkt }
      s.repoints (ps.map fun (p : Nat × Pkt) => p.2.owner)
    | none => s
  let s := { s with mirage := { s.mirage with st := st, queue := none } }
  (s.leaveRunning m.ctx).setCtxState m.ctx .saved

/-- A replay stops: what it has under way is halted and discarded, the context's other work is left (R364, R365). -/
def State.stopReplay (s : State) (st : MirState) : State :=
  match s.mirage.queue with
  | some q => (s.discardWhere fun p => p.queue == q).endReplay st
  | none => s.endReplay st

/-- The packet is a replay's whose folds have differed: nothing follows it any more (R364). -/
def State.replayStops (s : State) (k : Pkt) : Bool := s.mirage.queue == some k.queue && s.mirage.st == .differed

/-- A replay ends when its last logged packet has. -/
def State.replayCheck (s : State) : State :=
  let m := s.mirage
  match m.queue with
  | none => s
  | some q =>
    let idle := s.pkts.all fun p => p.2.queue != q || p.2.st == .pending
    if !idle then s
    else if m.st == .differed then s.endReplay .differed
    else if m.pos == m.logEnd then s.endReplay .matched
    else s

/-! ### PACKET_FINISH (R101, R102) -/

/-- The completion record of an ended packet (R107). -/
def pktDone (s : State) (k : Pkt) : Completion where
  pkt := k.addr
  val := if k.status == 1 then k.val else 0
  late := k.w 4 != 0 && decide (k.w 4 < s.time)
  sub := if k.status == 2 then k.sub else 0
  code := if k.status == 2 then k.code else 0
  kind := match k.status with | 1 => 0 | 2 => 1 | 3 => 2 | _ => 4
  time := s.time
  ctx := k.ctx

/-- STATUS is written and the completion record posted, once. -/
def State.writeStatus (s : State) (n : Nat) (k : Pkt) : State × Option (W64 × Nat × Bool) :=
  if k.wrote then (s, none)
  else
    let done := fun (s : State) =>
      let s := s.modPkt n fun k => { k with wrote := true }
      if k.quiet then s else s.complete k.owner (pktDone s k)
    match s.vwrite k.ctx k.core ((k.addr + 0x17).toNat) 1 k.status 1 with
    | (s, .page b z a) => (s, some (b, z, a))
    | (s, .fault c sub) => (done (s.post k.ctx (sccRec s k.ctx k.addr c sub false (k.addr + 0x17))), none)
    | (s, .ok _) => (done s, none)

/-- A packet's record is held behind others for want of room (R91). -/
def State.pktHeld (s : State) (k : Pkt) : Bool :=
  ((s.ctx? k.ctx).map fun c => c.held.any fun r => r.item == item 3 k.addr.toNat).getD false

/-- PACKET_FINISH: STATUS, the completion record, the successors. A packet whose record is held waits with it (R91). -/
def execPacketFinish (pkt : Nat) (s : State) : Host.Outcome State Fault Refusal :=
  .next (match s.pkt? pkt with
    | none => s
    | some k =>
      if k.st != .finished || k.paged.isSome || s.sccFrozen k.owner || (!k.wrote && s.pktHeld k) then s
      else
        match s.writeStatus pkt k with
        | (s, some (b, z, a)) => s.pktWaits pkt k b z needsWrite a
        | (s, none) =>
          if s.replayStops k then s.stopReplay .differed
          else
          let cancel := k.status != 1 && s.propagates k.region
          match s.successors pkt k cancel ((List.range k.nsucc).drop k.released) with
          | (s, some (b, z, a)) => s.pktWaits pkt k b z needsBoth a
          | (s, none) =>
            let s := if s.kernels.any fun x => x.2.pkt == pkt && k.ptype == 1 then s.settleAll else s
            let s := { s with
              pkts := Tbl.erase s.pkts pkt
              kernels := s.kernels.filter fun x => !(x.2.pkt == pkt && k.ptype == 1) }
            ((s.repoint k.owner).queueCheck k.queue).replayCheck)

/-- The SCC applies `release_dep` to the packet that an EVT named first (R110). -/
def execEvtReleaseApply (cluster : Fin 128) (s : State) : Host.Outcome State Fault Refusal :=
  .next (
    match (s.cluster cluster).releases with
    | [] => s
    | r :: rs =>
      if r.paged.isSome || s.sccFrozen cluster then s
      else
        let drop := fun (s : State) => s.setCluster cluster { s.cluster cluster with releases := rs }
        match s.releaseDep r.ctx (coreOfCluster cluster) r.pkt with
        | (s, .ok _) => drop s
        | (s, .fault c sub) => drop (s.post r.ctx (sccRec s r.ctx r.pkt c sub false (r.pkt + 0x10)))
        | (s, .page b z a) =>
          let s := if a then s.request r.ctx b z needsBoth else s
          s.setCluster cluster { s.cluster cluster with releases := { r with paged := some b } :: rs })

/-! ### PACKET_CONSUME (R97, R99) -/

/-- Reserved or out-of-place bits of a packet's header, and RO fields a producer must leave 0. -/
def headBad (w : Nat → Nat) : Bool :=
  let ty := bits (w 1) 0 4
  7 ≤ ty || bits (w 1) 26 6 != 0 || bits (w 1) 4 4 != 0 || (if ty == 3 then 2 ≤ bits (w 1) 24 2 else bits (w 1) 24 2 != 0)
    || bits (w 2) 31 33 != 0 || bits (w 2) 16 14 != 0 || w 5 != 0

/-- Reserved bits and values of a packet's body (R96). -/
def bodyBad (w : Nat → Nat) : Bool :=
  match bits (w 1) 0 4 with
  | 1 => false
  | 3 => w 6 % 8 != 0
  | 4 => bits (w 7) 8 56 != 0 || bits (w 7) 0 8 == 0 || w 6 % 64 != 0
  | 5 => w 7 != 0 || bits (w 2) 0 16 != 0
  | 6 => w 7 != 0
  | _ => w 6 != 0 || w 7 != 0

/-- The SCC rejects the packet (R97). -/
def State.rejects (s : State) (q : Queue) (w : Nat → Nat) : Bool :=
  let depth := ((Tbl.find? s.regions q.region).map Region.depth).getD 0
  headBad w || bodyBad w || w 0 % 64 != 0 || (bits (w 1) 8 8 != 0 && w 3 % 8 != 0)
    || (bits (w 1) 0 4 == 5 && (if w 6 == 0 then depth == 0 else 15 ≤ depth))

/-- A REGION packet acts: it pops the current region or pushes another (R104). -/
def State.regionAct (s : State) (n : Nat) (k : Pkt) : State :=
  match s.queue? k.queue with
  | none => s
  | some q =>
    let rcb := k.img.getD 6 0
    if rcb = 0 then
      match (Tbl.find? s.regions q.region).bind Region.parent with
      | none => s.endPkt n 1 0 0 0
      | some p => ((s.owe q.region).modQueue k.queue fun q => { q with region := p }).endPkt n 1 0 0 0
    else
      match s.readWords k.ctx k.core ((List.range 8).map fun i => rcb.toNat + 8 * i) with
      | (s, .page b z a) =>
        (s.pktWaits n k b z needsRead a).modQueue k.queue fun q => { q with paged := some b }
      | (s, .fault c sub va) => s.failPkt n c sub va
      | (s, .ok l) =>
        let ws := l.headD []
        if rcb.toNat % 64 != 0 || rcbBad ws then s.endPkt n 4 0 0 0
        else
          let up := Tbl.find? s.regions q.region
          let depth := (up.map Region.depth).getD 0 + 1
          let parent := (up.map Region.rcb).getD 0
          match s.vwrite k.ctx k.core rcb.toNat 8 parent.toNat 1 with
          | (s, .page b z a) =>
            (s.pktWaits n k b z needsWrite a).modQueue k.queue fun q => { q with paged := some b }
          | (s, .fault c sub) => s.failPkt n c sub rcb.toNat
          | (s, .ok _) =>
            let s := (s.vwrite k.ctx k.core (rcb.toNat + 0x20) 8 depth 1).1
            let (r, s) := s.free
            let s := { s with regions := Tbl.put s.regions r (regionOf k.ctx k.owner rcb (some q.region) depth ws) }
            (s.modQueue k.queue fun q => { q with region := r }).endPkt n 1 0 0 0

/-- A packet whose word 0x10 has been marked enters the SCC's keeping: rejected, cancelled, ready or waiting. -/
def State.keep (s : State) (qn : Nat) (q : Queue) (clu : Nat) (p : W64) (img : List W64) : State :=
  let w := fun i => (img.getD i 0).toNat
  let (n, s) := s.free
  let k : Pkt :=
    { addr := p, ctx := q.ctx, queue := qn, owner := clu, img := img, region := q.region, st := .pending, paged := none,
      status := 0, code := 0, sub := 0, val := 0, readyTime := s.time, startTime := s.time, point := 0, released := 0,
      wrote := false, quiet := false }
  let s := { s.modQueue qn (fun q => { q with last := p, blocked := false, monitor := none, link := none, failed := none }) with
    pkts := Tbl.put s.pkts n k }
  if s.rejects q w then s.endPkt n 4 0 0 0
  else if bit (w 2) 30 && bits (w 1) 0 4 != 5 then s.endPkt n 3 0 0 0
  else if bits (w 1) 0 4 == 5 then (s.modPkt n fun k => { k with st := .ready }).regionAct n { k with st := .ready }
  else if bits (w 2) 0 16 == 0 then s.modPkt n fun k => { k with st := .ready }
  else s

/-- Word 0x10 as consumption leaves it (R99). -/
def consumed (clu w : Nat) : Nat := bits w 0 31 + 2 ^ 31 + clu * 2 ^ 32 + bits w 39 25 * 2 ^ 39

/-- The queue's context lets it be consumed (R94). -/
def State.mayConsume (s : State) (q : Queue) : Bool :=
  !q.detached && (!q.blocked || q.failed.any fun f => f.2.2 ≤ s.time) && q.paged.isNone &&
    !s.sccFrozen (s.substitute q.clu) &&
    ((s.ctx? q.ctx).map fun c => !c.pre && (c.st == .running || c.st == .saved)).getD false

/-- A REGION packet of the queue still has to act. -/
def State.regionPending (s : State) (qn : Nat) : Bool :=
  s.pkts.any fun p => p.2.queue == qn && p.2.ptype == 5 && p.2.st == .ready

/-- The SCC waits for a write to the word at `pas` (R99, R219). -/
def State.armQueue (s : State) (qn : Nat) (pas : List Nat) (node : Nat) : State :=
  let sec := sectorKey (pas.headD 0) node
  let s := s.makeRoom (Config.slice (sec / 2) % 64)
  let (n, s) := s.free
  s.modQueue qn fun q => { q with blocked := true, monitor := some (sec, n), link := none, failed := none }

/-- A step of consumption fails: its record, and the wait for another write of the link word, of no other byte (R395). A NEXT that does not
translate has no sector to be watched: it is read again after 1 µs, and the same failure has its record once (DESIGN CHOICE,
log 24). -/
def State.consumeFault (s : State) (qn : Nat) (q : Queue) (p : W64) (code sub : Byte) (fin : Bool) (addr : W64)
    (link : Option (List Nat × Nat)) : State :=
  let again := q.failed.any fun f => f.1 == code && f.2.1 == sub
  let s := if link.isNone && again then s else s.post q.ctx (sccRec s q.ctx p code sub fin addr)
  match link with
  | some (pas, 0) => s.modQueue qn fun q => { q with blocked := true, monitor := none, link := some pas, failed := none }
  | some (pas, node) => s.armQueue qn pas node
  | none => s.modQueue qn fun q => { q with blocked := true, failed := some (code, sub, s.time + 1000) }

def State.queueWaits (s : State) (qn : Nat) (q : Queue) (base : W64) (size : Nat) (kind : Needs) (absent : Bool) : State :=
  (if absent then s.request q.ctx base size kind else s).modQueue qn fun q => { q with paged := some base }

/-- A KIND 0 log entry (R362). -/
def pktEntry (img : List W64) (p : W64) (time : Nat) : List Nat :=
  (List.range 8).map (fun i => (img.getD i 0).toNat) ++ [p.toNat, time, 0, 0, 0, 0, 0, 0]

/-- Consume the packet that the link word at `pas` names. -/
def State.consumeNext (s : State) (qn : Nat) (q : Queue) (clu : Nat) (p : W64) (pas : List Nat) (node : Nat) : State :=
  let core := coreOfCluster clu
  match s.readWords q.ctx core ((List.range 8).map fun i => p.toNat + 8 * i) with
  | (s, .page b z a) => s.queueWaits qn q b z needsRead a
  | (s, .fault c sub va) => s.consumeFault qn q p c sub true (BitVec.ofNat 64 va) (some (pas, node))
  | (s, .ok l) =>
    let img := l.headD []
    match s.rmw q.ctx core ((p + 0x10).toNat) (consumed clu) with
    | (s, .page b z a) => s.queueWaits qn q b z needsBoth a
    | (s, .fault c sub) => s.consumeFault qn q p c sub true (p + 0x10) (some (pas, node))
    | (s, .ok _) =>
      let s := if s.mirage.st == .capturing && s.mirage.ctx == q.ctx then s.log (pktEntry img p s.time) else s
      let s := (s.deviceWrite (q.qcb + 8) 8 p.toNat).deviceWrite (q.qcb + 0x20) 8 ((s.readN (q.qcb + 0x20) 8 + 1) % 2 ^ 64)
      s.keep qn q clu p img

/-- Consume the next logged packet of a replay, once every earlier one has ended or waits for a dependence. -/
def State.replayNext (s : State) (qn : Nat) (q : Queue) : State :=
  let m := s.mirage
  let clu := s.substitute q.clu
  if m.st != .replaying || m.logEnd ≤ m.pos || s.sccFrozen clu || s.pkts.any fun p => p.2.queue == qn && p.2.st != .pending then s
  else
    let at_ := m.base.toNat + 128 * m.pos
    let next := fun (s : State) => ({ s with mirage := { s.mirage with pos := m.pos + 1 } }).replayCheck
    match s.readWords q.ctx (coreOfCluster clu) ((List.range 11).map fun i => at_ + 8 * i) with
    | (s, .page b z a) => s.queueWaits qn q b z needsRead a
    | (s, .fault _ _ _) => next s
    | (s, .ok l) =>
      let ws := l.headD []
      let p := ws.getD 8 0
      if bits (ws.getD 10 0).toNat 0 2 != 0 then next s
      else
        match s.vwrite q.ctx (coreOfCluster clu) ((p + 0x10).toNat) 8 (consumed clu (ws.getD 2 0).toNat) 2 with
        | (s, .page b z a) => s.queueWaits qn q b z needsWrite a
        | (s, .fault c sub) => next (s.post q.ctx (sccRec s q.ctx p c sub true (p + 0x10)))
        | (s, .ok _) => ({ s with mirage := { s.mirage with pos := m.pos + 1 } }).keep qn q clu p (ws.take 8)

/-- The SCC reads the link word of the last packet, and consumes the next one or waits (R99). -/
def execPacketConsume (queue : Nat) (s : State) : Host.Outcome State Fault Refusal :=
  .next (match s.queue? queue with
    | none => s
    | some q =>
      if s.mirage.queue == some queue then (if q.paged.isSome || s.regionPending queue then s else s.replayNext queue q)
      else if !s.mayConsume q || s.regionPending queue then s
      else
        let clu := s.substitute q.clu
        match s.mapAccess q.ctx (coreOfCluster clu) q.last.toNat 8 needsRead false with
        | (s, .page b z a) => s.queueWaits queue q b z needsRead a
        | (s, .fault c sub) => s.consumeFault queue q q.last c sub false q.last none
        | (s, .ok pas _ node _) =>
          if node == 0 && s.damageAt pas != 0 then
            s.consumeFault queue q q.last 0x42 (BitVec.ofNat 8 (s.damageAt pas)) false q.last (some (pas, node))
          else
            let next := leNat (s.readMapped pas node) / 64 * 64
            if next == 0 then s.armQueue queue pas node
            else s.consumeNext queue q clu (BitVec.ofNat 64 next) pas node)

/-! ### Slack and point (R108) -/

/-- The smaller of two times, none being later than all. -/
def earlier : Option Int → Option Int → Option Int
  | some a, some b => some (min a b)
  | some a, none => some a
  | none, b => b

/-- A step of the slack's computation: a value, or a page it waits for (R395). -/
inductive Reckon (α : Type) where
  | ok (v : α)
  | page (base : W64) (size : Nat) (absent : Bool)
  deriving DecidableEq, Repr

/-- A packet's estimate in ns; a KERNEL with none takes its descriptor's. A descriptor that cannot be read gives none, a step
that no row of R395 names (DESIGN CHOICE, log 24). -/
def State.estOf (s : State) (ctx core : Nat) (img : List W64) : State × Reckon Nat :=
  let w := fun i => (img.getD i 0).toNat
  let e := bits (w 1) 32 32
  if e != 0 || bits (w 1) 0 4 != 1 then (s, .ok (1000 * e))
  else match s.vread ctx core ((w 6 + 0x1C) % 2 ^ 64) 4 needsRead with
    | (s, .ok v) => (s, .ok (1000 * v))
    | (s, .page b z a) => (s, .page b z a)
    | (s, .fault _ _) => (s, .ok 0)

/-- The packets that a list of addresses names; an entry that cannot be read contributes nothing (DESIGN CHOICE, log 24). -/
def State.images (s : State) (ctx core : Nat) : List Nat → State × Reckon (List (List W64))
  | [] => (s, .ok [])
  | va :: l =>
    match s.vread ctx core va 8 needsRead with
    | (s, .page b z a) => (s, .page b z a)
    | (s, .fault _ _) => s.images ctx core l
    | (s, .ok p) =>
      match s.readWords ctx core ((List.range 8).map fun i => p + 8 * i) with
      | (s, .page b z a) => (s, .page b z a)
      | (s, .fault _ _ _) => s.images ctx core l
      | (s, .ok ls) =>
        match s.images ctx core l with
        | (s, .ok r) => (s, .ok (ls.headD [] :: r))
        | r => r

/-- One packet's part of it: `below` reckons its successors. -/
def State.latestStep (ctx core : Nat) (below : State → List (List W64) → State × Reckon (Option Int))
    (acc : State × Reckon (Option Int)) (img : List W64) : State × Reckon (Option Int) :=
  match acc with
  | (s, .page b z a) => (s, .page b z a)
  | (s, .ok l) =>
    let w := fun i => (img.getD i 0).toNat
    match s.images ctx core ((List.range (bits (w 1) 8 8)).map fun i => (w 3 + 8 * i) % 2 ^ 64) with
    | (s, .page b z a) => (s, .page b z a)
    | (s, .ok succ) =>
      match below s succ with
      | (s, .page b z a) => (s, .page b z a)
      | (s, .ok later) =>
        match s.estOf ctx core img with
        | (s, .page b z a) => (s, .page b z a)
        | (s, .ok est) =>
          let own : Option Int := if w 4 == 0 then none else some (w 4)
          (s, .ok (earlier l ((earlier own later).map fun t => t - est)))

/-- L of some packets at once: the earliest of their latest starts, following successors `fuel` levels. -/
def State.latest (s : State) (ctx core : Nat) : (fuel : Nat) → List (List W64) → State × Reckon (Option Int)
  | 0, _ => (s, .ok none)
  | f + 1, imgs => imgs.foldl (State.latestStep ctx core fun s imgs => State.latest s ctx core f imgs) (s, .ok none)

/-- The point for a slack: the QCB's where no deadline is in reach; boost in place of OP2 is firmware's choice (R319). -/
def pointFor (dop est : Nat) (slack : Option Int) (grant : Bool) : Nat :=
  match slack with
  | none => dop
  | some d =>
    if 7 * (est : Int) ≤ 15 * d then 0
    else if 3 * (est : Int) ≤ 19 * d then 1
    else if d < 0 && grant then 3 else 2

/-- A running packet names another as its successor, as far as its list can be read. -/
def State.precedes (s : State) (k : Pkt) (addr : W64) : List Nat → State × Reckon Bool
  | [] => (s, .ok false)
  | i :: is =>
    match s.vread k.ctx k.core ((k.w 3 + 8 * i) % 2 ^ 64) 8 needsRead with
    | (s, .page b z a) => (s, .page b z a)
    | (s, .fault _ _) => State.precedes s k addr is
    | (s, .ok v) => if v == addr.toNat then (s, .ok true) else State.precedes s k addr is

/-- From when a packet's slack counts: now, or the end that an EVT ESTIMATE gave a running kernel before it (R110). -/
def State.slackFrom (s : State) (p : Pkt) (t : Nat) : List Kernel → State × Reckon Nat
  | [] => (s, .ok t)
  | k :: ks =>
    match k.estimate, s.pkt? k.pkt with
    | some e, some q =>
      if q.ctx != p.ctx || e ≤ t then State.slackFrom s p t ks
      else match s.precedes q p.addr (List.range q.nsucc) with
        | (s, .page b z a) => (s, .page b z a)
        | (s, .ok yes) => State.slackFrom s p (if yes then e else t) ks
    | _, _ => State.slackFrom s p t ks

/-- The operating point of a ready packet. -/
def State.choosePoint (s : State) (k : Pkt) : State × Reckon Nat :=
  let dop := ((s.queue? k.queue).map Queue.dop).getD 0
  match s.latest k.ctx k.core 9 [k.img] with
  | (s, .page b z a) => (s, .page b z a)
  | (s, .ok l) =>
    match s.estOf k.ctx k.core k.img with
    | (s, .page b z a) => (s, .page b z a)
    | (s, .ok est) =>
      match s.slackFrom k s.time (Tbl.vals s.kernels) with
      | (s, .page b z a) => (s, .page b z a)
      | (s, .ok t) =>
        let (n, s) := s.free
        (s, .ok (pointFor dop est (l.map fun x => x - t) (Config.freeChoice n && k.ptype == 1)))

/-- A ready packet's point is chosen, or it waits for a page on the way. -/
def State.withPoint (s : State) (n : Nat) (k : Pkt) (f : State → Nat → State) : State :=
  match s.choosePoint k with
  | (s, .ok p) => f s p
  | (s, .page b z a) => s.pktWaits n k b z needsRead a

/-! ### PACKET_READY (R96, R101) -/

/-- The effect of a SIGNAL. One in a peer's memory ends with the peer's answer (R340). -/
def State.signal (s : State) (n : Nat) (k : Pkt) : State :=
  let va := k.w 6
  let kind := if bits (k.w 1) 24 2 == 1 then needsBoth else needsWrite
  match s.mapAccess k.ctx k.core va 8 kind false with
  | (s, .page b z a) => s.pktWaits n k b z kind a
  | (s, .fault c sub) => s.failPkt n c sub va
  | (s, .ok pas vas node _) =>
    if s.portBlocked node (pas.headD 0) then s
    else if node != 0 then
      match s.sendReq (.pkt n) node (pas.headD 0) 8 (some (k.w 7)) (if bits (k.w 1) 24 2 == 0 then none else some 1#4)
          (s.viaOf k.ctx k.core kind pas vas (pas.headD 0)) with
      | (s, none) => s.failPkt n 0x50 2 va
      | (s, some _) => if isHostNode node then s.endPkt n 1 0 0 0 else s.modPkt n fun k => { k with st := .running }
    else if bits (k.w 1) 24 2 == 0 then (s.localWrite k.ctx none 1 pas vas (leBytes 8 (k.w 7))).endPkt n 1 0 0 0
    else if s.damageAt pas != 0 then s.failPkt n 0x42 (BitVec.ofNat 8 (s.damageAt pas)) va
    else (s.atomicAt k.ctx none 2 1#4 pas vas (k.w 7) 0).1.endPkt n 1 0 0 0

/-- A ready packet starts its effect. -/
def execPacketReady (pkt : Nat) (s : State) : Host.Outcome State Fault Refusal :=
  .next (match s.pkt? pkt with
    | none => s
    | some k =>
      if k.st != .ready || k.paged.isSome || s.sccFrozen k.owner then s
      else match k.ptype with
        | 1 =>
          s.withPoint pkt k fun s p => s.modPkt pkt fun k => { k with st := .launching, point := p }
        | 3 => s.signal pkt k
        | 4 =>
          s.withPoint pkt k fun s p =>
            let clu := s.substitute k.owner
            (s.modPkt pkt fun k => { k with st := .launching, point := p, owner := clu }).wakeCluster clu
        | 5 => s.regionAct pkt k
        | _ => s.endPkt pkt 1 0 0 0)

end Sys2Proof.Machine
end

