-- ==== Sys2Proof/Machine/Kernel.lean ====
section
/-! DEFINITION. Kernels and groups: the launch (R111 to R113, R117), placement (R105, R114, R118, R119), the normal end of a
group (R116), its save frame (R124) and its restore (R123). -/

namespace Sys2Proof.Machine

/-! ### Launch (R111 to R113) -/

/-- Reserved fields of a descriptor, CKM and TRAPV: row 3 of R112. -/
def descReserved (w : Nat → Nat) : Bool :=
  bits (w 4) 59 5 != 0 || bits (w 4) 53 3 != 0 || bits (w 4) 32 5 != 0 || bits (w 4) 30 2 != 0 || bits (w 5) 44 20 != 0
    || bits (w 5) 17 15 != 0 || bits (w 6) 45 19 != 0 || bits (w 6) 1 31 != 0 || w 7 != 0 || bits (w 4) 40 2 == 3
    || w 1 % 4 != 0

/-- The group's three sizes, the grid's, and their products. -/
def descGroup (w : Nat → Nat) : Nat × Nat × Nat := (bits (w 4) 0 10 + 1, bits (w 4) 10 10 + 1, bits (w 4) 20 10 + 1)
def descGrid (w : Nat → Nat) : Nat × Nat × Nat := (bits (w 2) 0 32, bits (w 2) 32 32, bits (w 3) 0 32)
def volume (d : Nat × Nat × Nat) : Nat := d.1 * d.2.1 * d.2.2

/-- Values out of range: row 4 of R112. -/
def descRange (w : Nat → Nat) : Bool :=
  volume (descGrid w) == 0 || 1024 < volume (descGroup w) || 2 ^ 32 ≤ volume (descGrid w) || 2048 < bits (w 5) 32 12
    || 65536 < bits (w 5) 0 17 || bits (w 6) 32 13 < 64 || 4096 < bits (w 6) 32 13 || 16 < bits (w 4) 48 5
    || 32 < bits (w 4) 42 6

/-- One group can never fit: row 6 of R112. -/
def State.neverFits (s : State) (k : Pkt) (deepu : Nat) : Bool :=
  let deep := ((s.ctx? k.ctx).map Ctx.deep).getD 0
  4096 * deep < deepu || (s.regionChain k.region).any fun r => r.2.mq != 0 && r.2.mq < deepu

/-- The kernel a valid launch makes. -/
def launched (s : State) (c : Ctx) (n : Nat) (k : Pkt) (w : Nat → Nat) (id : Nat) : Kernel :=
  let g := descGroup w
  let d := descGrid w
  { ctx := k.ctx, id := id, pkt := n, entry := BitVec.ofNat 64 (w 0), trapv := BitVec.ofNat 64 (w 1)
    gdimx := d.1, gdimy := d.2.1, gdimz := d.2.2, gszx := g.1, gszy := g.2.1, gszz := g.2.2
    allot := 8 * (bits (w 4) 56 3 + 1), tiles := bits (w 4) 48 5, accs := bits (w 4) 42 6, ckm := bits (w 4) 40 2
    nbv := if bits (w 4) 37 3 == 7 then c.nbvd else bits (w 4) 37 3
    scru := bits (w 5) 32 12, deepu := bits (w 5) 0 17, agel := bits (w 6) 32 13, aest := bit (w 6) 0
    kdesc := BitVec.ofNat 64 (k.w 6), args := BitVec.ofNat 64 (k.w 7)
    est := if bits (k.w 1) 32 32 != 0 then bits (k.w 1) 32 32 else bits (w 3) 32 32
    point := k.point, prio := s.pktPrio k, readyTime := k.readyTime, region := k.region, next := 0, st := .placing
    fail := none, start := none, tolerant := false, floatUnits := [], units := [], estimate := none }

/-- A launch that fails: the kernel's one record (R117). It has no launch identifier: KERNID is 0 (DESIGN CHOICE, log 23). -/
def State.failLaunch (s : State) (n : Nat) (k : Pkt) (code sub : Byte) : State :=
  (s.post k.ctx (pktRec s k code sub true (k.w 6) 0xFFFFFFFF 0)).endPkt n 2 code sub 0

/-- The next launch identifier: modulo 2^32, skipping 0 (R113). -/
def nextKernel (n : Nat) : Nat := if (n + 1) % 2 ^ 32 == 0 then 1 else (n + 1) % 2 ^ 32

/-- The checks of R112 on a descriptor that could be read, in order, before ENTRY's word is looked at as a header. -/
def State.descCheck (s : State) (k : Pkt) (w : Nat → Nat) : Option (Byte × Byte) :=
  if descReserved w then some (0x01, 0x10)
  else if descRange w then some (0x01, 0x11)
  else if !(bits (w 4) 37 3 == 0 || bits (w 4) 37 3 == 1 || bits (w 4) 37 3 == 7) then some (0x01, 0x12)
  else if s.neverFits k (bits (w 5) 0 17) then some (0x01, 0x13)
  else none

/-- A ready KERNEL packet's descriptor is read and checked, and the kernel fixed (R112, R113). An ENTRY that is no multiple of 4
(R111) has no case in R112: it is answered as one whose word is no header, BAD_TARGET 0x06 (DESIGN CHOICE, log 27). -/
def execKernelLaunch (pkt : Nat) (s : State) : Host.Outcome State Fault Refusal :=
  .next (match (s.pkt? pkt).bind fun k => (s.ctx? k.ctx).map fun c => (k, c) with
    | none => s
    | some (k, _) =>
      if k.st != .launching || k.paged.isSome || k.ptype != 1 || s.sccFrozen k.owner then s
      else if k.w 6 % 64 != 0 then s.failLaunch pkt k 0x06 5
      else
        match s.readWords k.ctx k.core ((List.range 8).map fun i => k.w 6 + 8 * i) with
        | (s, .page b z a) => s.pktWaits pkt k b z needsRead a
        | (s, .fault c sub _) => s.failLaunch pkt k c sub
        | (s, .ok l) =>
          let w := fun i => ((l.headD []).getD i 0).toNat
          match s.vread k.ctx k.core (w 0) 4 needsFetch with
          | (s, .page b z a) => s.pktWaits pkt k b z needsFetch a
          | (s, .fault c sub) => s.failLaunch pkt k c sub
          | (s, .ok h) =>
            match s.descCheck k w with
            | some (c, sub) => s.failLaunch pkt k c sub
            | none =>
              if !isHeader h || w 0 % 4 != 0 then s.failLaunch pkt k 0x03 6
              else
                match s.ctx? k.ctx with
                | none => s
                | some c =>
                  let id := c.kernNext
                  let s := s.modCtx k.ctx fun c => { c with kernNext := nextKernel id }
                  let (s, kr) := s.noteLaunch k.queue k.addr (launched s c pkt k w id)
                  let s := { s with kernels := Tbl.put s.kernels (k.ctx * 2 ^ 32 + id) kr }
                  s.modPkt pkt fun k => { k with st := .running, startTime := s.time })

/-! ### Placement (R118, R119) -/

def Kernel.threads (k : Kernel) : Nat := k.gszx * k.gszy * k.gszz
def Kernel.warps (k : Kernel) : Nat := (k.threads + warpSize - 1) / warpSize
def Kernel.groups (k : Kernel) : Nat := k.gdimx * k.gdimy * k.gdimz

/-- The kernels of a core's resident groups. -/
def State.residentKernels (s : State) (core : Nat) : List Kernel :=
  (s.residents core).filterMap fun g => s.kernel? g.2.kern

/-- Warps free on a core. -/
def State.freeWarps (s : State) (core : Nat) : Nat := 32 - ((s.residentKernels core).map Kernel.warps).sum

/-- The core itself has room (R118). -/
def State.coreFits (s : State) (core : Nat) (k : Kernel) : Bool :=
  let ks := s.residentKernels core
  k.warps ≤ s.freeWarps core && (ks.map Kernel.tiles).sum + k.tiles ≤ 16 && (ks.map Kernel.accs).sum + k.accs ≤ 32
    && (ks.map Kernel.scru).sum + k.scru ≤ 2048 && !s.mgmt.frozen.contains (0, Config.coreNumber core)

/-- The deep-scratch units of a context on a die where it holds them. -/
def State.deepOf (s : State) (ctx : Nat) : Nat := ((s.ctx? ctx).map Ctx.deep).getD 0

/-- The contexts with a group on a die that some pick, but for one. -/
def State.ctxsOn (s : State) (die ctx : Nat) (p : Group → Bool) : List Nat :=
  ((s.groups.filter fun g => dieOfCore g.2.core == die && g.2.ctx != ctx && p g.2).map fun g => g.2.ctx).eraseDups

/-- Deep scratch units and space on a core's die (R82, R118): what resident groups of the context hold there, and what its
saved groups have left there (R85, R121), but for the group that is placed again. -/
def State.dieFits (s : State) (core : Nat) (ctx : Nat) (k : Kernel) (again : Option Nat) : Bool :=
  let die := dieOfCore core
  let mine := (s.groups.filter fun g => g.2.ctx == ctx && dieOfCore g.2.core == die && some g.1 != again
    && (g.2.st.resident || g.2.keepsDeep)).filterMap fun g => s.kernel? g.2.kern
  ((s.ctxsOn die ctx fun g => g.st.resident).map s.deepOf).sum + s.deepOf ctx ≤ 15
    && (mine.map Kernel.deepu).sum + k.deepu ≤ 4096 * s.deepOf ctx

/-- A context comes to a die: the units that only saved groups of others still hold there are freed as far as it needs them,
lowest context first (DESIGN CHOICE, log 23), their deep scratch going to the save area (R85). -/
def State.takeUnits (s : State) (die ctx : Nat) : List Nat → State
  | [] => s
  | c :: cs =>
    let held := (s.ctxsOn die ctx fun g => g.st.resident || g.keepsDeep).map s.deepOf
    if held.sum + s.deepOf ctx ≤ 15 then s
    else State.takeUnits (s.mapGroups fun _ g =>
      if g.ctx == c && dieOfCore g.core == die && g.keepsDeep then { g with deepIn := false } else g) die ctx cs

/-- The contexts that hold units of a die through saved groups alone. -/
def State.leftOn (s : State) (die ctx : Nat) : List Nat :=
  ((s.ctxsOn die ctx Group.keepsDeep).filter fun c => !(s.ctxsOn die ctx fun g => g.st.resident).contains c).mergeSort

/-- The region chain allows a group of `k` on a core (R105). Spent tokens of a region keep a saved group from being placed as well
as a new one: R105 speaks of new groups only, and R118 names no region's tokens (DESIGN CHOICE, log 27). -/
def State.regionFits (s : State) (core : Nat) (k : Kernel) : Bool :=
  (s.regionChain k.region).all fun r =>
    let gs := s.groups.filter fun g => g.2.st.resident &&
      ((s.kernel? g.2.kern).map fun x => (s.regionChain x.region).any fun y => y.1 == r.1).getD false
    let cores := (core :: gs.map fun g => g.2.core).eraseDups.length
    let deep := ((gs.filterMap fun g => s.kernel? g.2.kern).map Kernel.deepu).sum + k.deepu
    (r.2.maxc == 0 || cores ≤ r.2.maxc) && (r.2.mq == 0 || deep ≤ r.2.mq)
      && (r.2.tok == 2 ^ 32 - 1 || r.2.spent.whole < r.2.tok)

/-- The context has a free frame beyond its resident groups (R124). -/
def State.frameFits (s : State) (ctx : Nat) : Bool :=
  let resident := (s.groups.filter fun g => g.2.ctx == ctx && g.2.st.resident).length
  ((s.ctx? ctx).map fun c => decide (resident < 32768 - c.frames.length)).getD false

/-- At most 256 contexts hold cores (R80). -/
def State.ctxFits (s : State) (ctx : Nat) : Bool :=
  let cs := ((s.groups.filter fun g => g.2.st.resident).map fun g => g.2.ctx).eraseDups
  cs.contains ctx || cs.length < 256

/-- A HALTG keeps new groups of its kernel off (R128). -/
def State.haltgBars (s : State) (kern core : Nat) : Bool :=
  s.groups.any fun g => g.2.kern == kern && g.2.holder.isSome && (g.2.scope == 1 || g.2.core == core)

/-- The order of R119: awake clusters first, then rank, then the fullest core, then its number. -/
def coreKey (s : State) (core : Nat) : List Nat :=
  let c := clusterOf core
  let k := s.cluster c
  [b2n !k.gate.up, Config.clusterRank c, s.freeWarps core, Config.coreNumber core]

def lexLe : List Nat → List Nat → Bool
  | [], _ => true
  | _ :: _, [] => false
  | a :: as, b :: bs => a < b || (a == b && lexLe as bs)

/-- The least of some cores in that order. -/
def leastCore (s : State) : List Nat → Option Nat
  | [] => none
  | c :: cs =>
    match leastCore s cs with
    | none => some c
    | some d => if lexLe (coreKey s c) (coreKey s d) then some c else some d

/-- The core the distributor chooses for a group of kernel `kn`: a saved one to be placed `again`, or a new one. -/
def State.chooseCore (s : State) (kn : Nat) (k : Kernel) (again : Option Nat) : Option Nat :=
  if !s.frameFits k.ctx || !s.ctxFits k.ctx then none
  else leastCore s ((List.range 1024).filter fun c =>
    s.alive (clusterOf c) && s.coreFits c k && s.dieFits c k.ctx k again && s.regionFits c k
      && !(again.isNone && s.haltgBars kn c))

/-- The lowest free warp positions of a core: those that the distributor assigns to a group's warps, new or placed again (R132
says only that it assigns them; DESIGN CHOICE, log 27). -/
def State.freePlaces (s : State) (core n : Nat) : List Nat :=
  let used := (s.residents core).flatMap fun g => (Tbl.vals g.2.warps).map Warp.place
  ((List.range 32).filter fun p => !used.contains p).take n

/-- Undefined content of `n` pieces of storage, numbered from `seed` (R114). -/
def stores {α : Type} (seed n : Nat) : Tbl (Store α) := (List.range n).map fun i => (i, ⟨seed + i, []⟩)

/-- A thread as placement makes it (R114, R130). -/
def Thread.placed (tid : Nat) (entry args : W64) : Thread :=
  Thread.setX2
    { tid := tid, pos := Pos.header entry, x := [], p := 0, stack := [], rep := none, ptimeh := 0, handler := none
      run := .runnable, monitor := none, late := [], yieldLeft := 0, noticeLeft := 0, notice := none, skipBreak := false
      stepping := false, again := none, pass := false, part := none, last := entry } 0 args

/-- A group as placement makes it (R114); `seed` numbers its undefined storage. -/
def Group.placed (k : Kernel) (kn lin core : Nat) (places : List Nat) (seed : Nat) : Group :=
  { ctx := k.ctx, kern := kn, lin := lin, gx := lin % k.gdimx, gy := lin / k.gdimx % k.gdimy
    gz := lin / (k.gdimx * k.gdimy), core := core, firstCore := core, st := .running, ret := .running
    threads := (List.range k.threads).map fun i => (i, Thread.placed i k.entry k.args)
    warps := (places.zipIdx).map fun p =>
      (p.2, { lq := [], sq := [], cq := [], mq := [], mode := k.ckm, chkstat := 0, batch := none, place := p.1, entries := [] })
    barriers := [], cvs := [], hseed := [], retrymax := 2, tcs := ⟨seed, []⟩, scratch := ⟨seed + 1, []⟩
    deep := ⟨seed + 2, []⟩, tiles := stores (seed + 3) k.tiles, accs := stores (seed + 3 + k.tiles) k.accs
    windows := [], holds := [], holder := none, scope := 0, targets := [], count := 0, why := 1, active := false, frame := none
    cause := 0, pages := [], saveTime := 0, saveSize := 0, deepIn := true, failing := none, swaps := [],
    ending := none }

/-- What every placement brings about on its core: the L1 cedes what the scratch share has grown by from `old`, the cluster is
woken and its point set, TDIES marked, the context RUNNING, a warp in EXACT pinned (R84, R87, R120, R199, R319, R324). -/
def State.occupy (s : State) (ctx core old : Nat) : State :=
  let s := s.cedeL1 core old
  let s := s.wakeCluster (clusterOf core)
  let s := s.takeUnits (dieOfCore core) ctx (s.leftOn (dieOfCore core) ctx)
  let s := s.modCtx ctx fun c => { c with tdies := c.tdies ||| BitVec.ofNat 8 (2 ^ dieOfCore core) }
  let s := if ((s.ctx? ctx).map fun c => c.st == .saved).getD false then s.setCtxState ctx .running else s
  (s.repoint (clusterOf core)).slipCheck core

/-- Place the next new group of a kernel. -/
def State.placeNew (s : State) (kn : Nat) (k : Kernel) (core : Nat) : State :=
  let old := s.scratchShare core
  let (g, s) := s.free
  let seed := s.fresh
  let s := { s with fresh := s.fresh + 3 + k.tiles + k.accs }
  let gr := Group.placed k kn k.next core (s.freePlaces core k.warps) seed
  let s := { s with groups := Tbl.put s.groups g gr }
  let s := s.modKernel kn fun k => { k with
    next := k.next + 1
    st := if k.next + 1 == k.groups then .running else k.st
    start := k.start.or (some s.time) }
  s.occupy k.ctx core old

/-- Place a saved group again: its frame is loaded next. -/
def State.placeSaved (s : State) (g : Nat) (k : Kernel) (core : Nat) : State :=
  let old := s.scratchShare core
  let places := s.freePlaces core k.warps
  let s := s.modGroup g fun gr => { gr with
    st := .restoring
    core := core
    deepIn := true
    warps := mapVals (fun i w => { w with place := places.getD i 0, entries := [] }) gr.warps }
  s.occupy k.ctx core old

/-- The kernel is one of a replay: its packet is of the queue that stands for the context's (R365). -/
def State.replayed (s : State) (k : Kernel) : Bool :=
  s.mirage.queue.isSome && ((s.pkt? k.pkt).map Pkt.queue) == s.mirage.queue

/-- A kernel's groups may be placed: the context dispatches, or the kernel is one of a replay, during which PRE keeps the
context's own groups where they are (R84, R365). -/
def State.dispatches (s : State) (ctx : Nat) (k : Kernel) : Bool :=
  ((s.ctx? ctx).map fun c => (!c.pre || s.replayed k) && (c.st == .running || c.st == .saved)).getD false

/-- A saved group of linear index `lin` of a kernel. -/
def State.savedGroup (s : State) (kn lin : Nat) : Option (Nat × Group) :=
  List.find? (fun (g : Nat × Group) => g.2.kern == kn && g.2.lin == lin && g.2.st == .saved) s.groups

/-- The distributor places a group, new or saved, where R118 allows it. -/
def execGroupPlace (id : BitVec 12) (kern lin : BitVec 32) (s : State) : Host.Outcome State Fault Refusal :=
  .next (
    let kn := id.toNat * 2 ^ 32 + kern.toNat
    match s.kernel? kn with
    | none => s
    | some k =>
      if !s.dispatches id.toNat k then s
      else
        let (s, paid) := s.tenantReady (((s.ctx? id.toNat).map Ctx.tenant).getD 0)
        if !paid then s
        else match s.savedGroup kn lin.toNat with
          | some (g, gr) =>
            if gr.pages != [] || gr.holds != [] then s
            else match s.chooseCore kn k (some g) with
              | some core => s.placeSaved g k core
              | none => s
          | none =>
            if k.st != .placing || k.next != lin.toNat then s
            else match s.chooseCore kn k none with
              | some core => s.placeNew kn k core
              | none => s)

/-! ### The end of a group (R116) -/

/-- Everything the group issued has been performed. -/
def State.workDone (s : State) (g : Nat) (gr : Group) : Bool :=
  gr.live.isEmpty && !s.accs.any (fun a => a.grp == g) && !s.batches.any (fun (b : Batch) => (b.grp.map Prod.fst) == some g)
    && !(s.core gr.core).tileq.any (fun (o : TileOp) => o.grp == g)

/-- Bytes of the group's windows still to be written back (R275). -/
def Group.dirty (gr : Group) : Bool := gr.windows.any fun w => !w.marks.isEmpty

/-- Write back what the windows of an ending group still hold. -/
def State.lastFlush (s : State) (g : Nat) : State :=
  let (op, s) := s.free
  match s.envAt g ((((s.group? g).map fun gr => (Tbl.vals gr.threads).map Thread.tid).getD []).min?.getD 0) op with
  | none => s
  | some e => s.flushWindows e 0 (256 * e.k.scru) e.gr.windows

/-- A replayed context whose last group has gone reads SAVED again, and spills its accumulators (R351, R365). -/
def State.replayIdle (s : State) (ctx : Nat) : State :=
  if s.replaying ctx && ((s.ctx? ctx).map fun c => c.st == .running).getD false && s.allStaged ctx then
    (s.leaveRunning ctx).setCtxState ctx .saved
  else s

/-- A group whose record has been held ends once that is written (R91). -/
def State.endHeld (s : State) (grp : Nat) (gr : Group) (r : FaultRec) : State :=
  match s.kernel? gr.kern with
  | none => s.dropGroup grp
  | some k => if s.holdsRecord gr.ctx r then s else (s.endNow grp gr k r.code r.sub r.die).replayIdle gr.ctx

/-- A group whose threads have exited and whose work is performed ends; one that a failure of an exited thread hit ends
failed (R115, R116, R259); one that waits for its record to be written ends with it (R91). -/
def execGroupEnd (grp : Nat) (s : State) : Host.Outcome State Fault Refusal :=
  .next (match s.group? grp with
    | none => s
    | some gr =>
      match gr.ending with
      | some r => s.endHeld grp gr r
      | none =>
      if !gr.st.issues || !s.workDone grp gr then s
      else match gr.failing with
        | some (c, sub) => (s.endGroup grp none c sub).replayIdle gr.ctx
        | none =>
          if gr.dirty then s.lastFlush grp
          else ((s.dropGroup grp).kernelCheck gr.kern).replayIdle gr.ctx)

/-! ### Save and restore (R123, R124) -/

/-- The accesses of a list that wait for a page, or stand behind one of their thread that does (R225, R273). -/
def stuckAmong : List Access → List Access → List Access
  | st, [] => st
  | st, a :: as =>
    if a.paged.isSome || st.any fun b => b.tid == a.tid && (b.acquire || b.overlaps a || a.release) then
      stuckAmong (st ++ [a]) as
    else stuckAmong st as

/-- What a save lets complete has completed (R85, R100, R242), and the requests for its pages are written (R271). Accesses
that wait for a page are saved with the group. -/
def State.drained (s : State) (g : Nat) (gr : Group) : Bool :=
  let as := s.accs.filter fun a => a.grp == g
  !s.requestHeld gr.ctx gr.pages && as.length == (stuckAmong [] as).length && gr.swaps.isEmpty
    && !(s.core gr.core).tileq.any (fun (o : TileOp) => o.grp == g)
    && !s.cmds.any fun (c : Cmd) => (c.owner.map Prod.fst) == some g && c.st == .sent

/-- GST of a frame. -/
def GroupState.gst : GroupState → Nat
  | .halted false => 1
  | .dumping => 2
  | .halted true => 3
  | _ => 0

/-- The lowest free frame. -/
def Ctx.freeFrame (c : Ctx) : Nat := ((List.range 32768).find? fun k => !c.frames.contains k).getD 32768

/-- Write consecutive 64-bit words in a context's space. -/
def State.vwords (s : State) (ctx core va : Nat) : List Nat → State × Got
  | [] => (s, .ok 0)
  | w :: ws =>
    match s.vwrite ctx core (va % 2 ^ 64) 8 w 1 with
    | (s, .ok _) => State.vwords s ctx core (va + 8) ws
    | r => r

/-- The places of a frame are there to be written: the first that is not, and whether a lost die is what is missing. -/
def State.frameFault (s : State) (ctx core : Nat) : List Nat → State × Option (Nat × Bool)
  | [] => (s, none)
  | va :: vas =>
    match s.mapAccess ctx core va 1 needsWrite false with
    | (s, .ok _ _ _ _) => State.frameFault s ctx core vas
    | (s, .fault c _) => (s, some (va, c = 0x40))
    | (s, _) => (s, some (va, false))

/-- The address of frame `f` (R124). -/
def Ctx.frameAt (c : Ctx) (f : Nat) : Nat := (c.saveb.toNat + f * 2 ^ 22) % 2 ^ 64

/-- The bytes of a frame in use: the device's own, at most the frame (R124, log 6). -/
def frameSize (n : Nat) : Nat := 64 + Config.freeNat n % (2 ^ 22 - 63)

/-- The state a saved or restored group returns to: the recorded one, under the holds it now has (R123). -/
def Group.returned (gr : Group) : GroupState :=
  let dump := match gr.ret with | .dumping => true | .halted d => d | _ => false
  if gr.holds != [] then .halted dump else if dump then .dumping else .running

/-- The header of a group's frame (R124). -/
def frameHeader (gr : Group) (k : Kernel) (size : Nat) : List Nat :=
  [pack [(32, gr.lin), (0, k.id)], gr.saveTime, pack [(6, gr.cause), (3, gr.returned.gst), (0, min gr.holds.length 7)], size,
   0, 0, 0, 0]

/-- The write of a frame fails: the group ends with ADDRESS_FAULT 0x20, whatever keeps it from a place there, damage under the
page walk too (R124; DESIGN CHOICE, log 27); where the place is in a lost die's memory, with DIE_LOST 0x03 (R88). -/
def State.failFrame (s : State) (grp : Nat) (gr : Group) (k : Kernel) (va : Nat) (lost : Bool) : State :=
  let code : Byte := if lost then 0x40 else 0x12
  let sub : Byte := if lost then 3 else 0x20
  (s.endGroup grp (some (groupRec s gr k code sub true false 0 (BitVec.ofNat 64 va) 0xFFFF 0 (item 1 gr.lin))) code
    sub).replayIdle gr.ctx

/-- A group has been saved in frame `f`: its monitors are woken by code 5 (R218). -/
def State.saved (s : State) (grp : Nat) (gr : Group) (f size : Nat) : State :=
  let s := s.modCtx gr.ctx fun c => { c with frames := c.frames ++ [f] }
  let s := s.modGroup grp fun gr => { gr.mapThreads (fun t => { t with monitor := t.monitor.map (Monitor.wake · s.time 5) }) with
    st := .saved, frame := some f, saveSize := size }
  ((s.slipCheck gr.core).repoint (clusterOf gr.core)).replayIdle gr.ctx

/-- Write frame `f` of a group, `size` bytes of it in use: the group is SAVED, or it ends on a fault of the write in any page
the frame uses (R124). Damage met by its page walk is no translation fault, and R124 gives no outcome for it: it ends the group
as a fault of the write too (DESIGN CHOICE, log 27). -/
def State.writeFrame (s : State) (grp : Nat) (gr : Group) (k : Kernel) (c : Ctx) (f size : Nat) : State :=
  match s.frameFault gr.ctx gr.core (s.frameVas gr.ctx size f) with
  | (s, some (va, lost)) => s.failFrame grp gr k va lost
  | (s, none) =>
    match s.vwords gr.ctx gr.core (c.frameAt f) (frameHeader gr k size) with
    | (s, .ok _) => s.saved grp gr f size
    | (s, _) => s.failFrame grp gr k (c.frameAt f) false

/-- A save's frame is written (R124). -/
def execSaveFrameWritten (grp : Nat) (s : State) : Host.Outcome State Fault Refusal :=
  .next (match (s.group? grp).bind fun gr => (s.kernel? gr.kern).bind fun k => (s.ctx? gr.ctx).map fun c => (gr, k, c) with
    | none => s
    | some (gr, k, c) =>
      if gr.st != .saving || !s.drained grp gr then s
      else s.free.2.writeFrame grp gr k c c.freeFrame (frameSize s.free.1))

/-- A restored group's frame is loaded. Its engine work goes on at its new cluster (R261), its accesses at its new core, whose
L1 holds nothing older than what the group has seen (R242). A context that no longer runs saves it again. -/
def execRestoreComplete (grp : Nat) (s : State) : Host.Outcome State Fault Refusal :=
  .next (match s.group? grp with
    | none => s
    | some gr =>
      if gr.st != .restoring then s
      else
        let cl := clusterOf gr.core
        let mine := fun (o : Option (Nat × Nat)) => (o.map Prod.fst) == some grp
        let s := s.modCtx gr.ctx fun c => { c with frames := c.frames.filter fun f => some f != gr.frame }
        let s := s.dropCtxL1 gr.core gr.ctx
        let s := { s with
          accs := s.accs.map fun (a : Access) => if a.grp == grp then { a with core := gr.core } else a
          cmds := s.cmds.map fun (c : Cmd) => if mine c.owner then { c with cluster := cl } else c
          batches := s.batches.map fun (b : Batch) => if mine b.grp then { b with cluster := cl } else b }
        let s := s.modGroup grp fun gr => { gr with st := gr.returned, frame := none }
        match (s.ctx? gr.ctx).map Ctx.st with
        | some .staging => s.startSave grp 0
        | some .stopped => s.startSave grp 2
        | _ => s)

end Sys2Proof.Machine
end

