-- ==== Sys2Proof/Machine/Load.lean ====
section
/-! DEFINITION. A program loaded from outside: a bound, running context with an identity mapping of 2 GiB, a kernel with one
placed group of one thread, and the thread selected to issue at a given instruction (log 18). -/

namespace Sys2Proof.Machine

/-- Where the instruction stands: a word below 1 GiB, so that an extension word lies on the next page. -/
def loadPc : Nat := 2 ^ 30 - 4

/-- Where the page tables stand: a table of each level 4, 3 and 2 (R264). -/
def loadTables : Nat := 2 ^ 31

/-- The entries of the tables: two pages of 1 GiB, readable, writable and executable, mapped to themselves (R265). -/
def loadEntries : List (Nat × Nat) :=
  [(loadTables, loadTables + 0x1010), (loadTables + 0x1000, loadTables + 0x2010), (loadTables + 0x2000, 0x5E),
   (loadTables + 0x2008, 2 ^ 30 + 0x5E)]

def State.writeEntries (s : State) : List (Nat × Nat) → State
  | [] => s
  | (pa, v) :: l => State.writeEntries (s.setBytes pa (leBytes 8 v)) l

/-- The context of the loaded program. -/
def loadCtx : Ctx where
  st := .running
  pre := false
  port := 0
  ccb := 0
  tenant := 0
  nbvd := 0
  deep := 15
  lease := 0
  ptroot := loadTables
  lhor := 0
  accb := 0
  accn := 0
  accw := 0
  spb := 0
  spn := 0
  spw := 0
  fqb := 2 ^ 32
  fqvec := 0
  fqi := false
  fqsz := 4
  fqwr := 0
  saveb := 0
  vtab := 0
  snum := 1
  sden := 1
  tdies := 0
  dlost := 0
  lastop := 3
  kernNext := 2
  batchNext := 1
  held := []
  frames := []
  debug := none
  requests := []

/-- The kernel of the loaded program: one group of one thread, every register, tile and accumulator, all scratch, no trap
vector. -/
def loadKernel : Kernel where
  ctx := 1
  id := 1
  pkt := 0
  entry := 0
  trapv := 0
  gdimx := 1
  gdimy := 1
  gdimz := 1
  gszx := 1
  gszy := 1
  gszz := 1
  allot := 64
  tiles := 16
  accs := 32
  ckm := 1
  nbv := 1
  scru := 2048
  deepu := 61440
  agel := 4096
  aest := false
  kdesc := 0
  args := 0
  est := 0
  point := 0
  prio := 64
  readyTime := 0
  region := 0
  next := 1
  st := .running
  fail := none
  start := some 0
  tolerant := false
  floatUnits := []
  units := []
  estimate := none

/-- The header of the clause the thread stands in: MIX, 15 words, no waits (R53). -/
def loadHeader : W32 := 0xC707FFDF

/-- The group of the loaded program. -/
def loadGroup (seed : Nat) : Group :=
  (Group.placed loadKernel (2 ^ 32 + 1) 0 0 [0] seed).mapThreads fun t =>
    { t with pos := ⟨BitVec.ofNat 64 loadPc, 15, loadHeader⟩, last := BitVec.ofNat 64 loadPc }

/-- `s` with the instruction in memory and a thread selected to issue it; nothing lost, damaged or cached stands in the way. -/
def State.standAt (s : State) (_nbits w : Nat) : State :=
  let s := (s.writeEntries loadEntries).setBytes loadPc (leBytes 8 w)
  let (g, s) := s.free
  let seed := s.fresh
  { s with
    fresh := s.fresh + 51
    ctxs := Tbl.put s.ctxs 1 loadCtx
    kernels := Tbl.put s.kernels (2 ^ 32 + 1) loadKernel
    groups := Tbl.put s.groups g (loadGroup seed)
    tlb := s.tlb.filter fun t => t.ctx != 1
    damaged := []
    dies := []
    oasisLost := false
    issuing := [⟨g, 0, s.fresh + 51, loadPc, false, none⟩] }

end Sys2Proof.Machine
end

