-- ==== Sys2Proof/Machine/Page.lean ====
section
/-! DEFINITION. Page commands and their effects (R268, R270 to R272), the rings' writes (R271, R375), damage found by scrubbing
(R205). -/

namespace Sys2Proof.Machine

/-- PGCMD after a command: its OP, ID and RESULT. -/
def State.answerPg (s : State) (p : Fin 2) (op id res : Nat) : State :=
  s.setPort p { s.port p with pgcmd := BitVec.ofNat 32 (pack [(28, res), (8, id), (0, op)]) }

/-- The page PGADDR names: its base and size; none when it is invalid. -/
def pgPage (v : W64) : Option (Nat × Nat) :=
  let n := v.toNat
  let size := match bits n 0 2 with | 0 => 2 ^ 16 | 1 => 2 ^ 21 | _ => 2 ^ 30
  let base := n / 65536 * 65536
  if bits n 0 2 == 3 || bits n 2 14 != 0 || base % size != 0 then none else some (base, size)

/-- An ATTACH that waited takes its step again (R395). -/
def State.takeAttach (s : State) (p : Fin 2) (ctx : Nat) (within : W64 → Bool) : State :=
  match (s.port p).attach with
  | some a =>
    if a.ctx == ctx && a.paged.any within then
      (s.setPort p { s.port p with attach := some { a with paged := none } }).queueAttach p
    else s
  | none => s

/-- The outstanding requests of a context for pages that meet some range end (R270). -/
def State.endRequests (s : State) (ctx base size : Nat) : State :=
  s.modCtx ctx fun c => { c with requests := c.requests.filter fun r =>
    !(r.1.toNat < base + size && base < r.1.toNat + 2 ^ pageLog r.2) }

/-- What no longer waits for a page: groups, accesses, tile operations, commands, packets, queues, releases, regions, an ATTACH (R270,
R395). -/
def State.released (s : State) (ctx : Nat) (within : W64 → Bool) : State :=
  let clear := fun (o : Option W64) => o.filter fun b => !within b
  let s : State := { s with
    regions := mapVals (fun _ r => if r.ctx == ctx then { r with paged := clear r.paged } else r) s.regions
    groups := mapVals (fun _ g => if g.ctx == ctx then { g with pages := g.pages.filter fun b => !within b } else g) s.groups
    cores := mapVals (fun _ c => { c with tileq := c.tileq.map fun o =>
      if ((s.group? o.grp).map fun g => g.ctx == ctx).getD false then { o with paged := clear o.paged } else o }) s.cores
    accs := s.accs.map fun (a : Access) => if a.ctx == ctx then { a with paged := clear a.paged } else a
    cmds := s.cmds.map fun (c : Cmd) => if c.ctx == ctx then { c with paged := clear c.paged } else c
    pkts := mapVals (fun _ p => if p.ctx == ctx then { p with paged := clear p.paged } else p) s.pkts
    queues := mapVals (fun _ q => if q.ctx == ctx then { q with paged := clear q.paged } else q) s.queues
    clusters := mapVals (fun _ k => { k with releases := k.releases.map fun r =>
      if r.ctx == ctx then { r with paged := clear r.paged } else r }) s.clusters }
  ((s.takeAttach 0 ctx within).takeAttach 1 ctx within).retryTuseds (s.regions.map Prod.fst)

/-- RESOLVE: the outstanding request ends, and those whose faulting address lies in the page walk again (R270, R272). -/
def execResolve (port : Fin 2) (id : BitVec 12) (s : State) : Host.Outcome State Fault Refusal :=
  .next (
    if (s.ctx? id.toNat).isNone then s.answerPg port 1 id.toNat 4
    else match pgPage (s.port port).pgaddr with
      | none => s.answerPg port 1 id.toNat 6
      | some (base, size) =>
        ((s.endRequests id.toNat base size).released id.toNat fun b =>
          base ≤ b.toNat && b.toNat < base + size).answerPg port 1 id.toNat 0)

/-- RETIRE: every monitor on the physical page is woken with code 4 (R272). -/
def execRetire (port : Fin 2) (s : State) : Host.Outcome State Fault Refusal :=
  .next (match pgPage (s.port port).pgaddr with
    | none => s.answerPg port 2 (bits (s.port port).pgcmd.toNat 8 12) 6
    | some (base, size) =>
      (s.wakeWhere (fun sec => base / 64 ≤ sec && sec < (base + size) / 64) (fun a => base ≤ a && a < base + size) 4).answerPg port 2
        (bits (s.port port).pgcmd.toNat 8 12) 0)

/-- HORIZON: PGDATA takes the context's LHOR (R272). -/
def execHorizon (port : Fin 2) (id : BitVec 12) (s : State) : Host.Outcome State Fault Refusal :=
  .next (match s.ctx? id.toNat with
    | none => s.answerPg port 3 id.toNat 4
    | some c =>
      let s := s.setPort port { s.port port with pgdata := BitVec.ofNat 64 c.lhor }
      s.answerPg port 3 id.toNat 0)

/-- Cached translations, view entries and L1 lines at the end of their leases are no longer used (R268, R281). -/
def execLeaseExpiry (s : State) : Host.Outcome State Fault Refusal :=
  .next { s with
    tlb := s.tlb.filter fun t => s.time < t.expiry
    views := s.views.filter fun v => s.time < v.expiry
    cores := mapVals (fun _ c => { c with l1 := c.l1.filter fun l => s.time < l.expiry }) s.cores }

/-- The groups whose requests are all written now are saved (R271, R273). -/
def State.saveAsked (s : State) : List (Nat × Group) → State
  | [] => s
  | (g, gr) :: l =>
    State.saveAsked (if !gr.pages.isEmpty && gr.st.resident && !s.requestHeld gr.ctx gr.pages then s.startSave g 1 else s) l

/-- A held page request is written, and the groups that remained as they were for it are saved (R271). -/
def execPageRequestWrite (port : Fin 2) (s : State) : Host.Outcome State Fault Refusal :=
  .next (let t := s.writeRequest port
    if t.port port = s.port port then s else t.saveAsked t.groups)

def execEventRingWrite (port : Fin 2) (s : State) : Host.Outcome State Fault Refusal := .next (s.writeEvent port)

/-- Damage found by scrubbing or at a write-back: the host is told, and a later reader meets it (R205, R375). -/
def execMemScrubDamage (addr : Nat) (level : BitVec 8) (s : State) : Host.Outcome State Fault Refusal :=
  .next (
    let s := s.event 5 level.toNat addr s.time
    if addr < hbmBytes then { s with damaged := Tbl.put s.damaged (addr / 32) level.toNat } else s)

end Sys2Proof.Machine
end

