-- ==== Sys2Proof/Machine/Link.lean ====
section
/-! DEFINITION. Link ports: training, re-stripe, replay, spilling and failure (R336 to R341), responses and time-outs of requests
(R340, R347), peers' requests (R342). -/

namespace Sys2Proof.Machine

/-! ### Freezing (R371, R372) -/

/-- A master that violates a limit is frozen; a core's resident groups take a freeze hold. One that is frozen already has made
no request. -/
def State.freeze (s : State) (m : Master) : State :=
  if s.mgmt.holdsBack m then s
  else match m with
    | .core n => (s.markFrozen m).holdAll .freeze ((s.residents n).map Prod.fst)
    | _ => s.markFrozen m

/-! ### The ends of a port's requests (R340) -/

/-- What asked for a request finds it failed: the access's record and fault to come, the command's with the address of the request
that failed (R259, R347), the tile operation's, the ENQ's, the fill's. A write to a host's memory by the device itself has nobody
to be told. -/
def State.failWhose (s : State) (r : LinkReq) (code sub : Byte) : State :=
  match r.whose with
  | .acc a =>
    match s.accs.find? fun x => x.id == a with
    | some x => s.failAccess x code sub
    | none => s
  | .cmd c _ =>
    match s.cmds.find? fun (x : Cmd) => x.id == c with
    | some x => if x.st == .done then s else s.failCmd x code sub r.addr
    | none => s
  | .tile core op part => s.onTile core op fun o => o.fails part code sub
  | .pkt n =>
    match s.pkt? n with
    | some k => if k.st == .running then s.failPkt n code sub (k.w 6) else s
    | none => s
  | .enq g t num => s.swapAnswer g t num none code sub
  | .fill g st blk _ => s.modGroup g fun gr => gr.modWindow st fun w => { w with
      failed := w.failed.or (some (blk, code, sub)), got := w.got.filter fun x => x.1 != blk }
  | .device => s

/-- One request fails. -/
def State.failReq (s : State) (r : LinkReq) (code sub : Byte) : State :=
  { s with reqs := s.reqs.filter fun x => x.id != r.id }.failWhose r code sub

def State.failReqs (s : State) (code sub : Byte) : List LinkReq → State
  | [] => s
  | r :: rs => State.failReqs (if s.reqs.contains r then s.failReq r code sub else s) code sub rs

/-- A port stops: what it carried fails, and its queues are empty. -/
def State.stopPort (s : State) (p : Nat) (st : LinkState) : State :=
  let l := s.link p
  let s := s.setLink p { l with
    st := st, act := 0, changeTime := none, lit := [], dark := 0, wadi := [], egress := [], buffer := [], named := false, waiting := []
    since := s.time }
  s.failReqs 0x50 1 (s.reqs.filter fun r => r.port == some p)

/-- FAILED, with its management event. -/
def State.failPort (s : State) (p : Nat) : State := (s.stopPort p .failed).event 4 p 0 s.time

/-! ### Flits that leave (R334, R337, R339) -/

def countWaves (m : BitVec 16) : Nat := (bitList 16 m.toNat).length

/-- The wavelength of each of a flit's 20 beats: beat b goes to the (b mod k)-th active one (R334). -/
def beatWaves (act : BitVec 16) : List Nat :=
  let ws := bitList 16 act.toNat
  (List.range 20).map fun b => ws.getD (b % ws.length) 0

/-- A flit goes out under its sequence number. -/
def State.emitFlit (s : State) (p : Nat) (f : Nat × OutFlit) : State :=
  s.emit (.flit p f.1 (beatWaves (s.link p).act) f.2)

def State.emitFlits (s : State) (p : Nat) : List (Nat × OutFlit) → State
  | [] => s
  | f :: fs => State.emitFlits (s.emitFlit p f) p fs

/-! ### Answers to this package's requests (R340) -/

/-- The data of a response, cut or filled to what was asked for. -/
def fitBytes (n : Nat) (bs : List Byte) : List Byte := (bs ++ List.replicate n 0).take n

/-- A response reaches what asked: the access, the command, the tile operation, the packet, the ENQ, the window. -/
def State.respond (s : State) (r : LinkReq) (data : List Byte) : State :=
  let s := { s with reqs := s.reqs.filter fun x => x.id != r.id }
  let bs := fitBytes r.size data
  match r.whose with
  | .acc a =>
    match s.accs.find? fun x => x.id == a with
    | some x => s.answer x bs
    | none => s
  | .cmd c part => s.modCmd c fun x => { x with got := x.got ++ [(part, bs)] }
  | .tile core op part => s.onTile core op fun o => { o with got := o.got ++ [(part, bs)] }
  | .pkt n =>
    match s.pkt? n with
    | some k => if k.st == .running then s.endPkt n 1 0 0 0 else s
    | none => s
  | .enq g t num => s.swapAnswer g t num (some (BitVec.ofNat 64 (leNat bs))) 0 0
  | .fill g st blk part => s.modGroup g fun gr => gr.modWindow st fun w => { w with got := w.got ++ [(blk, part, bs)] }
  | .device => s

/-! ### Flits that leave (R268, R274, R337, R339) -/

/-- One flit goes out under the next sequence number, and is kept in the replay buffer until it is acknowledged. -/
def State.launchFlit (s : State) (p : Nat) (f : OutFlit) : State :=
  let l := s.link p
  (s.setLink p { l with buffer := l.buffer ++ [(l.seq + 1, f)], seq := l.seq + 1, lastOut := s.time }).emitFlit p (l.seq + 1, f)

/-- The flits that leave a port in this order: its wadi share while it spills (R339). -/
def Link.outgoing (l : Link) : List OutFlit := if l.st == .spilling then l.wadi else l.egress

/-- The `k`-th of them leaves the queue; room in the wadi goes to what stands in the egress queue. -/
def State.takeOut (s : State) (p k : Nat) (f : OutFlit) : State :=
  let l := s.link p
  if l.st == .spilling then
    { s.setLink p { l with wadi := l.wadi.eraseIdx k } with
      reqs := s.reqs.map fun (r : LinkReq) => if f.answer.isNone && r.id == f.req then { r with wadi := false } else r }.toWadi p
  else s.setLink p { l with egress := l.egress.eraseIdx k }

/-- What becomes of a flit whose turn it is: it goes, it waits for its page, or it is dealt with otherwise. -/
inductive Leaving where
  | goes | waits | gone
  deriving DecidableEq, Repr

/-- A queued request that lies in this package now is performed at its home, and answered. -/
def State.serveHere (s : State) (r : LinkReq) (f : OutFlit) (v : Via) (pas vas : List Nat) : State :=
  let damage := s.damageAt pas
  match f.data, f.op with
  | some d, none => ((s.localWrite v.ctx none 1 pas vas (leBytes f.size d)).dropBytesL1 v.core pas).respond r []
  | none, _ => if damage != 0 then s.failReq r 0x42 (BitVec.ofNat 8 damage) else s.respond r (s.bytesOf pas)
  | some d, some o =>
    if damage != 0 then s.failReq r 0x42 (BitVec.ofNat 8 damage)
    else
      let (b, cmp) := if isCas o then (d / 2 ^ (8 * f.size), d % 2 ^ (8 * f.size)) else (d, 0)
      let (s, old) := s.atomicAt v.ctx none 2 o pas vas b cmp
      (s.dropBytesL1 v.core pas).respond r (leBytes f.size old)

/-- A queued request whose page lies elsewhere now goes there: to a host at once, to a peer behind what its port holds. -/
def State.resend (s : State) (r : LinkReq) (f : OutFlit) (v : Via) (node pa : Nat) : State :=
  if isHostNode node then
    (s.emit (.request f.req node pa f.size f.data f.op)).respond r ((List.range f.size).map fun k => Config.remoteByte f.req k)
  else match s.portFor node pa with
    | none => s.failReq r 0x50 2
    | some p =>
      { s with reqs := s.reqs.map fun (x : LinkReq) => if x.id == r.id then { x with node := node, port := some p } else x }.enqueue
        p { f with node := node, addr := pa, via := some { v with time := s.time } }

/-- A queued request's page has left PRESENT: an access is asked for again when its group is back, a fill when its lanes are
replayed, a write-back fails (R273, R276); what an engine, a tile operation, an ENQ or an SCC asks waits in the queue. -/
def State.pageAway (s : State) (r : LinkReq) (v : Via) (base : W64) (size : Nat) (absent : Bool) : State × Leaving :=
  let dropped := { s with reqs := s.reqs.filter fun x => x.id != r.id }
  let asked := if absent then s.request v.ctx base size v.needs else s
  match r.whose with
  | .acc a =>
    match s.accs.find? fun x => x.id == a with
    | none => (dropped, .gone)
    | some x =>
      if x.kind == .writeBack then (s.failReq r 0x12 2, .gone)
      else
        let s := { dropped with accs := dropped.accs.map fun (y : Access) =>
          if y.id == a then { y with req := none, paged := some base } else y }
        (if (s.group? x.grp).isSome then s.pageFault x.grp base size v.needs absent
          else if absent then s.request v.ctx base size v.needs else s, .gone)
  | .fill g st blk _ =>
    ((s.dropFills g fun x b => x == st && b == blk).modGroup g fun gr => gr.modWindow st fun w => { w with
      got := w.got.filter fun x => x.1 != blk }, .gone)
  | _ => (asked, .waits)

/-- A flit's turn: a request whose translation was made earlier is translated again (R268, R274). -/
def State.leaving (s : State) (f : OutFlit) : State × Leaving :=
  match f.answer, f.via with
  | none, some v =>
    if v.time == s.time then (s, .goes)
    else
      let r := s.reqs.find? fun r => r.id == f.req
      match s.mapAccess v.ctx v.core v.va.toNat f.size v.needs false with
      | (s, .ok pas vas node _) =>
        if node == f.node && pas.headD 0 == f.addr then (s, .goes)
        else match r with
          | none => (s, .gone)
          | some r => (if node == 0 then s.serveHere r f v pas vas else s.resend r f v node (pas.headD 0), .gone)
      | (s, .fault c sub) =>
        match r with
        | none => (s, .gone)
        | some r => (s.failReq r c sub, .gone)
      | (s, .page base size absent) =>
        match r with
        | none => (s, .gone)
        | some r => s.pageAway r v base size absent
  | _, _ => (s, .goes)

/-- The first flit of a port from the `k`-th on that need not wait leaves. -/
def State.sendFrom (s : State) (p k : Nat) : List OutFlit → State
  | [] => s
  | f :: fs =>
    match s.leaving f with
    | (s, .waits) => State.sendFrom s p (k + 1) fs
    | (s, .goes) => (s.takeOut p k f).launchFlit p f
    | (s, .gone) => s.takeOut p k f

/-- A flit leaves the port: its wadi share first (R339), while the replay buffer has room (R337). A frozen port holds its flits
(R372). -/
def State.flitSent (s : State) (p : Nat) : State :=
  let l := s.link p
  let sends := match l.st with | .spilling => true | .up => true | .degraded => true | _ => false
  if s.mgmt.frozen.contains (3, p) || 1024 ≤ l.buffer.length || !sends then s
  else s.sendFrom p 0 l.outgoing

/-! ### States of a port (R336 to R338) -/

/-- The event of R338, when the mask has changed. -/
def State.maskEvent (s : State) (p : Nat) : State :=
  let l := s.link p
  match l.changeTime with
  | some t =>
    (s.event 3 (pack [(32, l.act.toNat), (16, l.newLost.toNat), (0, p)]) 0 t).setLink p { l with changeTime := none, newLost := 0 }
  | none => s

/-- The port sends again, with the event of R338 when its mask changed: UP or UP_DEGRADED, or SPILLING while its share of the
wadi holds flits. -/
def State.portUp (s : State) (p : Nat) : State :=
  let s := s.maskEvent p
  let l := s.link p
  if !l.wadi.isEmpty then (s.setLink p { l with st := .spilling, since := s.time, lastOut := s.time }).toWadi p
  else
    s.setLink p { l with
      st := if countWaves l.act == 16 then .up else .degraded
      since := s.time, lastOut := s.time }

/-- A replay starts, or starts again: the port names the last flit it has received whole and in sequence (R337), and its own must
be acknowledged within 10 µs. -/
def State.startReplay (s : State) (p : Nat) : State :=
  let l := s.link p
  ((s.setLink p { l with st := .replay, rply := l.rply + 1, named := false, since := s.time }).emit (.acked p l.rx)).after 10000
    (.replayAckTimeout (Fin.ofNat 32 p))

/-- A replay fails: the eighth in a row fails the port. -/
def State.failReplay (s : State) (p : Nat) : State :=
  let l := s.link p
  if 8 ≤ l.fails + 1 then s.failPort p else (s.setLink p { l with fails := l.fails + 1 }).startReplay p

/-- The far end names the last flit it has received whole and in sequence: no flit up to it is kept. In a replay the later ones
are resent, once, and with the last of them acknowledged the replay ends (R336, R337). -/
def State.ackFlits (s : State) (p last : Nat) : State :=
  let l := s.link p
  let rest := l.buffer.filter fun f => last < f.1
  let s := s.setLink p { l with buffer := rest }
  if l.st != .replay then s
  else if rest.isEmpty then s.portUp p
  else if l.named then s
  else (s.setLink p { s.link p with named := true }).emitFlits p rest

/-- The port stops sending to agree another mask. -/
def State.restripe (s : State) (p : Nat) (act : BitVec 16) (at_ : Nat) : State :=
  let l := s.link p
  s.setLink p { l with
    st := .restripe, act := act, fails := 0, since := s.time
    rstr := if l.st == .restripe then l.rstr else l.rstr + 1
    changeTime := l.changeTime.or (some at_) }

/-- A host sets EN; any other master is refused and frozen (R341, R371). -/
def execLctlEnSet (m : Master) (link : Fin 32) (s : State) : Host.Outcome State Fault Refusal :=
  .next (match m with
    | .host _ =>
      let l := s.link link
      let s := s.setLink link { l with en := true }
      if l.st == .down && s.mgmt.nodeid.toNat % 512 != 0 then
        s.setLink link { l with
          en := true, st := .training, act := 0, lit := [], dark := 0, fails := 0, changeTime := none, seq := 0, rx := 0
          since := s.time }
      else s
    | m => s.freeze m)

/-- A host clears EN: the port goes DOWN and what it carried fails. -/
def execLctlEnClear (m : Master) (link : Fin 32) (s : State) : Host.Outcome State Fault Refusal :=
  .next (match m with
    | .host _ =>
      let s := s.setLink link { s.link link with en := false }
      if (s.link link).st == .down then s else s.stopPort link .down
    | m => s.freeze m)

/-- All 16 wavelengths lock in time, and every option is agreed. -/
def execTrainingLocked (link : Fin 32) (s : State) : Host.Outcome State Fault Refusal :=
  .next (
    let l := s.link link
    if l.st == .training && l.dark = 0 && s.time ≤ l.since + 1000000 then
      s.setLink link { l with st := .up, act := 0xFFFF, locked := 0xFFFF, lit := [], since := s.time, lastOut := s.time }
    else s)

/-- 1 ms after training began: a wavelength known dark has not locked. -/
def execTrainingTimeout (link : Fin 32) (locked : BitVec 16) (agreed : Bool) (s : State) : Host.Outcome State Fault Refusal :=
  .next (
    let l := s.link link
    let locked := locked &&& ~~~ l.dark
    if l.st != .training || s.time < l.since + 1000000 then s
    else if agreed && 4 ≤ countWaves locked then
      s.setLink link { l with
        st := if countWaves locked == 16 then .up else .degraded
        act := locked, locked := locked, lit := l.lit.filter fun x => !locked.getLsbD x.1, since := s.time, lastOut := s.time }
    else s.failPort link)

/-- A wavelength loses light (R336, R337): LOST holds it, whether or not it was active (R341). -/
def execLossOfLight (link : Fin 32) (wave : Fin 16) (s : State) : Host.Outcome State Fault Refusal :=
  .next (
    let l := s.link link
    let b := BitVec.ofNat 16 (2 ^ wave.val)
    let l := if l.dark.getLsbD wave.val then l
      else { l with lost := l.lost ||| b, newLost := l.newLost ||| b, dark := l.dark ||| b, lit := Tbl.erase l.lit wave.val }
    let s := s.setLink link l
    match l.st with
    | .down => s
    | .failed => s
    | .training => if countWaves (~~~ l.dark) < 4 then s.failPort link else s
    | _ =>
      if !l.act.getLsbD wave.val then s
      else
        let act := l.act &&& ~~~ b
        if countWaves act < 4 then s.failPort link else s.restripe link act s.time)

/-- Both ends hold the new mask, no later than 20 µs after the last loss or the widening: the replay starts (R336, R337). -/
def execRestripeAgreed (link : Fin 32) (s : State) : Host.Outcome State Fault Refusal :=
  .next (
    let l := s.link link
    if l.st == .restripe && s.time ≤ l.since + 20000 then s.startReplay link else s)

def execReplayAckTimeout (link : Fin 32) (s : State) : Host.Outcome State Fault Refusal :=
  .next (
    let l := s.link link
    if l.st == .replay && l.since + 10000 ≤ s.time then s.failReplay link else s)

/-- Light is detected again on a dark wavelength: its hold begins. -/
def execLightRestored (link : Fin 32) (wave : Fin 16) (s : State) : Host.Outcome State Fault Refusal :=
  .next (
    let l := s.link link
    let l := { l with dark := l.dark &&& ~~~ BitVec.ofNat 16 (2 ^ wave.val) }
    match l.st with
    | .down => s.setLink link l
    | .failed => s.setLink link l
    | _ =>
      if l.act.getLsbD wave.val || (Tbl.find? l.lit wave.val).isSome then s.setLink link l
      else s.setLink link { l with lit := Tbl.put l.lit wave.val s.time })

/-- A dark wavelength that has had light for 100 µs. -/
def Link.held (l : Link) (now wave : Nat) : Bool := (Tbl.find? l.lit wave).any fun t => t + 100000 ≤ now

/-- The mask widens by the wavelengths whose hold has ended. -/
def execLightHoldExpiry (link : Fin 32) (wave : Fin 16) (s : State) : Host.Outcome State Fault Refusal :=
  .next (
    let l := s.link link
    if l.st != .degraded || !l.held s.time wave then s
    else
      let ws := (List.range 16).filter (l.held s.time)
      let act := ws.foldl (fun m w => m ||| BitVec.ofNat 16 (2 ^ w)) l.act
      let first := (ws.filterMap (Tbl.find? l.lit)).min?.getD s.time
      let s := s.setLink link { l with lit := l.lit.filter fun x => !ws.contains x.1 }
      s.restripe link act first)

/-- No flit has left for 50 µs: the egress flits move to the wadi (R339). The local boost bank of a cluster carries the step;
which one, the spec does not say (R326, log 26). -/
def execEgressStallExpiry (link : Fin 32) (s : State) : Host.Outcome State Fault Refusal :=
  .next (
    let l := s.link link
    let may := l.st == .up || l.st == .degraded
    if !may || l.egress.isEmpty || s.time < l.lastOut + 50000 then s
    else
      let s := s.setLink link { l with st := .spilling, since := s.time, lastOut := s.time }
      let (n, s) := (s.toWadi link).free
      s.surge (Config.freeNat n % 128))

/-- The port's share of the wadi is empty. -/
def execWadiDrained (link : Fin 32) (s : State) : Host.Outcome State Fault Refusal :=
  .next (if (s.link link).st == .spilling && (s.link link).wadi.isEmpty then s.portUp link else s)

/-- No flit has left a spilling port for 10 ms. -/
def execSpillTimeout (link : Fin 32) (s : State) : Host.Outcome State Fault Refusal :=
  .next (
    let l := s.link link
    if l.st == .spilling && l.lastOut + 10000000 ≤ s.time then s.failPort link else s)

/-- A request has had no response for 1 ms. -/
def execLinkRequestTimeout (req : Nat) (s : State) : Host.Outcome State Fault Refusal :=
  .next (match s.reqs.find? fun r => r.id == req with
    | none => s
    | some r => if r.time + 1000000 ≤ s.time then s.failReq r 0x50 4 else s)

/-! ### Flits (R334, R337, R340) -/

/-- A flit of the far end arrives under a sequence number: one that is not whole, or out of sequence, or already held, is discarded
(R337); one that is taken is named to the far end, unless the port has stopped sending. -/
def State.received (s : State) (p seq : Nat) (whole : Bool) : Option State :=
  let l := s.link p
  let dead := match l.st with | .down => true | .failed => true | .training => true | _ => false
  if dead || !whole || seq != l.rx + 1 then none
  else
    let s := s.setLink p { l with rx := l.rx + 1 }
    some (if l.st == .restripe then s else s.emit (.acked p (l.rx + 1)))

/-- A response arrives: what asked hears of it. -/
def State.take (s : State) (p seq : Nat) (whole : Bool) (req : Nat) (f : State → LinkReq → State) : State :=
  match s.received p seq whole with
  | none => s
  | some s =>
    match s.reqs.find? fun r => r.id == req with
    | some r => f s r
    | none => s

def execFlitReceive (link : Fin 32) (f : Flit) (s : State) : Host.Outcome State Fault Refusal :=
  .next (match f with
    | .ack last => s.ackFlits link last
    | .badCrc => if (s.link link).st == .replay then s.failReplay link else s
    | .sent => s.flitSent link
    | .response n whole req data => s.take link n whole req fun s r => s.respond r data
    | .refused n whole req => s.take link n whole req fun s r => s.failReq r 0x11 4
    | .damaged n whole req => s.take link n whole req fun s r => s.failReq r 0x42 7
    | .errorStatus n whole req => s.take link n whole req fun s r => s.failReq r 0x50 3)

/-! ### Peers' requests (R342) -/

/-- Some export window holds `n` bytes at `addr` and allows bit `right` (0 read, 1 write, 2 atomic). -/
def State.exported (s : State) (addr n right : Nat) : Bool :=
  (List.range 16).any fun i =>
    let b := (Tbl.get 0 s.mgmt.expb i).toNat
    let lsz := bits (Tbl.get 0 s.mgmt.exps i).toNat 0 6
    let base := bits b 16 36 * 2 ^ 16 / 2 ^ lsz * 2 ^ lsz
    lsz != 0 && bit b right && base ≤ addr && addr + n ≤ base + 2 ^ lsz

/-- The virtual addresses that the tables from `t`, at level `lvl`, give the local physical page unit at `pa` (R264, R265). -/
def unitVas (s : State) (pa : Nat) : (lvl : Nat) → (t va : Nat) → List Nat
  | lvl, t, va =>
    (List.range (if lvl == 0 then 32 else 512)).flatMap fun i =>
      let at_ := t + 8 * i
      let e := if at_ + 8 ≤ hbmBytes then s.readN at_ 8 else 0
      let shift := match lvl with | 4 => 48 | 3 => 39 | 2 => 30 | 1 => 21 | _ => 16
      let va := va + i * 2 ^ shift + (if lvl == 4 && 256 ≤ i then 127 * 2 ^ 57 else 0)
      let page := bits e 16 36 * 2 ^ 16
      if bits e 4 2 != 1 || malformed e lvl then []
      else if bit e 6 then
        if bits e 7 9 == 0 && page ≤ pa && pa < page + 2 ^ levelBits lvl then [va + (pa - page)] else []
      else match lvl with
        | 0 => []
        | l + 1 => unitVas s pa l (bits e 8 44 * 2 ^ 8) va

/-- A host or peer writes during capture: each unit of the context that it changes is copied first (R362), and is excused in a
replay (R364). -/
def State.noteHostWrite (s : State) (pas : List Nat) : State :=
  if s.mirage.st == .capturing then
    let units := (pas.map (· / 65536)).eraseDups
    let root := ((s.ctx? s.mirage.ctx).map Ctx.ptroot).getD 0
    let s := s.captureUnits s.mirage.ctx (units.flatMap fun u => unitVas s (65536 * u) 4 root 0)
    { s with mirage := { s.mirage with
        hostUnits := s.mirage.hostUnits ++ units.filter fun u => !s.mirage.hostUnits.contains u } }
  else s

/-- An atomic of another device at local homes, by the OP's own width (R214). -/
def State.outsideAtomic (s : State) (code : Nat) (op : BitVec 4) (addr : Nat) (x y : W64) : State × List Byte :=
  let pas := span addr (atomBytes op)
  let n := 8 * atomBytes op
  let (b, cmp) := if isCas op then (bits y.toNat 0 n, bits x.toNat 0 n) else (bits x.toNat 0 n, 0)
  let (s, old) := (s.noteHostWrite pas).atomicAt 0 none code op pas [] b cmp
  (s, leBytes (atomBytes op) old)

/-- A request as the transaction layer has it: 1 to 256 bytes, within one block of 256, aligned to the largest power of two
that divides its size, which for a power of two is its natural alignment (R332; DEDUCED, log 26). -/
def peerSized (addr n : Nat) : Bool := 1 ≤ n && n ≤ 256 && addr / 256 == (addr + n - 1) / 256 && addr % pieceSize n 256 == 0

/-- The response to a peer's request joins the port's egress queue as a flit of its own (R332, R334, R339). -/
def State.reply (s : State) (p node req : Nat) (a : PeerAnswer) : State :=
  s.enqueue p ⟨req, node, 0, 0, none, none, some a, none⟩

/-- A peer's request, checked against the windows and performed, refused, or answered as damaged data (R205, R342). -/
def State.servePeer (s : State) (p : Nat) (node : BitVec 9) (r : PeerReq) : State :=
  let reply := fun (s : State) (a : PeerAnswer) => s.reply p node.toNat r.req a
  let inside := fun (addr n : Nat) => addr + n ≤ hbmBytes && peerSized addr n
  match r.op with
  | .read addr n =>
    if !s.exported addr n 0 || !inside addr n then reply s .refused
    else if s.damageAt (span addr n) != 0 then reply s .damaged
    else reply s (.data (s.bytes addr n))
  | .write addr data =>
    if !s.exported addr data.length 1 || !inside addr data.length then reply s .refused
    else reply ((s.noteHostWrite (span addr data.length)).homeWrite 1 (span addr data.length) data) (.data [])
  | .atomic op addr x y =>
    let n := atomBytes op
    if !s.exported addr n 2 || !inside addr n || addr % n != 0 then reply s .refused
    else if s.damageAt (span addr n) != 0 then reply s .damaged
    else
      let (s, old) := s.outsideAtomic 2 op addr x y
      reply s (.data old)

/-- A peer's request arrives in its flit, and is served once (R337, R342). A frozen port issues it when it is released (R372). -/
def execPeerRequest (link : Fin 32) (node : BitVec 9) (req : PeerReq) (s : State) : Host.Outcome State Fault Refusal :=
  .next (match s.received link req.seq req.whole with
    | none => s
    | some s =>
      if s.mgmt.frozen.contains (3, link.val) then
        s.setLink link { s.link link with waiting := (s.link link).waiting ++ [(node, req)] }
      else s.servePeer link node req)

end Sys2Proof.Machine
end

