-- ==== Sys2Proof/Machine/Debug.lean ====
section
/-! DEFINITION. The debugger's commands (R357 to R359) and Mirage's (R361 to R365). -/

namespace Sys2Proof.Machine

/-! ### DBGCMD (R357) -/

/-- DBGCMD after a command: its OP, SCOPE, CTX and RESULT. -/
def State.answerDbg (s : State) (p : Fin 2) (op : Nat) (sc : BitVec 2) (id : BitVec 12) (res : Nat) : State :=
  s.setPort p { s.port p with dbgcmd := BitVec.ofNat 32 (pack [(28, res), (12, id.toNat), (10, sc.toNat), (0, op)]) }

/-- The kernel that DBGTGT names in a context. -/
def State.dbgKernel (s : State) (p : Fin 2) (id : BitVec 12) : Nat := id.toNat * 2 ^ 32 + bits (s.port p).dbgtgt.toNat 0 32

/-- The group that DBGTGT names in a context. -/
def State.dbgGroup (s : State) (p : Fin 2) (id : BitVec 12) : Option (Nat × Group) :=
  List.find? (fun (g : Nat × Group) => g.2.kern == s.dbgKernel p id && g.2.lin == bits (s.port p).dbgtgt.toNat 32 32) s.groups

/-- The thread that DBGTGT and DBGTID name, alive. -/
def State.dbgThread (s : State) (p : Fin 2) (id : BitVec 12) : Option (Nat × Thread) :=
  match s.dbgGroup p id with
  | none => none
  | some (g, gr) =>
    ((Tbl.find? gr.threads (bits (s.port p).dbgtid.toNat 0 10)).filter Thread.live).map fun t => (g, t)

/-- What a command of a scope acts on: a thread, or groups; none where there is no such target. -/
inductive DbgTarget where
  | thread (g : Nat) (t : Thread)
  | groups (gs : List Nat)
  | missing
  deriving DecidableEq, Repr

def State.dbgTarget (s : State) (p : Fin 2) (id : BitVec 12) (sc : BitVec 2) : DbgTarget :=
  match sc.toNat with
  | 0 => match s.dbgThread p id with | some (g, t) => .thread g t | none => .missing
  | 1 => match s.dbgGroup p id with | some (g, _) => .groups [g] | none => .missing
  | 2 =>
    if (s.kernel? (s.dbgKernel p id)).isNone then .missing
    else .groups ((s.groups.filter fun g => g.2.kern == s.dbgKernel p id).map Prod.fst)
  | _ => .groups ((s.groups.filter fun g => g.2.ctx == id.toNat).map Prod.fst)

/-- The debugger lets a stopped thread go on (R130). -/
def Thread.resume (t : Thread) : Thread :=
  { t with run := match t.run with | .stopped none => .runnable | .stopped (some w) => .waiting w | r => r }

def Thread.isStopped (t : Thread) : Bool := match t.run with | .stopped _ => true | _ => false

def execDbgAttach (port : Fin 2) (id : BitVec 12) (sc : BitVec 2) (s : State) : Host.Outcome State Fault Refusal :=
  .next (match s.ctx? id.toNat with
    | none => s.answerDbg port 1 sc id 4
    | some _ => (s.modCtx id.toNat fun c => { c with debug := some sc.toNat }).answerDbg port 1 sc id 0)

/-- A debugger's hold. -/
def Hold.byDebugger : Hold → Bool
  | .debugger _ => true
  | _ => false

/-- A group without any debugger's hold, its stopped threads going on. -/
def Group.undebug (g : Group) : Group :=
  ((g.holds.filter Hold.byDebugger).foldl Group.unhold g).mapThreads fun t => { t.resume with stepping := false }

/-- SCOPE as DBGCMD holds it: the commands that use none leave it. -/
def State.dbgScope (s : State) (p : Fin 2) : BitVec 2 := (s.port p).dbgcmd.extractLsb' 10 2

/-- DETACH removes every hold and resumes every stopped thread of the context. -/
def execDbgDetach (port : Fin 2) (id : BitVec 12) (s : State) : Host.Outcome State Fault Refusal :=
  .next (match s.ctx? id.toNat with
    | none => s.answerDbg port 2 (s.dbgScope port) id 4
    | some _ =>
      let s := s.modCtx id.toNat fun c => { c with debug := none }
      (s.mapGroups fun _ g => if g.ctx == id.toNat then g.undebug else g).answerDbg port 2 (s.dbgScope port) id 0)

/-- HALT adds a hold at scopes 1 to 3 and stops the thread at scope 0, after a failure that may reach it (R131). -/
def execDbgHalt (port : Fin 2) (id : BitVec 12) (sc : BitVec 2) (s : State) : Host.Outcome State Fault Refusal :=
  .next (
    if (s.ctx? id.toNat).isNone then s.answerDbg port 3 sc id 4
    else match s.dbgTarget port id sc with
      | .missing => s.answerDbg port 3 sc id 6
      | .thread g t => ((s.faultFirst g t.tid).modThread g t.tid Thread.stop).answerDbg port 3 sc id 0
      | .groups gs => ((s.unenqAll gs).holdAll (.debugger sc.toNat) gs).answerDbg port 3 sc id 0)

/-- RESUME removes the hold of its scope, or lets one stopped thread go on. -/
def execDbgResume (port : Fin 2) (id : BitVec 12) (sc : BitVec 2) (s : State) : Host.Outcome State Fault Refusal :=
  .next (
    if (s.ctx? id.toNat).isNone then s.answerDbg port 4 sc id 4
    else match s.dbgTarget port id sc with
      | .missing => s.answerDbg port 4 sc id 6
      | .thread g t => (s.modThread g t.tid Thread.resume).answerDbg port 4 sc id 0
      | .groups gs => (s.unholdAll (.debugger sc.toNat) gs).answerDbg port 4 sc id 0)

/-- STEP lets a stopped thread issue one word or one iteration (R359). -/
def execDbgStep (port : Fin 2) (id : BitVec 12) (s : State) : Host.Outcome State Fault Refusal :=
  .next (
    if (s.ctx? id.toNat).isNone then s.answerDbg port 5 (s.dbgScope port) id 4
    else match s.dbgThread port id with
      | none => s.answerDbg port 5 (s.dbgScope port) id 6
      | some (g, t) =>
        if t.isStopped then
          (s.modThread g t.tid fun t => { t.resume with stepping := true }).answerDbg port 5 (s.dbgScope port) id 0
        else s.answerDbg port 5 (s.dbgScope port) id 2)

/-! ### MIRCMD (R361 to R365) -/

def State.answerMir (s : State) (op : Nat) (id : BitVec 12) (res : Nat) : State :=
  { s with mirage := { s.mirage with cmd := BitVec.ofNat 32 (pack [(28, res), (12, id.toNat), (0, op)]) } }

/-- States from which a capture or a replay may start. -/
def MirState.free : MirState → Bool
  | .capturing => false
  | .replaying => false
  | _ => true

/-- CAPTURE (R362, R365). -/
def execCapture (id : BitVec 12) (s : State) : Host.Outcome State Fault Refusal :=
  .next (match s.ctx? id.toNat with
    | none => s.answerMir 1 id 4
    | some c =>
      if s.mirage.st.free && s.mirage.queue.isNone && c.st == .saved then
        { s with mirage := { s.mirage with
            st := .capturing, ctx := id.toNat, wr := 0, copies := 0, copied := [], hostUnits := [], launches := [] } }.answerMir 1 id 0
      else s.answerMir 1 id 2)

/-- STOP ends a capture, or halts and discards a replay (R365). -/
def execMirageStop (id : BitVec 12) (s : State) : Host.Outcome State Fault Refusal :=
  .next (match s.ctx? id.toNat with
    | none => s.answerMir 2 id 4
    | some _ =>
      if s.mirage.ctx != id.toNat then s.answerMir 2 id 2
      else match s.mirage.st with
        | .capturing => { s with mirage := { s.mirage with st := .idle } }.answerMir 2 id 0
        | .replaying => (s.stopReplay .idle).answerMir 2 id 0
        | _ => s.answerMir 2 id 2)

/-- Write the `k`-th snapshot copy back to its unit, as the directory names them. -/
def State.restoreCopy (s : State) (ctx k : Nat) : State :=
  match s.ownPas ctx (s.mirage.snap.toNat + 16 * k) 16 needsRead with
  | (s, some dir) =>
    match s.ownPas ctx (leNat ((s.bytesOf dir).drop 8)) 65536 needsRead with
    | (s, some src) =>
      match s.ownPas ctx (leNat ((s.bytesOf dir).take 8)) 65536 needsWrite with
      | (s, some dst) =>
        if inOneRun src && inOneRun dst then s.copyBytes (src.headD 0) (dst.headD 0) 65536 else s.homeWrite 1 dst (s.bytesOf src)
      | (s, none) => s
    | (s, none) => s
  | (s, none) => s

def State.restoreCopies (s : State) (ctx : Nat) : List Nat → State
  | [] => s
  | k :: ks => State.restoreCopies (s.restoreCopy ctx k) ctx ks

/-- A queue that stands for the context's own during a replay: its cluster, point and root region are those of the
context's first queue (DEDUCED, log 17). No QADDR names it. -/
def State.standIn (s : State) (ctx : Nat) : Queue :=
  let own := (List.find? (fun (q : Nat × Queue) => q.2.ctx == ctx) s.queues).map Prod.snd
  let root := ((own.bind fun q => (s.regionChain q.region).getLast?).map Prod.fst).getD 0
  { qcb := 2 ^ 64, ctx := ctx, clu := (own.map Queue.clu).getD 0, dop := (own.map Queue.dop).getD 0, last := 0
    region := root, blocked := false, paged := none, monitor := none, failed := none, detachPort := none, detached := false, link := none }

/-- REPLAY restores the snapshot; the logged packets run in place of the queues (R364, R365). -/
def execReplay (id : BitVec 12) (s : State) : Host.Outcome State Fault Refusal :=
  .next (match s.ctx? id.toNat with
    | none => s.answerMir 3 id 4
    | some c =>
      let m := s.mirage
      if m.st.free && m.queue.isNone && c.st == .saved && c.pre && m.wr != 0 && m.ctx == id.toNat then
        let s := s.restoreCopies id.toNat (List.range m.copies.toNat)
        let (q, s) := s.free
        let s := { s with queues := Tbl.put s.queues q (s.standIn id.toNat) }
        { s with mirage := { s.mirage with
            st := .replaying, owed := m.launches, twins := [], pos := 0, logEnd := m.wr.toNat, ndiff := 0, kern := 0
            queue := some q } }.answerMir 3 id 0
      else s.answerMir 3 id 2)

end Sys2Proof.Machine
end

