-- ==== Sys2Proof/Machine/Trust.lean ====
section
/-! DEFINITION. Boot and attestation (R366 to R370), freezes (R372), the management register page (R374) with its refused writes
(R271, R335, R342, R371, R373, R375), the hosts' memory accesses (R235, R343), the cold reset (R6). -/

namespace Sys2Proof.Machine

/-! ### Boot (R366 to R368) -/

/-- The firmware window. -/
def fwWindow : Nat := 0xFFFC000000
def fwWindowBytes : Nat := 2 ^ 26

/-- A digest as bytes, its first byte the most significant. -/
def digestBytes (d : BitVec 256) : List Byte := (leBytes 32 d.toNat).reverse

/-- BOOT_GO. Verification takes time: what a port writes in the same ns finds VERIFYING (R368). -/
def execBootGo (port : Fin 2) (s : State) : Host.Outcome State Fault Refusal :=
  .next (match s.boot.st with
    | .waiting => { s with boot := { s.boot with st := .verifying, port := port } }.after 1 .imageVerified
    | .verifying => s
    | .running => s.setPort port { s.port port with bootResult := 5 })

/-- The image's header is bad: magic, reserved bytes, LEN out of its range, ENTRY misaligned or outside the payload. -/
def State.headerBad (s : State) : Bool :=
  let w := fun (o : Nat) => s.readN (fwWindow + o) 4
  w 0 != 0x57464E44 || (s.bytes (fwWindow + 0x10) 0x30).any (· != 0) || w 8 == 0 || fwWindowBytes - 0x340 < w 8
    || w 12 % 4 != 0 || w 8 ≤ w 12

/-- The RESULT of verification (R367, R368). -/
def State.verifyImage (s : State) : Nat :=
  let modulus := s.bytes (fwWindow + 0x40) 384
  if s.headerBad then 1
  else if Config.sha256 modulus != Config.keyHash then 2
  else if !Config.pssVerify modulus (s.bytes (fwWindow + 0x1C0) 384)
      (s.bytes fwWindow 0x1C0 ++ s.bytes (fwWindow + 0x340) (s.readN (fwWindow + 8) 4)) then 3
  else if BitVec.ofNat 32 (s.readN (fwWindow + 4) 4) < Config.minSvn then 4
  else 0

/-- The end of verification: the image runs, measured and its window locked, or it is rejected. -/
def execImageVerified (s : State) : Host.Outcome State Fault Refusal :=
  .next (
    if s.boot.st != .verifying then s
    else
      let r := s.verifyImage
      let s := s.setPort s.boot.port { s.port s.boot.port with bootResult := r }
      if r == 0 then
        { s with boot := { s.boot with
            st := .running, locked := true, svn := BitVec.ofNat 32 (s.readN (fwWindow + 4) 4)
            m0 := Config.sha256 (s.bytes fwWindow (0x340 + s.readN (fwWindow + 8) 4)) } }
      else { s with boot := { s.boot with st := .waiting } }.event 7 r 0 s.time)

/-! ### Attestation (R369, R370) -/

/-- The nonce as 32 bytes. -/
def Port.nonceBytes (p : Port) : List Byte := fitBytes 32 p.nonce

/-- ATTEST_GO: the report takes the nonce as it stands. -/
def execAttestGo (port : Fin 2) (s : State) : Host.Outcome State Fault Refusal :=
  .next (
    let p := s.port port
    if p.attBusy then s
    else if s.boot.st != .running then s.setPort port { p with attDone := true, attResult := 5 }
    else (s.setPort port { p with attDone := false, attResult := 0, attBusy := true, attNonce := p.nonceBytes }).after 1 (.attestReport port))

/-- Bytes 0x000 to 0x0FF of a report. -/
def State.reportBody (s : State) (nonce : List Byte) : List Byte :=
  nonce ++ digestBytes s.boot.m0 ++ digestBytes Config.romDigest ++ digestBytes Config.fuseDigest
    ++ leBytes 8 s.boot.svn.toNat ++ leBytes 8 s.time ++ leBytes 8 Config.serial.toNat ++ leBytes 0x68 0

/-- ATTEST_REPORT: the signed report is written and DONE set. -/
def execAttestReport (port : Fin 2) (s : State) : Host.Outcome State Fault Refusal :=
  .next (
    let p := s.port port
    if !p.attBusy then s
    else
      let body := s.reportBody p.attNonce
      let (n, s) := s.free
      s.setPort port { p with
        attBusy := false, attDone := true, attResult := 0
        report := body ++ (List.range 384).map fun i => Config.pssSign body n (Fin.ofNat 384 i) })

/-! ### Freezes (R372) -/

/-- The state that a step leaves. -/
def afterStep (s : State) (o : Host.Outcome State Fault Refusal) : State :=
  match o with
  | .next t => t
  | _ => s

/-- A port issues the peers' requests it has held, in order. -/
def State.issueHeld (s : State) (link : Nat) : List (BitVec 9 × PeerReq) → State
  | [] => s
  | r :: rs => State.issueHeld (s.servePeer link r.1 r.2) link rs

/-- A released SCC writes the records it has held. -/
def State.flushScc (s : State) (cluster : Nat) : State :=
  let k := s.cluster cluster
  (s.setCluster cluster { k with unposted := [] }).completeAll cluster k.unposted

/-- A host releases the master that FRZREL names. -/
def State.release (s : State) (kind id : Nat) : State :=
  if s.mgmt.frozen.contains (kind, id) then
    let s := { s with mgmt := { s.mgmt with frozen := s.mgmt.frozen.filter (· != (kind, id)) } }
    if kind == 0 then s.unholdAll .freeze ((s.groups.filter fun g => Config.coreNumber g.2.core == id).map Prod.fst)
    else if kind == 3 then
      let l := s.link id
      (s.setLink id { l with waiting := [] }).issueHeld id l.waiting
    else if kind == 1 && 0x2000 ≤ id then s.flushScc (id - 0x2000)
    else s
  else s

def execFrzrelWrite (v : BitVec 32) (s : State) : Host.Outcome State Fault Refusal :=
  .next (s.release (bits v.toNat 30 2) (bits v.toNat 16 14))

/-! ### Registers with a write rule of their own -/

/-- A firmware window pair that may stand (R373). -/
def fwwOk (b : W64) (size : W32) : Bool :=
  20 ≤ size.toNat && size.toNat ≤ 40 && bits b.toNat 20 32 * 2 ^ 20 % 2 ^ size.toNat == 0

/-- A write of FWWBn, or of FWWSn where `size` (R371, R373). -/
def execFwwWrite (m : Master) (n : Fin 4) (size : Bool) (v : BitVec 64) (s : State) : Host.Outcome State Fault Refusal :=
  .next (match m with
    | .host _ =>
      let b := if size then Tbl.get 0 s.mgmt.fwwb n else v &&& 0x000FFFFFFFF00001
      let l := if size then v.setWidth 32 &&& 0x3F else Tbl.get 0 s.mgmt.fwws n
      if fwwOk b l then
        { s with mgmt := { s.mgmt with fwwb := Tbl.set 0 s.mgmt.fwwb n b, fwws := Tbl.set 0 s.mgmt.fwws n l } }
      else s
    | m => s.freeze m)

/-- A write of EXPSn (R342, R371). -/
def execExpsWrite (m : Master) (n : Fin 16) (v : BitVec 32) (s : State) : Host.Outcome State Fault Refusal :=
  .next (match m with
    | .host _ =>
      let l := bits v.toNat 0 6
      if l == 0 || (16 ≤ l && l ≤ 40) then
        { s with mgmt := { s.mgmt with exps := Tbl.set 0 s.mgmt.exps n (BitVec.ofNat 32 l) } }
      else s
    | m => s.freeze m)

/-- A ring's size field may hold `v`. -/
def ringSizeOk (v : BitVec 32) : Bool := 4 ≤ bits v.toNat 0 5 && bits v.toNat 0 5 ≤ 16

def execPrqctlWrite (port : Fin 2) (v : BitVec 32) (s : State) : Host.Outcome State Fault Refusal :=
  .next (if ringSizeOk v then s.setPort port { s.port port with prqctl := v &&& 0x3F } else s)

def execEvctlWrite (port : Fin 2) (v : BitVec 32) (s : State) : Host.Outcome State Fault Refusal :=
  .next (if ringSizeOk v then s.setPort port { s.port port with evctl := v &&& 0x3F } else s)

/-- A write of a route-table entry (R335, R371); there is none beyond node 288. -/
def execRouteWrite (m : Master) (node : BitVec 9) (v : BitVec 32) (s : State) : Host.Outcome State Fault Refusal :=
  .next (match m with
    | .host _ =>
      if 1 ≤ node.toNat && node.toNat ≤ 288 then
        { s with mgmt := { s.mgmt with route := Tbl.set 0 s.mgmt.route node.toNat v } }
      else s
    | m => s.freeze m)

/-! ### The register page (R374) -/

/-- A host's write. -/
def byHost : Master → Bool
  | .host _ => true
  | _ => false

/-- A write by system software: a host's driver, or the dispatch firmware that acts for it (00_scope.md, "How the
manual is written"). -/
def bySystem : Master → Bool
  | .host _ => true
  | .scc _ => true
  | _ => false

/-- Index of an offset in an array of registers at `base`, `stride` bytes apart, `n` of them. -/
def regIndex (base stride n off : Nat) : Option Nat :=
  if base ≤ off && off < base + stride * n && (off - base) % stride == 0 then some ((off - base) / stride) else none

/-- NODEID: while it is 0 every port stays DOWN (R333). -/
def State.setNode (s : State) (v : W32) : State :=
  let s := { s with mgmt := { s.mgmt with nodeid := v &&& 0x1FF } }
  if s.mgmt.nodeid = 0 then
    (s.links.filter fun l => l.2.st != .down).foldl (fun s l => s.stopPort l.1 .down) s
  else s

/-- A 64-bit register's value and its write, at an aligned offset of a port's page. -/
def State.reg64 (s : State) (m : Master) (p : Fin 2) (off : Nat) : Option (W64 × (W64 → State)) :=
  let r := s.port p
  let mg := s.mgmt
  let mir := s.mirage
  let port := fun (v : W64) (f : W64 → Port) => some (v, fun (x : W64) => s.setPort p (f x))
  let mgmt := fun (v : W64) (f : W64 → Mgmt) => some (v, fun (x : W64) => { s with mgmt := f x })
  if off == 0x00 then port r.cxaddr fun x => { r with cxaddr := x }
  else if off == 0x10 then port r.qaddr fun x => { r with qaddr := x }
  else if off == 0x20 then port (r.pgaddr &&& 0xFFFFFFFFFFFF0003) fun x => { r with pgaddr := x }
  else if off == 0x30 then port r.pgdata fun _ => r
  else if off == 0x48 then port r.dbgtgt fun x => { r with dbgtgt := x }
  else if off == 0x148 then some (mir.base, fun x => if byHost m then { s with mirage := { mir with base := x } } else s)
  else if off == 0x150 then some (mir.snap, fun x => if byHost m then { s with mirage := { mir with snap := x } } else s)
  else if off == 0x168 then
    some (BitVec.ofNat 64 (pack [(32, mir.kern.toNat), (16, mir.ndiff), (0, match mir.st with
      | .idle => 0 | .capturing => 1 | .replaying => 2 | .matched => 3 | .differed => 4 | .logFull => 5 | .snapFull => 6)]),
      fun _ => s)
  else if off == 0x1000 then port r.prqbase fun x => { r with prqbase := x &&& 0xFFFFFFFFFFFFF000 }
  else if off == 0x1040 then port r.evbase fun x => { r with evbase := x &&& 0xFFFFFFFFFFFFF000 }
  else if off == 0x2000 then mgmt mg.tbbase fun x => { mg with tbbase := x &&& 0xFFFFFFFFFFFFFFC0 }
  else if off == 0x2020 then mgmt mg.tlmbase fun x => { mg with tlmbase := x &&& 0xFFFFFFFFFFFFF000 }
  else if off == 0x2028 then mgmt mg.curbase fun x => { mg with curbase := x &&& 0xFFFFFFFFFFFF0000 }
  else match regIndex 0x80 8 8 off with
  | some n => port (Tbl.get 0 r.dbpa n) fun x => { r with dbpa := Tbl.set 0 r.dbpa n (x &&& 0xFFFFFFFFFFFFFFFC) }
  | none => match regIndex 0x2080 16 4 off with
  | some n => some (Tbl.get 0 mg.fwwb n, fun x => afterStep s (execFwwWrite m (Fin.ofNat 4 n) false x s))
  | none => match regIndex 0x11200 16 16 off with
  | some n => some (Tbl.get 0 mg.expb n, fun x =>
      if byHost m then { s with mgmt := { mg with expb := Tbl.set 0 mg.expb n (x &&& 0x000FFFFFFFFF0007) } }
      else s.freeze m)
  | none => match regIndex 0x11100 8 32 off with
  | some n =>
    let l := s.link n
    let st := match l.st with
      | .down => 0 | .training => 1 | .up => 2 | .restripe => 3 | .degraded => 4 | .replay => 5 | .spilling => 6 | .failed => 7
    some (BitVec.ofNat 64 (pack [(48, l.lost.toNat), (32, l.act.toNat), (16, l.rstr.toNat), (8, l.rply.toNat), (0, st)]),
      fun _ => s)
  | none => match regIndex 0x20000 8 1024 off with
  | some n => some (BitVec.ofNat 64 (
      let c := s.core (Config.coreOf n)
      let st := match c.slip with | .track => 0 | .hold => 1 | .pinned => 2 | .escalated => 3
      pack [(32, wrap32 c.debt), (30, st), (20, c.holdn), (10, Config.vmFloor (clusterOf (Config.coreOf n)) % 1024), (0, c.trim)]),
      fun _ => s)
  | none => match regIndex 0x22000 8 1024 off with
  | some n => some (BitVec.ofNat 64 (s.core (Config.coreOf n)).cyc, fun _ => s)
  | none => match regIndex 0x24000 8 1024 off with
  | some n => some (BitVec.ofNat 64 (s.core (Config.coreOf n)).idle, fun _ => s)
  | none => match regIndex 0x26008 16 8 off with
  | some n => some (BitVec.ofNat 64 (s.die n).vmint, fun _ => s)
  | none => none

/-- A write of CXCMD (R83). -/
def State.cxcmd (s : State) (p : Fin 2) (v : W32) : State :=
  let id := v.extractLsb' 8 12
  match bits v.toNat 0 4 with
  | 1 => afterStep s (execBind p id s)
  | 2 => afterStep s (execPreempt p id s)
  | 3 => afterStep s (execResume p id s)
  | 4 => afterStep s (execDestroy p id s)
  | op => s.answerCx p op id (if id = 0 then 4 else 5)

/-- A write of QCMD (R94). -/
def State.qcmd (s : State) (p : Fin 2) (v : W32) : State :=
  match bits v.toNat 0 2 with
  | 1 => afterStep s (execQueueAttach p s)
  | 2 => afterStep s (execQueueDetach p s)
  | op => if bit (s.port p).qcmd.toNat 31 then s else s.answerQ p op 5 false

/-- A write of PGCMD (R272). -/
def State.pgcmd (s : State) (p : Fin 2) (v : W32) : State :=
  let id := v.extractLsb' 8 12
  match bits v.toNat 0 4 with
  | 1 => afterStep s (execResolve p id s)
  | 2 => let s := s.setPort p { s.port p with pgcmd := v }; afterStep s (execRetire p s)
  | 3 => afterStep s (execHorizon p id s)
  | op => s.answerPg p op id.toNat 5

/-- A write of DBGCMD (R357). -/
def State.dbgcmd (s : State) (p : Fin 2) (v : W32) : State :=
  let id := v.extractLsb' 12 12
  let sc := v.extractLsb' 10 2
  let s := s.setPort p { s.port p with dbgcmd := v &&& 0x00FFFC0F }
  match bits v.toNat 0 4 with
  | 1 => afterStep s (execDbgAttach p id sc s)
  | 2 => afterStep s (execDbgDetach p id s)
  | 3 => afterStep s (execDbgHalt p id sc s)
  | 4 => afterStep s (execDbgResume p id sc s)
  | 5 => afterStep s (execDbgStep p id s)
  | op => s.answerDbg p op sc id 5

/-- A write of MIRCMD (R361). -/
def State.mircmd (s : State) (v : W32) : State :=
  let id := v.extractLsb' 12 12
  match bits v.toNat 0 4 with
  | 1 => afterStep s (execCapture id s)
  | 2 => afterStep s (execMirageStop id s)
  | 3 => afterStep s (execReplay id s)
  | op => s.answerMir op id 5

/-- A write of LCTL (R336, R341). -/
def State.lctl (s : State) (m : Master) (n : Nat) (v : W32) : State :=
  if v.getLsbD 0 then afterStep s (execLctlEnSet m (Fin.ofNat 32 n) s)
  else afterStep s (execLctlEnClear m (Fin.ofNat 32 n) s)

/-- Four bytes of ATTNONCE at `i`. -/
def Port.setNonce (r : Port) (i : Nat) (v : W32) : Port :=
  let b := r.nonceBytes
  { r with nonce := b.take (4 * i) ++ leBytes 4 v.toNat ++ b.drop (4 * i + 4) }

/-- BOOTCMD as it reads (R368). -/
def State.bootcmd (s : State) (p : Fin 2) : Nat :=
  let st := match s.boot.st with | .waiting => 0 | .verifying => 1 | .running => 2
  pack [(31, b2n (s.boot.st == .verifying)), (28, (s.port p).bootResult), (26, st)]

/-- ATTCMD as it reads (R370). -/
def Port.attcmd (r : Port) : Nat := pack [(31, b2n r.attDone), (28, r.attResult), (27, b2n r.attBusy)]

/-- A 32-bit register's value and its write. -/
def State.reg32 (s : State) (m : Master) (p : Fin 2) (off : Nat) : Option (W32 × (W32 → State)) :=
  let r := s.port p
  let mg := s.mgmt
  let mir := s.mirage
  let port := fun (v : W32) (f : W32 → Port) => some (v, fun (x : W32) => s.setPort p (f x))
  let mgmt := fun (v : W32) (f : W32 → Mgmt) => some (v, fun (x : W32) => { s with mgmt := f x })
  let mirage := fun (v : W32) (f : W32 → State) => some (v, fun (x : W32) => if byHost m then f x else s)
  if off == 0x08 then some (r.cxcmd, s.cxcmd p)
  else if off == 0x18 then some (r.qcmd, s.qcmd p)
  else if off == 0x28 then some (r.pgcmd, s.pgcmd p)
  else if off == 0x40 then some (r.dbgcmd, s.dbgcmd p)
  else if off == 0x50 then port r.dbgtid fun x => { r with dbgtid := x &&& 0x3FF }
  else if off == 0x100 then
    some (BitVec.ofNat 32 (s.bootcmd p), fun x => if x.getLsbD 0 then afterStep s (execBootGo p s) else s)
  else if off == 0x140 then mirage mir.cmd s.mircmd
  else if off == 0x158 then mirage mir.len fun x => { s with mirage := { mir with len := x } }
  else if off == 0x15C then mirage mir.units fun x => { s with mirage := { mir with units := x } }
  else if off == 0x160 then some (mir.wr, fun _ => s)
  else if off == 0x164 then some (mir.copies, fun _ => s)
  else if off == 0x1008 then some (r.prqctl, fun x => afterStep s (execPrqctlWrite p x s))
  else if off == 0x1010 then some (r.prqwr, fun _ => s)
  else if off == 0x1018 then port r.prqrd fun x => { r with prqrd := x }
  else if off == 0x1048 then some (r.evctl, fun x => afterStep s (execEvctlWrite p x s))
  else if off == 0x1050 then some (r.evwr, fun _ => s)
  else if off == 0x1058 then port r.evrd fun x => { r with evrd := x }
  else if off == 0x2008 then mgmt mg.tperiod fun x => { mg with tperiod := x &&& 0xFFFFF }
  else if off == 0x2010 then mgmt mg.gwdlim fun x => { mg with gwdlim := x }
  else if off == 0x2018 then mgmt mg.spctl fun x => { mg with spctl := x &&& 0x3F }
  else if off == 0x2030 then some (mg.nodeid, fun x => if byHost m then s.setNode x else s.freeze m)
  else if off == 0x2038 then some (BitVec.ofNat 32 mg.frzstat, fun _ => s)
  else if off == 0x2040 then some (0, fun x => if byHost m then afterStep s (execFrzrelWrite x s) else s)
  else if off == 0x3020 then
    some (BitVec.ofNat 32 r.attcmd, fun x => if x.getLsbD 0 then afterStep s (execAttestGo p s) else s)
  else if off == 0x3028 then some (BitVec.ofNat 32 Config.certLen, fun _ => s)
  else match regIndex 0xC0 8 8 off with
  | some n => port (Tbl.get 0 r.dbpc n) fun x => { r with dbpc := Tbl.set 0 r.dbpc n (x &&& 0x80FFFC00) }
  | none => match regIndex 0x2088 16 4 off with
  | some n => some (Tbl.get 0 mg.fwws n, fun x => afterStep s (execFwwWrite m (Fin.ofNat 4 n) true (x.setWidth 64) s))
  | none => match regIndex 0x3000 4 8 off with
  | some i => port (BitVec.ofNat 32 (leNat ((r.nonceBytes.drop (4 * i)).take 4))) fun x => r.setNonce i x
  | none => match regIndex 0x3100 4 160 off with
  | some i => some (BitVec.ofNat 32 (leNat ((r.report.drop (4 * i)).take 4)), fun _ => s)
  | none => match regIndex 0x4000 4 1024 off with
  | some i => some (BitVec.ofNat 32 (leNat ((List.range 4).map fun k =>
      if 4 * i + k < Config.certLen then Config.certByte (4 * i + k) else 0)), fun _ => s)
  | none => match regIndex 0x10004 4 288 off with
  | some n => some (Tbl.get 0 mg.route (n + 1), fun x => afterStep s (execRouteWrite m (BitVec.ofNat 9 (n + 1)) x s))
  | none => match regIndex 0x11000 8 32 off with
  | some n => some (BitVec.ofNat 32 (b2n (s.link n).en), s.lctl m n)
  | none => match regIndex 0x11208 16 16 off with
  | some n => some (Tbl.get 0 mg.exps n, fun x => afterStep s (execExpsWrite m (Fin.ofNat 16 n) x s))
  | none => match regIndex 0x26000 16 8 off with
  | some n => some ((s.die n).vminv.setWidth 32, fun _ => if bySystem m then afterStep s (execVminvWrite (Fin.ofNat 8 n) s) else s)
  | none => none

/-- What four aligned bytes of a port's register page read as; 0 where no register is. -/
def State.readReg (s : State) (p : Fin 2) (off : Nat) : W32 :=
  match s.reg32 (.host p) p off with
  | some (v, _) => v
  | none =>
    match s.reg64 (.host p) p (off / 8 * 8) with
    | some (v, _) => v.extractLsb' (8 * (off % 8)) 32
    | none => 0

/-- A write of four aligned bytes: of a 32-bit register, or of half of a 64-bit one. -/
def State.writeReg (s : State) (m : Master) (p : Fin 2) (off : Nat) (v : W32) : State :=
  match s.reg32 m p off with
  | some (_, f) => f v
  | none =>
    match s.reg64 m p (off / 8 * 8) with
    | some (old, f) =>
      let old := if off / 8 * 8 == 0x20 then (s.port p).pgaddr else old
      f (if off % 8 == 0 then old.extractLsb' 32 32 ++ v else v ++ old.extractLsb' 0 32)
    | none => s

/-- A write of all of LSTAT by system software clears LOST, which is sticky (R10, R341): one access of 8 bytes at `off`, or the
second of two of 4 bytes that one master makes, whatever it does between them (R374; DESIGN CHOICE, log 27). -/
def State.clearLost (s : State) (m : Master) (off : Nat) (wide : Bool) : State :=
  match regIndex 0x11100 8 32 (off / 8 * 8) with
  | none => s
  | some n =>
    let l := s.link n
    if wide || l.lostHalf == some (m, 4 - off % 8) then s.setLink n { l with lost := 0, lostHalf := none }
    else s.setLink n { l with lostHalf := some (m, off % 8) }

/-- REGISTER_WRITE: a write of 4 or 8 aligned bytes of a port's page; offsets that are not listed ignore it, and a frozen master
makes none (R372). -/
def execRegisterWrite (m : Master) (port : Fin 2) (off : BitVec 20) (wide : Bool) (v : BitVec 64) (s : State) :
    Host.Outcome State Fault Refusal :=
  .next (
    let o := off.toNat
    if s.mgmt.holdsBack m then s
    else if !wide then
      if o % 4 != 0 then s
      else
        let s := s.writeReg m port o (v.extractLsb' 0 32)
        if bySystem m then s.clearLost m o false else s
    else if o % 8 != 0 then s
    else match s.reg64 m port o with
      | some (_, f) => if bySystem m then (f v).clearLost m o true else f v
      | none => (s.writeReg m port o (v.extractLsb' 0 32)).writeReg m port (o + 4) (v.extractLsb' 32 32))

/-! ### A host's accesses through BAR2 (R235, R343) -/

/-- The firmware window is locked against host writes once its image runs (R367). -/
def State.hostMay (s : State) (pa : Nat) : Bool :=
  pa < hbmBytes && !(s.boot.locked && fwWindow ≤ pa && pa < fwWindow + fwWindowBytes)

/-- A host's write performed: the bytes it may write; monitors wake with code 3. -/
def State.hostStore (s : State) (addr : Nat) (data : List Byte) : State :=
  let may := data.zipIdx.filter fun (x : BitVec 8 × Nat) => s.hostMay (addr + x.2)
  let pas := may.map fun (x : BitVec 8 × Nat) => addr + x.2
  (s.noteHostWrite pas).homeWrite 3 pas (may.map Prod.fst)

/-- The `i`-th write with Relaxed Ordering that waits at a port is performed. -/
def State.performPosted (s : State) (p : Fin 2) (i : Nat) : State :=
  match (s.port p).posted[i]? with
  | some (addr, data) => (s.setPort p { s.port p with posted := (s.port p).posted.eraseIdx i }).hostStore addr data
  | none => s

/-- All of them are. -/
def State.performAll (s : State) (p : Fin 2) : (n : Nat) → State
  | 0 => s
  | n + 1 => State.performAll (s.performPosted p 0) p n

/-- HOST_WRITE, of at most 512 bytes: performed after every write that the port received earlier, or with Relaxed Ordering in any
order (R235, R343). -/
def execHostWrite (port : Fin 2) (addr : Nat) (w : PcieWrite) (s : State) : Host.Outcome State Fault Refusal :=
  .next (
    if 512 < w.data.length then s.emit (.unsupported port)
    else if w.relaxed then s.setPort port { s.port port with posted := (s.port port).posted ++ [(addr, w.data)] }
    else (s.performAll port (s.port port).posted.length).hostStore addr w.data)

/-- HOST_READ, of at most 4,096 bytes: the bytes at their homes; one beyond the memory is an unsupported request. -/
def execHostRead (port : Fin 2) (addr : Nat) (n : Nat) (s : State) : Host.Outcome State Fault Refusal :=
  .next (if addr + n ≤ hbmBytes && n ≤ 4096 then s.emit (.readData port (s.bytes addr n)) else s.emit (.unsupported port))

/-- The OP of R213 that a PCI Express AtomicOp is. -/
def PcieOp.op (o : PcieOp) (wide : Bool) : BitVec 4 :=
  match o, wide with
  | .fetchAdd, false => 0#4
  | .fetchAdd, true => 1#4
  | .swap, false => 10#4
  | .swap, true => 11#4
  | .cas, false => 12#4
  | .cas, true => 13#4
  | .cas128, _ => 13#4

/-- HOST_ATOMICOP at the L2 home; monitors wake with code 3. A CAS of 128 bits is an unsupported request. -/
def execHostAtomicop (port : Fin 2) (op : PcieOp) (wide : Bool) (addr : Nat) (x : BitVec 64) (y : BitVec 64) (s : State) :
    Host.Outcome State Fault Refusal :=
  .next (
    let n := if wide then 8 else 4
    if op == .cas128 || addr % n != 0 || !(span addr n).all s.hostMay then s.emit (.unsupported port)
    else
      let (s, old) := s.outsideAtomic 3 (PcieOp.op op wide) addr x y
      s.emit (.readData port old))

/-! ### Cold reset (R6, R10, R366) -/

/-- PACKAGE_COLD_RESET: everything at its reset value; what the outside will do next, and the numbers of free values already
used, are not the package's. -/
def execPackageColdReset (s : State) : Host.Outcome State Fault Refusal :=
  .next { State.reset with agenda := s.agenda, output := s.output, fresh := s.fresh }

end Sys2Proof.Machine
end

