-- ==== Sys2Proof/Machine/Cycle.lean ====
section
/-! DEFINITION. A core cycle: fetching a word (R52, R62, R146), clause headers (R53 to R57), the ends of waits (R130), late
faults (R259, R294, R394), breakpoints (R358), the frontier, selection and regrouping (R132 to R136, R143), stalls and
charges (R348, R349), replay passes (R211), mismatches and deadlocks (R141, R248, R393), the hang watchdog (R126). -/

namespace Sys2Proof.Machine

/-! ### Fetching and decoding the next word (R52, R56, R62, R138, R146) -/

/-- What stands at a thread's position. -/
inductive Look where
  | word (i : Instr)
  | fault (code sub : Byte)
  | unfetched (code sub : Byte) (addr : W64)
  | page (base : W64) (size : Nat) (absent : Bool)
  deriving DecidableEq, Repr

/-- The word of a REP's running iteration: each marked field advanced (R138). -/
def repWord (r : Rep) : Nat :=
  (markPlaces r.mark.toNat).foldl
    (fun w p => w - bits w p 6 * 2 ^ p + (bits w p 6 + r.iter * r.stride) % 64 * 2 ^ p) r.word.toNat

/-- R62 steps 1 and 2 on a word with its extension word. -/
def readWord (t : Thread) (w ext : Nat) : Look :=
  match classSub t.pos.hdr w with
  | some sub => .fault 0x04 sub
  | none =>
    match decodeWords [w, ext] with
    | .error e => .fault 0x01 (errorSub e)
    | .ok i => .word i

/-- A MOVX that is the last word of its clause (R57): its lowest sub-code. -/
def lastMovx : Look → Look
  | .word i => .fault 0x01 (match illegal i with | some sub => if sub < 8 then sub else 8 | none => 8)
  | r => r

/-- The word at a thread's position: of an active REP's iteration, as the REP checked it (R138, R139), else fetched and
decoded. -/
def State.look (s : State) (e : Env) : State × Look :=
  match e.t.rep with
  | some r => (s, match decodeWords [repWord r, 0] with | .error e => .fault 0x01 (errorSub e) | .ok i => .word i)
  | none =>
  match s.fetch e.gr e.t.pos.pc with
  | (s, .page b z a) => (s, .page b z a)
  | (s, .fault c sub) => (s, .unfetched c sub e.t.pos.pc)
  | (s, .ok w) =>
    if w / 2 ^ 24 == 4 && (classSub e.t.pos.hdr w).isNone then
      if e.t.pos.left ≤ 1 then (s, lastMovx (readWord e.t w 0))
      else match s.fetch e.gr (e.t.pos.pc + 4) with
        | (s, .page b z a) => (s, .page b z a)
        | (s, .fault c sub) => (s, .unfetched c sub (e.t.pos.pc + 4))
        | (s, .ok x) => (s, readWord e.t w x)
    else (s, readWord e.t w 0)

/-- What the head of the cycle's issues comes to: a word to run, or a state without it. -/
inductive Head where
  | run (i : Instr) (s : State)
  | gone (s : State)

/-- A thread selected in this cycle still issues: it is RUNNABLE at the selected word, and its group has not ended. A save
or a hold that began in the cycle comes after what the cycle issues (R123). -/
def Env.stands (e : Env) (key : Nat) : Bool :=
  e.t.run == .runnable && e.t.pos.pc.toNat == key
    && (match e.gr.st with | .running => true | .dumping => true | .halted _ => true | .saving => true | _ => false)

/-- A HALTG whose group another group's HALTG has held in this cycle halts before it issues, whether or not it names that group
(R128 says so of HALTGs that name each other; for the others DESIGN CHOICE, log 27). -/
def Env.heldBack (e : Env) (i : Instr) : Bool :=
  (match i with | .haltg _ => true | _ => false) && (match e.gr.st with | .halted _ => true | .saving => true | _ => false)
    && e.gr.holds.any fun h => match h with | .group _ => true | _ => false

/-- The word that a fetch fault names: the one that led to the address, or a MOVX for its extension word (R146). -/
def Env.ledTo (e : Env) (a : W64) : W64 := if a = e.t.pos.pc then e.t.last else e.t.pos.pc

/-- A thread's turn in the cycle has passed without its word: what its registers wait for is settled (R293). -/
def State.passed (s : State) (i : Option Issue) : State :=
  match i with
  | none => s
  | some i => s.settleCvs i.grp i.tid (if i.exits then List.range 8 else i.cv.toList)

/-- The next thread of the cycle to issue, with its word. -/
def State.head (s : State) : Head :=
  let turn := s.issuing.head?
  match s.issuer with
  | none => .gone (s.pop.passed turn)
  | some e =>
    if !e.stands ((turn.map Issue.key).getD 0) then .gone (s.pop.passed turn)
    else match s.look e with
      | (s, .word i) => if e.heldBack i then .gone s.pop else .run i s
      | (s, .fault c sub) => .gone ((s.pop.faultAt e c sub 0).passed turn)
      | (s, .unfetched c sub a) => .gone ((s.pop.deliver e.g e.tid ⟨c, sub, a, e.ledTo a, e.t.pos, false⟩).passed turn)
      | (s, .page b z a) => .gone ((s.pop.pageAt e b z needsFetch a).passed turn)

/-! ### What each word of the frontier needs -/

/-- The register a word signs. -/
def cvOf : Instr → Option Nat
  | .copy _ c => some c.toNat
  | .copyR _ c => some c.toNat
  | .chain _ c => some c.toNat
  | .gather _ _ c => some c.toNat
  | .scatter _ _ c => some c.toNat
  | .commit c => some c.toNat
  | .enq _ _ c => some c.toNat
  | .evt _ c _ => some c.toNat
  | .atomR _ c => some c.toNat
  | .tld _ _ _ c => some c.toNat
  | .tst _ _ _ c => some c.toNat
  | .tzero _ c => some c.toNat
  | .qnt _ _ _ _ c => some c.toNat
  | .tcvt _ _ c => some c.toNat
  | .mmaBf16 _ _ _ c _ _ => some c.toNat
  | .mmaF16 _ _ _ c _ _ => some c.toNat
  | .mmaE4m3 _ _ _ c _ _ => some c.toNat
  | .mmaE5m2 _ _ _ c _ _ => some c.toNat
  | .mmaE2m3 _ _ _ c _ _ => some c.toNat
  | .mmaE3m2 _ _ _ c _ _ => some c.toNat
  | .mmaE2m1 _ _ _ c _ _ => some c.toNat
  | .mmaDl8 _ _ _ c _ _ => some c.toNat
  | .mmaS8 _ _ _ c _ _ => some c.toNat
  | .mmaS4 _ _ _ c _ _ => some c.toNat
  | .scacc _ _ _ c => some c.toNat
  | .aclr _ c => some c.toNat
  | .amov _ _ _ c => some c.toNat
  | .ast _ _ _ c => some c.toNat
  | .ald _ _ _ c => some c.toNat
  | .tchk _ _ c => some c.toNat
  | _ => none

/-- The MMA words (R55). -/
def isMma (i : Instr) : Bool := (encode i).any fun w => 0xE6 ≤ w / 2 ^ 24 && w / 2 ^ 24 ≤ 0xEF

/-- The counter a memory word raises: true L, false S (R236); a MAPS of length 0 raises S (`pipeStall`). -/
def countsIn : Instr → Option Bool
  | .ldG _ _ _ _ _ => some true
  | .ldS _ _ _ _ => some true
  | .ldD _ _ _ _ => some true
  | .ldaCore _ _ _ _ _ => some true
  | .ldaDev _ _ _ _ _ => some true
  | .ldaSys _ _ _ _ _ => some true
  | .atomCore _ _ _ _ _ => some true
  | .atomDev _ _ _ _ _ => some true
  | .atomSys _ _ _ _ _ => some true
  | .tlbp _ _ => some true
  | .stG _ _ _ _ _ => some false
  | .stS _ _ _ _ => some false
  | .stD _ _ _ _ => some false
  | .stlCore _ _ _ _ _ => some false
  | .stlDev _ _ _ _ _ => some false
  | .stlSys _ _ _ _ _ => some false
  | .redaDev _ _ _ _ => some false
  | .redaSys _ _ _ _ => some false
  | .flushs _ _ => some false
  | _ => none

/-- Registers that a thread's unperformed accesses will write (R208). -/
def State.owedRegs (s : State) (g tid : Nat) : List (Nat × Nat) :=
  (s.accs.filter fun a => a.grp == g && a.tid == tid &&
      (match a.kind with | .load => true | .atom _ => true | .tlbp => true | _ => false)).map fun a =>
    (a.dst, max 1 (a.size / 4))

/-- Registers that TCHKs will write in a thread: those queued, and those it has signed that have not issued (R309). -/
def State.owedChecks (s : State) (gr : Group) (g tid core : Nat) : List (Nat × Nat) :=
  (((s.core core).tileq.filter fun o => o.grp == g).filterMap fun o =>
    match o.kind with
    | .tchk d _ signers => if signers.contains tid then some (d, 1) else none
    | _ => none)
  ++ gr.cvs.filterMap fun c =>
    match c.2.word with
    | some (.tchk d _ _) => if c.2.st == .gathering && c.2.signed.contains tid then some (d.toNat, 1) else none
    | _ => none

/-- A word waits on an operand (R208). -/
def State.depStall (s : State) (e : Env) (i : Instr) : Bool :=
  let owed := s.owedRegs e.g e.tid ++ s.owedChecks e.gr e.g e.tid e.gr.core
  !owed.isEmpty && (regUses i).any fun u => owed.any fun r => u.reg.toNat < r.1 + r.2 && r.1 < u.reg.toNat + u.k

/-- A failure record of the group waits for room in the fault queue (R91). -/
def State.recordHeld (s : State) (gr : Group) (k : Kernel) : Bool :=
  ((s.ctx? gr.ctx).map fun c => c.held.any fun r => r.grp == gr.lin && r.kern == k.id).getD false

/-- The threads that the bundles already selected in this cycle bring to a register of a group. -/
def signersOf (sel : List Bundle) (g n : Nat) : List Nat :=
  (sel.filter fun b => b.grp == g && (b.word.bind cvOf) == some n).flatMap Bundle.tids

/-- With `also`, the threads of bundles selected before in this cycle, these threads' signatures are the last of a register. -/
def Cv.lastBy (cv : Cv) (also ready : List Nat) : Bool :=
  let left := cv.members.filter fun m => !cv.signed.contains m
  cv.st != .unset && left.any ready.contains && left.all fun m => ready.contains m || also.contains m

/-- Tile operations that the bundles selected before in this cycle issue to the core's matrix queue. -/
def State.tilesTaken (s : State) (sel : List Bundle) : List Bundle → Nat
  | [] => 0
  | b :: bs =>
    let earlier := sel.take (sel.length - (bs.length + 1))
    let issues := ((b.word.bind signClass) == some 3) && (((b.word.bind cvOf).bind fun n =>
      (s.group? b.grp).map fun gr => (gr.cv n).lastBy (signersOf earlier b.grp n) b.tids).getD false)
    State.tilesTaken s sel bs + b2n issues

/-- The operation of a register whose set is complete cannot issue yet (R236, R239, R291). -/
def State.opStalls (s : State) (sel : List Bundle) (e : Env) (cv : Cv) (i : Instr) : Bool :=
  s.accs.any (fun a => cv.waits.contains a.id)
    || (match signClass i with
        | some 3 => 8 ≤ (s.core e.gr.core).tileq.length + s.tilesTaken sel sel || 63 ≤ e.warp.mq.length
        | _ => (match i with | .commit _ => e.warp.cannotClose | _ => s.lastStalls e))

/-- The signature of these threads would issue an operation that cannot issue yet (R236, R238, R239, R291); `sel` are the
bundles that slots before have selected in this cycle. -/
def State.signStall (s : State) (sel : List Bundle) (e : Env) (ready : List Nat) (i : Instr) (n : Nat) : Bool :=
  let cv := e.gr.cv n
  if !cv.lastBy (signersOf sel e.g n) ready then false
  else
    s.accs.any (fun a => a.grp == e.g && cv.members.contains a.tid && !cv.signed.contains a.tid) || s.opStalls sel e cv i

/-- An exit of the thread would issue an operation that cannot issue yet (R293). -/
def State.exitStall (s : State) (sel : List Bundle) (e : Env) : Bool :=
  (List.range 8).any fun n => (e.gr.cv n).completedBy e.tid && ((e.gr.cv n).word.map (s.opStalls sel e (e.gr.cv n))).getD false

/-- The address register of a word that accesses global memory. -/
def globalReg : Instr → Option (BitVec 6)
  | .ldG _ a _ _ _ => some a
  | .stG _ a _ _ _ => some a
  | .ldaCore _ a _ _ _ => some a
  | .ldaDev _ a _ _ _ => some a
  | .ldaSys _ a _ _ _ => some a
  | .stlCore _ a _ _ _ => some a
  | .stlDev _ a _ _ _ => some a
  | .stlSys _ a _ _ _ => some a
  | .atomCore _ a _ _ _ => some a
  | .atomDev _ a _ _ _ => some a
  | .atomSys _ a _ _ _ => some a
  | .redaDev a _ _ _ => some a
  | .redaSys a _ _ _ => some a
  | _ => none

/-- A word's access goes to a peer by a port that takes no new flit (R337, R339). -/
def State.remoteFull (s : State) (e : Env) (i : Instr) : Bool :=
  ((globalReg i).bind fun a =>
    let va := (e.t.getX2 a).toNat
    (s.tlbFind e.gr.ctx e.gr.core va).map fun t =>
      let leaf := t.leaf.toNat
      bits leaf 55 9 != 0 && s.portBlocked (bits leaf 55 9) (leafPa leaf t.bits va)).getD false

/-- A word finds a queue full or must wait for its thread's own accesses; one whose guard is false, and a FLUSHS of length 0,
raise no counter (R236). -/
def State.pipeStall (s : State) (sel : List Bundle) (e : Env) (ready : List Nat) (i : Instr) : Bool :=
  let acts := e.t.guard (guardOf i)
  let raises := match i with | .flushs _ l => e.t.getX l != 0 | _ => true
  let full := match countsIn i with
    | some true => 63 ≤ e.warp.lq.length
    | some false => raises && 63 ≤ e.warp.sq.length
    | none => false
  let unfilled := fun (a : BitVec 6) =>
    ((e.gr.windowAt (e.t.getX a).toNat).map fun w => !w.filled.contains ((e.t.getX a).toNat / 4096)).getD false
      && s.accs.any fun x => x.grp == e.g && x.tid == e.tid && x.level == .global
  s.recordHeld e.gr e.k || acts && (full || s.remoteFull e i || (match i with
    | .ldS _ a _ _ => unfilled a
    | .stS _ a _ _ => unfilled a
    | .maps _ _ l => s.windowBusy e || (e.t.getX l = 0 && 63 ≤ e.warp.sq.length)
    | .flushs _ _ => s.windowBusy e
    | .bar o _ _ => o.toNat % 2 == 0 && s.pending e.g e.tid
    | .wait _ _ _ _ => e.warp.cannotClose
    | .exit _ => ((e.gr.others e.tid).isEmpty && e.warp.cannotClose) || s.exitStall sel e
    | i => ((cvOf i).map fun n => s.signStall sel e ready i n).getD false))

/-! ### Clause headers (R53 to R57) -/

/-- The thresholds of a header. -/
def headerWaits (h : Nat) : Waits := ⟨bits h 7 3, bits h 10 3, bits h 13 3, bits h 16 3⟩

/-- The sub-code of ILLEGAL_HEADER for a word reached as a header, if any. -/
def headerSub (w : Nat) : Option Byte :=
  if !isHeader w then some 1 else if bits w 0 4 == 0 then some 2 else if 6 ≤ bits w 4 3 then some 3 else none

/-- The thread looks at a header's fields: it enters the clause, or waits. -/
def State.tryHeader (s : State) (e : Env) (h : Nat) : State :=
  let w := headerWaits h
  let hdr := BitVec.ofNat 32 h
  if w.met e.warp && !e.gr.owes e.tid w then
    s.modThread e.g e.tid fun _ =>
      { e.t.found e.warp w with
        run := .runnable, pos := ⟨e.t.pos.pc + 4, bits h 0 4, hdr⟩, last := e.t.pos.pc, notice := none }
  else s.modThread e.g e.tid fun t => { t with run := .waiting (.header w), pos := { t.pos with hdr := hdr } }

/-- The first code address of another 64 KiB page than `pc` that a fetch at `a` finds unmapped or not executable. -/
def State.unreached (s : State) (gr : Group) (pc a : W64) : State × Option (Byte × Byte) :=
  if pc.toNat / 65536 == a.toNat / 65536 then (s, none)
  else match s.fetch gr a with
    | (s, .fault c sub) => (s, some (c, sub))
    | (s, _) => (s, none)

/-- A frontier entry's notice: 64 cycles from its arrival at a PN header, once for each arrival (R55). -/
def Thread.notify (t : Thread) (h : Nat) : Thread :=
  if bit h 19 && t.notice != some t.pos.pc then { t with noticeLeft := 64, notice := some t.pos.pc } else t

/-- What a thread's part of a cycle brings about for its group once every thread has had its part: the group's save for a page,
or a debugger's hold of a scope. What ends the group comes before both, and a save before a hold (R123). -/
inductive Halt where
  | page (g : Nat) (base : W64) (size : Nat) (absent : Bool)
  | hold (g scope : Nat)
  deriving DecidableEq, Repr

/-- A thread that stands before a header arrives there: framing, the first word's address, notice, the open batch, the
fields. -/
def State.arriveHeader (s : State) (e : Env) : State × List Halt :=
  match s.fetch e.gr e.t.pos.pc with
  | (s, .page b z a) => (s, [.page e.g b z a])
  | (s, .fault c sub) => (s.deliver e.g e.tid ⟨c, sub, e.t.pos.pc, e.t.last, e.t.pos, false⟩, [])
  | (s, .ok h) =>
    match headerSub h with
    | some sub => (s.deliver e.g e.tid ⟨0x02, sub, 0, e.t.pos.pc, e.t.pos, false⟩, [])
    | none =>
      match s.unreached e.gr e.t.pos.pc (e.t.pos.pc + 4) with
      | (s, some (c, sub)) => (s.faultAt e c sub (e.t.pos.pc + 4), [])
      | (s, none) =>
        let s := s.modThread e.g e.tid fun t => t.notify h
        let closes := bits h 13 3 != 7
        if closes && e.warp.cannotClose then (s, [])
        else
          let s := (if closes then s.closeBatch e.g (warpOf e.tid) else s).retireOps e.g
          match s.envAt e.g e.tid 0 with
          | none => (s, [])
          | some e => (s.tryHeader e h, [])

/-! ### The ends of waits (R130) -/

/-- A thread has reached the convergent word of `t`: it stands there under the same key, RUNNABLE or waiting. -/
def Thread.reached (t u : Thread) : Bool :=
  u.key == t.key && u.pos.left != 0 && u.dueLate.isNone && (u.run == .runnable || u.atConverge)

/-- Every live thread of the warp has reached the convergent word of `t` (R140). -/
def Group.convergesAt (g : Group) (t : Thread) : Bool := (g.liveIn (warpOf t.tid)).all t.reached

/-- A thread's stores and atomics to a physical page that are not performed (R233). -/
def State.aliasPending (s : State) (g tid page b node : Nat) : Bool :=
  s.accs.any fun x => x.grp == g && x.tid == tid && x.level == .global && x.kind.writes && x.node == node
    && x.pas.any fun p => p / 2 ^ b == page

/-- What a thread waits on may be over. A failure that may reach the thread comes first: the thread is at the boundary before
its word (R175, R294). -/
def State.wakeThread (s : State) (g tid : Nat) : State :=
  match s.envAt g tid 0 with
  | none => s
  | some e =>
    let freed := fun (s : State) => s.modThread g tid Thread.freed
    let expired := fun (lim : Nat) => if lim ≤ s.time then s.later (.mwaitTimeout g tid) else s
    if e.t.dueLate.isSome then s
    else match e.t.run with
    | .waiting (.counters w) =>
      if w.met e.warp && !e.gr.owes tid w then s.retire e { e.t.found e.warp w with run := .runnable } 1 else s
    | .waiting (.header _) => s.tryHeader e e.t.pos.hdr.toNat
    | .waiting .fence => if s.pending g tid then s else freed s
    | .waiting (.aliased page b node) => if s.aliasPending g tid page b node then s else freed s
    | .waiting (.monitor lim) =>
      if (e.t.monitor.bind Monitor.code).isSome || e.t.monitor.isNone then freed s
      else (lim.map expired).getD s
    | .waiting .haltg => if e.gr.targets.all s.targetHalted then freed s else s
    | .stopped (some (.monitor (some lim))) => expired lim
    | _ => s

/-- MWAIT's limit has passed: wake code 7, whatever holds its group; the thread goes on when its group issues (R130, R218,
R220). -/
def execMwaitTimeout (grp : Nat) (tid : Nat) (s : State) : Host.Outcome State Fault Refusal :=
  .next (match s.thread? grp tid with
    | none => s
    | some t =>
      let expired := match t.run with
        | .waiting (.monitor (some lim)) => decide (lim ≤ s.time)
        | .stopped (some (.monitor (some lim))) => decide (lim ≤ s.time)
        | _ => false
      if !expired then s
      else s.modThread grp tid fun t =>
        { t with
          monitor := t.monitor.map (Monitor.wake · s.time 7)
          run := match t.run with
            | .waiting _ => if ((s.group? grp).map Group.runs).getD false then .runnable else t.run
            | r => r })

/-- The 64 cycles after a notice are over (R55); a group that does not issue keeps its threads as they are (R130). -/
def execNoticeExpiry (grp : Nat) (tid : Nat) (s : State) : Host.Outcome State Fault Refusal :=
  .next (if ((s.group? grp).map Group.runs).getD false then
      s.modThread grp tid fun t => { (if t.waitsOn .notice then t.freed else t) with noticeLeft := 0 }
    else s)

/-- The 16 cycles after a YIELD are over (R143). -/
def execYieldExpiry (grp : Nat) (tid : Nat) (s : State) : Host.Outcome State Fault Refusal :=
  .next (s.modThread grp tid fun t => { t with yieldLeft := 0 })

/-! ### The delivery of late faults -/

def execDeferredFaultDelivery (grp : Nat) (tid : Nat) (s : State) : Host.Outcome State Fault Refusal :=
  .next (s.faultFirst grp tid)

/-! ### Address breakpoints (R358) -/

/-- The armed breakpoint of a context at an address that holds no header (R357), with its scope. -/
def State.breakpointAt (s : State) (gr : Group) (pc : W64) : Option (Nat × Nat) :=
  let ctx := gr.ctx
  match (s.fetch gr pc).2 with
  | .ok w => if isHeader w then none else
  ((List.range 16).filterMap fun k =>
    let p := s.port (k / 8)
    let c := (Tbl.get 0 p.dbpc (k % 8)).toNat
    if bit c 31 && bits c 12 12 == ctx && (Tbl.get 0 p.dbpa (k % 8)).toNat / 4 == pc.toNat / 4 then
      some (k % 8, bits c 10 2) else none).head?
  | _ => none

/-- A thread stops before the word an armed breakpoint names; the scope's hold is added once, after every thread that stops so in
the cycle (R358). -/
def State.breakBefore (s : State) (e : Env) (n scope : Nat) : State × List Halt :=
  let s := s.post e.gr.ctx
    (groupRec s e.gr e.k 0x70 (BitVec.ofNat 8 n) false false e.t.pos.pc 0 e.tid 0 (item 0 e.t.pos.pc.toNat))
  (s.modThread e.g e.tid fun t =>
    { t with run := .stopped none, skipBreak := true, stepping := false, yieldLeft := 0, part := none }, [.hold e.g scope])

/-! ### The threads of a core at the start of a cycle -/

/-- The threads of a group issue: it is RUNNING or DUMPING, awaits no page request and no record, in a context that runs (R84,
R91, R133, R271). -/
def State.issues (s : State) (gr : Group) : Bool :=
  gr.runs && ((s.ctx? gr.ctx).map fun c => c.st == .running).getD false

/-- The convergent words (R140). -/
def isConvergent : Instr → Bool
  | .vote _ _ _ => true
  | .cvtb _ _ _ _ => true
  | .widb _ _ _ _ => true
  | .xshf _ _ _ => true
  | .xshfw _ _ _ => true
  | .red _ _ _ => true
  | .scan _ _ _ _ => true
  | .permb _ _ _ _ => true
  | _ => false

/-- Where a thread goes when its word completes without a transfer, or by a return: the address fetched next (R146). -/
def nextFetch (e : Env) (i : Instr) : Option W64 :=
  let falls := e.t.pos.pc + BitVec.ofNat 64 (4 * wordsOf i)
  let taken := e.t.guard (guardOf i)
  if (e.t.rep.map fun r => decide (r.iter + 1 < r.count)).getD false then none
  else match i with
    | .bra _ _ => if taken then none else some falls
    | .brx _ _ => if taken then none else some falls
    | .call _ _ => if taken then none else some falls
    | .callx _ _ => if taken then none else some falls
    | .exit _ => if taken then none else some falls
    | .ret _ => if taken then e.t.stack.head?.map Pos.pc else some falls
    | .rft => e.t.handler.bind fun h => if h.moved then none else some h.saved.pc
    | .trap _ => none
    | .bkpt _ => none
    | .rep c _ _ => if c = 0#8 then some (falls + 4) else none
    | _ => some falls

/-- The fault of the fetch that a word leads to (R146). -/
def State.leadsOn (s : State) (e : Env) (i : Instr) : State × Option (Byte × Byte × W64) :=
  match nextFetch e i with
  | none => (s, none)
  | some a =>
    match s.unreached e.gr e.t.pos.pc a with
    | (s, some (c, sub)) => (s, some (c, sub, a))
    | (s, none) => (s, none)

/-- An MWAIT whose monitor is armed and not woken, with its limit: the thread that reaches it waits (R130, R220). -/
def State.mwaits (s : State) (e : Env) : Instr → Option (Option Nat)
  | .mwait d a t =>
    match e.t.monitor with
    | some m =>
      let us := (e.t.getX a).toNat
      if m.code.isSome || s.depStall e (.mwait d a t) then none
      else if t = 0#1 then some none
      else if us == 0 then none
      else some (some (s.time + 1000 * us))
    | none => none
  | _ => none

/-- A RUNNABLE thread's breakpoint may stop it, its clause hold back its MMA, its MWAIT begin. A word at which it waits before it
issues has no fault of its own, and takes the fault of the fetch it leads to first (R146). -/
def State.prepWord (s : State) (e : Env) : State × List Halt :=
  let attached := ((s.ctx? e.gr.ctx).bind Ctx.debug).isSome
  let first := ((e.t.rep.map Rep.iter).getD 0) == 0
  match (if attached && !e.t.skipBreak && first then s.breakpointAt e.gr e.t.pos.pc else none) with
  | some (n, scope) => s.breakBefore e n scope
  | none =>
    match s.look e with
    | (_, .word i) =>
      if (checkWord i e.k).isSome then (s, [])
      else if e.t.noticeLeft != 0 && bit e.t.pos.hdr.toNat 19 && isMma i then (s.waitAt e .notice, [])
      else
        let wait := s.mwaits e i
        if !isConvergent i && wait.isNone then (s, [])
        else match s.leadsOn e i, wait with
          | (s, some (c, sub, a)), _ => (s.faultAt e c sub a, [])
          | (s, none), some (some lim) => (s.awaitUntil e lim, [])
          | (s, none), some none => (s.waitAt e (.monitor none), [])
          | (s, none), none => (s, [])
    | _ => (s, [])

/-- A thread that stands at a convergent word waits there until every live thread of its warp has reached it, and goes on
when they have (R130, R140). -/
def State.reachThread (s : State) (g tid : Nat) : State :=
  match s.envAt g tid 0 with
  | none => s
  | some e =>
    let freed := fun (s : State) => s.modThread g tid Thread.freed
    if !e.gr.runs || e.t.dueLate.isSome || e.t.pos.left == 0 then s
    else if e.t.atConverge then (if e.gr.convergesAt e.t then freed s else s)
    else if e.t.run != .runnable then s
    else match (s.look e).2 with
      | .word i =>
        if isConvergent i && (checkWord i e.k).isNone && !e.gr.convergesAt e.t then s.waitAt e .converge else s
      | _ => s

def State.reachThreads (s : State) (g : Nat) : List Nat → State
  | [] => s
  | t :: ts => State.reachThreads (s.reachThread g t) g ts

/-- One thread's part of a cycle before selection: its wait may end, a late fault comes first, then a header, then what may
keep its word back (R131). -/
def State.prepThread (s : State) (g tid : Nat) : State × List Halt :=
  let late := fun (s : State) => (s.later (.deferredFaultDelivery g tid), ([] : List Halt))
  if !((s.group? g).map Group.runs).getD false then (s, [])
  else
    let s := s.wakeThread g tid
    match s.envAt g tid 0 with
    | none => (s, [])
    | some e =>
      if e.t.dueLate.isSome then late s
      else if e.t.run != .runnable then (s, [])
      else if e.t.pos.left == 0 then
        let (s, hs) := s.arriveHeader e
        match s.thread? g tid, s.envAt g tid 0 with
        | some t, some e =>
          if !hs.isEmpty then (s, hs)
          else if t.dueLate.isSome then late s
          else if e.t.run == .runnable && e.t.pos.left != 0 then s.prepWord e
          else (s, [])
        | _, _ => (s, hs)
      else s.prepWord e

def State.prepThreads (s : State) (g : Nat) : List Nat → State × List Halt
  | [] => (s, [])
  | t :: ts =>
    let (s, hs) := s.prepThread g t
    let (s, l) := State.prepThreads s g ts
    (s, hs ++ l)

/-- The resident groups of a core that issue, in turn. -/
def State.prepGroups (s : State) : List Nat → State × List Halt
  | [] => (s, [])
  | g :: gs =>
    match s.group? g with
    | none => State.prepGroups s gs
    | some gr =>
      if !s.issues gr || ((s.kernel? gr.kern).map fun k => s.recordHeld gr k).getD true then State.prepGroups s gs
      else
        let tids := gr.live.map Thread.tid
        let (s, hs) := (s.retireOps g).prepThreads g tids
        let (s, l) := State.prepGroups (s.reachThreads g tids) gs
        (s, hs ++ l)

/-- The saves, or with `holds` the holds, that the threads of a core have brought about. -/
def State.halts (s : State) (holds : Bool) : List Halt → State
  | [] => s
  | h :: hs =>
    let s := match h, holds with
      | .page g b z a, false => s.pageFault g b z needsFetch a
      | .hold g scope, true =>
        match s.group? g with
        | some gr =>
          let gs := s.scopeGroups g gr.ctx gr.kern scope
          (s.unenqAll gs).holdAll (.debugger scope) gs
        | none => s
      | _, _ => s
    State.halts s holds hs

/-! ### Frontier entries (R133, R136) -/

/-- What joins threads in one entry: equal keys; a stepped thread stands alone (R142). -/
def Thread.entryKey (t : Thread) : (W64 × Nat × Bool × Nat) × Option Nat := (t.key, if t.stepping then some t.tid else none)

def least : List Nat → Option Nat := List.min?

/-- The parts of some threads, one for each key. -/
def entryParts (ts : List Thread) : List (List Thread) :=
  ((ts.map Thread.entryKey).eraseDups).map fun k => ts.filter fun t => t.entryKey == k

/-- An entry of some threads of one key. -/
def entryOf (ts : List Thread) (age : Nat) (due : Option Nat) : Entry :=
  ⟨(ts.head?.map Thread.key).getD (0, 0, false, 0), ts.map Thread.tid, age, due⟩

/-- A warp's entries as its threads now stand: an entry whose threads have come to several keys is several; the part that
keeps the key keeps the age, a part with another key is created, at age 0 (R133). -/
def Group.splitWarp (g : Group) (n : Nat) (w : Warp) : Warp :=
  let ts := g.liveIn n
  let old := w.entries.flatMap fun x =>
    (entryParts (ts.filter fun t => x.tids.contains t.tid)).map fun p =>
      let e := entryOf p 0 none
      if e.key == x.key then { e with age := x.age, due := x.due } else e
  let new := (entryParts (ts.filter fun t => !w.entries.any fun x => x.tids.contains t.tid)).map fun p => entryOf p 0 none
  { w with entries := old ++ new }

/-- Regrouping joins the entries of equal keys; the greater age stays (R136). -/
def Group.regroupWarp (g : Group) (n : Nat) (w : Warp) : Warp :=
  let w := g.splitWarp n w
  { w with entries := (entryParts (g.liveIn n)).map fun p =>
      let from_ := w.entries.filter fun x => x.tids.any (p.map Thread.tid).contains
      entryOf p ((from_.map Entry.age).foldl max 0) (least (from_.filterMap Entry.due)) }

def Group.split (g : Group) : Group := { g with warps := mapVals (fun n w => g.splitWarp n w) g.warps }
def Group.regroup (g : Group) : Group := { g with warps := mapVals (fun n w => g.regroupWarp n w) g.warps }

/-- Bring the entries of a core's resident groups up to date with their threads. -/
def State.split (s : State) (core : Nat) : State :=
  s.mapGroups fun _ g => if g.core == core && g.st.resident then g.split else g

/-- Regroup the resident groups of a core. -/
def State.regroup (s : State) (core : Nat) : State :=
  s.mapGroups fun _ g => if g.core == core && g.st.resident then g.regroup else g

/-- The threads of some entry of a core reach a clause header in this cycle (R136). -/
def State.atHeader (s : State) (core : Nat) : Bool :=
  (s.residents core).any fun g => s.issues g.2 && g.2.live.any fun t => t.run == .runnable && t.pos.left == 0

def execRegroup (core : Fin 1024) (s : State) : Host.Outcome State Fault Refusal := .next (s.regroup core)

/-! ### Selection (R134, R135) -/

/-- An entry as its slot ranks it: `ready` are the threads that may issue. -/
structure Cand where
  grp : Nat
  warp : Nat
  idx : Nat
  place : Nat
  tids : List Nat
  ready : List Nat
  age : Nat
  due : Option Nat
  rank : Nat
  pc : W64
  depth : Nat
  deriving DecidableEq, Repr

/-- A thread that may issue its word in this cycle. -/
def Thread.ready (t : Thread) : Bool := t.run == .runnable && t.pos.left != 0 && t.dueLate.isNone

/-- A warp with a thread that waits at a barrier or a convergent word: its entries are lifted. -/
def Group.lifted (g : Group) (w : Nat) : Bool :=
  (g.liveIn w).any fun t => match t.run with
    | .waiting (.barrier _) => true
    | .waiting (.rearrive _ _) => true
    | .waiting .converge => true
    | _ => false

/-- The effective priority of an entry. -/
def entryRank (agel age : Nat) (lifted : Bool) (ts : List Thread) : Nat :=
  if agel ≤ age then 9
  else if lifted then 8
  else if ts.any fun t => 0 < t.yieldLeft then 0
  else ((ts.head?.map fun t => bits t.pos.hdr.toNat 21 3).getD 0)

/-- The entries of one group. -/
def State.candsOf (s : State) (g : Nat) (gr : Group) : List Cand :=
  match s.kernel? gr.kern with
  | none => []
  | some k =>
    gr.warps.flatMap fun w => w.2.entries.zipIdx.filterMap fun x =>
      let ts := x.1.tids.filterMap fun t => Tbl.find? gr.threads t
      match ts with
      | [] => none
      | t :: _ => some ⟨g, w.1, x.2, w.2.place, x.1.tids,
          if s.issues gr then (ts.filter Thread.ready).map Thread.tid else [], x.1.age, x.1.due,
          entryRank k.agel x.1.age (gr.lifted w.1) ts, t.pos.pc, t.stack.length⟩

/-- The entries of a core. -/
def State.cands (s : State) (core : Nat) : List Cand := (s.residents core).flatMap fun g => s.candsOf g.1 g.2

/-- The order of R134: first the highest priority; due entries in their order, the others by age, place, PC and depth. Entries
equal in all of these, which differ in handler flag or iteration, stand in the order of their warp's list (DESIGN CHOICE, log
21). -/
def Cand.order (c : Cand) : List Nat :=
  [9 - c.rank, if c.rank == 9 then c.due.getD 0 else 4096 - c.age, c.place, c.pc.toNat, c.depth]

def bestCand : List Cand → Option Cand
  | [] => none
  | c :: cs =>
    match bestCand cs with
    | none => some c
    | some d => if lexLe c.order d.order then some c else some d

/-- The entry that a slot selects among its selectable ones: after a clause with a yield hint it prefers another warp of
equal effective priority (R53). -/
def selectCand (yielded : Option Nat) (cs : List Cand) : Option Cand :=
  match bestCand cs with
  | none => none
  | some c =>
    if yielded == some c.place then
      some ((bestCand (cs.filter fun d => d.rank == c.rank && d.place != c.place)).getD c)
    else some c

/-- Change an entry of a warp. -/
def State.modEntry (s : State) (c : Cand) (f : Entry → Entry) : State :=
  s.modGroup c.grp fun g => g.modWarp c.warp fun w =>
    { w with entries := w.entries.zipIdx.map fun x => if x.2 == c.idx then f x.1 else x.1 }

/-- The AGEL of an entry's kernel. -/
def State.agelOf (s : State) (c : Cand) : Nat :=
  (((s.group? c.grp).bind fun g => s.kernel? g.kern).map Kernel.agel).getD 4096

/-- The order in which entries that come due in one cycle join the slot's order: the highest age, the lowest warp position, PC
and depth (R134). -/
def State.dueOrder (s : State) (c : Cand) : List Nat := [4096 - min (s.agelOf c) (c.age + 1), c.place, c.pc.toNat, c.depth]

/-- Selectable entries that were passed over age by one; those that come due join the slot's order. -/
def State.ageCands (s : State) (core : Nat) : List Cand → State
  | [] => s
  | c :: cs =>
    let agel := s.agelOf c
    let age := min agel (c.age + 1)
    if age == agel && c.due.isNone then
      let k := s.core core
      State.ageCands ((s.setCore core { k with dueNext := k.dueNext + 1 }).modEntry c fun x =>
        { x with age := age, due := some k.dueNext }) core cs
    else State.ageCands (s.modEntry c fun x => { x with age := age }) core cs

/-! ### Charges (R348, R349) -/

def causeRunnable : Nat := 11

/-- The field a header or WAIT waits on: the first unmet. An MMA that waits for the ramp after EXACT is charged to RAIL
(R297). -/
def State.counterCause (s : State) (g : Nat) (gr : Group) (tid : Nat) (w : Waits) : Nat :=
  let wp := (Tbl.find? gr.warps (warpOf tid)).getD ⟨[], [], [], [], 0, 0, none, 0, []⟩
  if !under wp.lq w.l then 4
  else if !under wp.sq w.s then 5
  else if !under wp.cq w.c then 6
  else if !under wp.mq w.m then
    let c := s.core gr.core
    match c.tileq.find? fun o => o.grp == g && o.warp == warpOf tid with
    | some o => (match o.kind with | .mma _ _ _ _ _ _ _ _ _ => if s.time < c.ramp then 12 else 7 | _ => 7)
    | none => 7
  else 9

/-- The cause of a thread's wait. -/
def State.waitCause (s : State) (g : Nat) (gr : Group) (t : Thread) : Nat :=
  match t.run with
  | .waiting w =>
    match w with
    | .header w => s.counterCause g gr t.tid w
    | .counters w => s.counterCause g gr t.tid w
    | .notice => 12
    | .fence => if s.accs.any fun a => a.grp == g && a.tid == t.tid && a.kind.stores then 5 else 4
    | .aliased _ _ _ => 5
    | .barrier _ => 8
    | .rearrive _ _ => 8
    | .converge => 9
    | .monitor _ => 10
    | .haltg => 14
    | .sign _ => 9
    | .engine _ => causeRunnable
  | .stopped _ => 14
  | _ => causeRunnable

/-- The charge of an entry that is not selectable. -/
def State.idleCause (s : State) (c : Cand) : Nat :=
  match s.group? c.grp with
  | none => 1
  | some gr =>
    let ts := c.tids.filterMap fun t => Tbl.find? gr.threads t
    let halted := match gr.st with | .halted _ => true | _ => false
    if halted || ts.any Thread.isStopped then 14
    else if gr.ending.isSome then 11
    else if !s.issues gr || ts.any (fun t => t.dueLate.isSome) then 13
    else if !(s.cluster (clusterOf gr.core)).gate.up then 12
    else ((ts.head?.map fun t => s.waitCause c.grp gr t).getD 1)

/-- A charge to an entry. -/
def State.entryCharge (s : State) (c : Cand) (cause : Nat) : Charge :=
  match (s.group? c.grp).bind fun g => (s.kernel? g.kern).map fun k => (g, k) with
  | some (g, k) => ⟨g.ctx, k.id, c.pc, cause⟩
  | none => ⟨0, 0, 0, 1⟩

/-- The charge of a slot without any entry: to its warp of lowest position, or to nobody. -/
def State.emptyCharge (s : State) (core slot : Nat) : Charge :=
  let ws := (s.residents core).flatMap fun g => (Tbl.vals g.2.warps).filterMap fun w =>
    if w.place % 4 == slot then some (w.place, g.2) else none
  match ws.find? fun x => ws.all fun y => x.1 ≤ y.1 with
  | some (_, g) => ⟨g.ctx, ((s.kernel? g.kern).map Kernel.id).getD 0, 0, 1⟩
  | none => ⟨0, 0, 0, 1⟩

/-! ### The issue of a selected entry -/

/-- A cluster's slots are withheld for current in this cycle (R326, R327). -/
def State.throttled (s : State) (core : Nat) : State × Bool :=
  let (n, s) := s.free
  let k := s.cluster (clusterOf core)
  let cyc := (s.core core).cyc
  let off := (k.throttled && cyc % 2 == 1) || (Config.withheld n && cyc % 8 != 0)
  (if off then s.noteThrottle (dieOfCore core) else s, off)

/-- Threads of an entry with an operation to take again (R209, R211). -/
def againOf (gr : Group) (tids : List Nat) : Bool :=
  tids.any fun t => ((Tbl.find? gr.threads t).bind Thread.again).isSome

/-- The threads that issue with an entry's bundle: for a convergent word every live thread of the warp, as one act (R140). -/
def bundleTids (gr : Group) (c : Cand) (i : Instr) : List Nat :=
  if isConvergent i then (gr.liveIn c.warp).map Thread.tid else c.ready

/-- The address a plain global access of a thread names, where its guard holds. -/
def globalVa (t : Thread) : Instr → Option Nat
  | .ldG _ a _ _ g => if t.guard g then some (t.getX2 a).toNat else none
  | .stG _ a _ _ g => if t.guard g then some (t.getX2 a).toNat else none
  | _ => none

/-- The threads that the first pass of a bundle serves: those of the first 16 segments of 256 bytes (R210, R211). -/
def firstPass (gr : Group) (i : Option Instr) (tids : List Nat) : List Nat :=
  match i with
  | none => tids
  | some i =>
    let seg := fun (t : Nat) => ((Tbl.find? gr.threads t).bind fun th => globalVa th i).map (· / 256)
    let segs := (((tids.filterMap seg).mergeSort (· ≤ ·)).eraseDups).take 16
    tids.filter fun t => match seg t with | some x => segs.contains x | none => true

/-- The sectors that the threads of a plain load reach, in rising order. -/
def loadLines (gr : Group) (i : Option Instr) (tids : List Nat) : List Nat :=
  match i with
  | some (.ldG d a z h g) =>
    (((tids.filterMap fun t => (Tbl.find? gr.threads t).bind fun th => globalVa th (.ldG d a z h g)).map (· / 64)).mergeSort
      (· ≤ ·)).eraseDups
  | _ => []

/-- The sectors that the L1 of a group's core awaits, with those that the bundles selected before in this cycle will take
entries for (R210). -/
def State.willAwait (s : State) (sel : List Bundle) (core : Nat) : List (Nat × Nat) :=
  (s.awaited core ++ sel.flatMap fun b =>
    match s.group? b.grp with
    | some gr => if gr.core == core then
        ((loadLines gr b.word b.now).filter fun l => s.misses core gr.ctx l).map fun l => (gr.ctx, l) else []
    | none => []).eraseDups

/-- The threads that the next pass of a bundle serves: those of its first 16 segments whose sectors are held, awaited, or find a
free miss-status entry, in rising order (R210, R211). A store takes none: it writes through (DEDUCED, log 26). -/
def State.passOf (s : State) (sel : List Bundle) (gr : Group) (i : Option Instr) (tids : List Nat) : List Nat :=
  let first := firstPass gr i tids
  let held := s.willAwait sel gr.core
  let fresh := fun (l : Nat) => s.misses gr.core gr.ctx l && !held.contains (gr.ctx, l)
  let served := ((loadLines gr i first).filter fresh).take (256 - held.length)
  first.filter fun t => (loadLines gr i [t]).all fun l => !fresh l || served.contains l

/-- The cause that keeps a selected entry from issuing; 0 where it issues, with its word if it could be read. `sel` are the
bundles that slots before have selected in this cycle. -/
def State.stall (s : State) (core : Nat) (sel : List Bundle) (c : Cand) : State × Nat × Option Instr :=
  let k := s.cluster (clusterOf core)
  match s.envAt c.grp (c.ready.headD 0) 0 with
  | none => (s, causeRunnable, none)
  | some e =>
    if !k.gate.up || s.time < k.changing then (s, 12, none)
    else if againOf e.gr c.ready then (s, 11, none)
    else
      let (n, s) := s.free
      let (s, off) := s.throttled core
      if !Config.fetched n then (s, 2, none)
      else match (s.look e).2 with
      | .word i =>
        let each := fun (f : Env → Bool) (t : Nat) => ((s.envAt c.grp t 0).map f).getD false
        let tids := bundleTids e.gr c i
        if tids.any (each fun e => s.depStall e i) then (s, 3, none)
        else if c.ready.any (each fun e => s.pipeStall sel e c.ready i) then (s, 11, none)
        else if (s.passOf sel e.gr (some i) tids).isEmpty then (s, 11, none)
        else (s, if off then 15 else 0, some i)
      | _ => (s, if off then 15 else if s.recordHeld e.gr e.k then 11 else 0, none)

/-- The 4-byte words of scratch that a thread's access reaches (R200). -/
def scratchWords (t : Thread) : Instr → List Nat
  | .ldS _ a z g => if t.guard g then words a z else []
  | .stS _ a z g => if t.guard g then words a z else []
  | _ => []
where
  words (a : BitVec 6) (z : BitVec 4) : List Nat :=
    (span ((t.getX a).toNat / 4) (max 1 (szBytes z / 4)))

/-- The passes beyond its first that a bundle needs: for different words of one of the 64 banks (R200); for deep scratch at the
thermal limit, where its bandwidth is halved, up to one more for each lane, a number the spec leaves open (R202, log 26). -/
def State.extraPasses (s : State) (gr : Group) (i : Instr) (tids : List Nat) : State × Nat :=
  let ts := tids.filterMap fun t => Tbl.find? gr.threads t
  let slow := fun (g : BitVec 6) =>
    let k := (ts.filter fun t => t.guard g).length
    if (s.die (dieOfCore gr.core)).therm && k != 0 then
      let (n, s) := s.free
      (s, Config.freeNat n % (k + 1))
    else (s, 0)
  match i with
  | .ldD _ _ _ g => slow g
  | .stD _ _ _ g => slow g
  | i =>
    let ws := (ts.flatMap fun t => scratchWords t i).eraseDups
    (s, ((List.range 64).map fun b => (ws.filter fun w => w % 64 == b).length).foldl max 0 - 1)

/-- The slot owes its bundle's extra passes. -/
def State.owePasses (s : State) (core slot grp : Nat) (pc : W64) (i : Option Instr) (tids : List Nat) : State :=
  match s.group? grp, i with
  | some gr, some i =>
    let (s, n) := s.extraPasses gr i tids
    if n == 0 then s
    else
      let k := s.core core
      let kern := ((s.kernel? gr.kern).map Kernel.id).getD 0
      s.setCore core { k with busy := Tbl.put k.busy slot ⟨gr.ctx, kern, pc, n⟩ }
  | _, _ => s

/-- The words whose key issues are counted for the samples (R354). -/
def countedWord : Instr → Bool
  | .ldG _ _ _ _ _ => true
  | .stG _ _ _ _ _ => true
  | .ldaCore _ _ _ _ _ => true
  | .ldaDev _ _ _ _ _ => true
  | .ldaSys _ _ _ _ _ => true
  | .stlCore _ _ _ _ _ => true
  | .stlDev _ _ _ _ _ => true
  | .stlSys _ _ _ _ _ => true
  | .atomCore _ _ _ _ _ => true
  | .atomDev _ _ _ _ _ => true
  | .atomSys _ _ _ _ _ => true
  | .redaDev _ _ _ _ => true
  | .redaSys _ _ _ _ => true
  | _ => false

/-- A key issue of a counted word on a core: the 2^LOG2-th since the last sample is sampled (R354). -/
def State.countKey (s : State) (b : Bundle) (gr : Group) (i : Instr) (num : Nat) : State :=
  let c := s.core gr.core
  if !bit s.mgmt.spctl.toNat 5 then s
  else if c.sample + 1 < 2 ^ bits s.mgmt.spctl.toNat 0 5 then s.setCore gr.core { c with sample := c.sample + 1 }
  else
    { s.setCore gr.core { c with sample := 0 } with
      samples := s.samples ++ [Sample.mk num b.grp b.warp gr.ctx gr.core b.pc s.time (((s.kernel? gr.kern).map Kernel.id).getD 0)
        gr.lin ((encode i).headD 0 / 2 ^ 24) [] [] [] none 0 0 s.time] }

/-- A bundle opens a key issue for its threads that have no part in one: every RUNNABLE thread of its warp with their key that
has not issued the word has part in it, in whatever bundle it issues (R353, R354). A replay opens none. -/
def State.openKey (s : State) (b : Bundle) (gr : Group) (num : Nat) : State :=
  let free := fun (t : Thread) => t.part.isNone && t.again.isNone
  match b.word, (b.tids.filterMap (Tbl.find? gr.threads)).find? free with
  | some i, some t =>
    let mark := match i with | .acmark _ => true | _ => false
    if !mark && !countedWord i then s
    else
      let mine := ((gr.liveIn b.warp).filter fun u => u.run == .runnable && u.key == t.key && free u).map Thread.tid
      let s := s.modGroup b.grp fun g => g.mapThreads fun u => if mine.contains u.tid then { u with part := some num } else u
      if mark then s else s.countKey b gr i num
  | _, _ => s

/-- The threads of a bundle issue under one operation number; those of later passes take the word again. -/
def State.issueBundle (s : State) (b : Bundle) : State :=
  match s.group? b.grp with
  | none => s
  | some gr =>
    let (op, s) := s.free
    let s := s.openKey b gr op
    let exits := match b.word with | some (.exit _) => true | _ => false
    let legal := (s.kernel? gr.kern).any fun k => b.word.any fun i => (checkWord i k).isNone
    let issue := fun (t : Nat) => (Tbl.find? gr.threads t).map fun th => Issue.mk b.grp t (th.again.getD op) b.pc.toNat
      (legal && exits && th.guard ((b.word.map guardOf).getD 31)) (if legal then b.word.bind cvOf else none)
    let s := { s with issuing := s.issuing ++ b.now.filterMap issue }
    s.modGroup b.grp fun g => g.mapThreads fun t =>
      if b.tids.contains t.tid && !b.now.contains t.tid then { t with again := some (t.again.getD op), pass := true } else t

/-- The words that act after the others of their cycle: exits after signatures, then what both may read (R287, R293). -/
def lateClass : Option Instr → Nat
  | some (.exit _) => 1
  | some (.cvdecl _ _ _) => 2
  | some (.swr _ _) => 2
  | some (.barcfg _ _) => 2
  | some (.ckm _) => 2
  | some (.tcfg _ _) => 2
  | _ => 0

/-- A bundle in the order of its cycle: tile words by slot (R291), the others by group (R128), and of one group by warp, so in
the order of their TIDs: of several writes of one group's state the highest TID's stays (R42, R167, R244, R305, R307). -/
def State.bundleOf (s : State) (sel : List Bundle) (grp warp place : Nat) (pc : W64) (i : Option Instr) (tids : List Nat) :
    Bundle :=
  let tile := (i.bind signClass) == some 3
  ⟨[lateClass i, if tile then place % 4 else 4, ((s.group? grp).map Group.lin).getD 0, grp, warp], grp, warp, i, pc, tids,
    ((s.group? grp).map fun gr => s.passOf sel gr i tids).getD tids⟩

def State.issueBundles (s : State) : List Bundle → State
  | [] => s
  | b :: bs => State.issueBundles (s.issueBundle b) bs

/-- What the cycle has selected on every core issues, in the cycle's order. -/
def State.releaseSelected (s : State) : State :=
  State.issueBundles { s with selected := [] } (s.selected.mergeSort fun x y => lexLe x.order y.order)

/-- The next pass of an entry's replayed lanes, in the first 16 of their segments, with the bank passes it owes (R200, R211). It is
counted in the record of a sampled word, but for lanes that a page had kept back (R209, R355). -/
def State.replayEntry (s : State) (sel : List Bundle) (grp : Nat) (tids : List Nat) : State × List Bundle :=
  match s.group? grp with
  | none => (s, sel)
  | some gr =>
    match (tids.filterMap (Tbl.find? gr.threads)).filter fun t => t.ready && t.again.isSome with
    | [] => (s, sel)
    | t :: ts =>
      match s.envAt grp t.tid 0 with
      | none => (s, sel)
      | some e =>
        let word := match (s.look e).2 with | .word i => some i | _ => none
        let lanes := (t :: ts).map Thread.tid
        let s := { s with samples := s.samples.map fun (m : Sample) =>
          if (t :: ts).any fun u => u.pass && u.part == some m.num then { m with passes := m.passes + 1 } else m }
        (s.owePasses gr.core (e.warp.place % 4) grp t.pos.pc word lanes,
          sel ++ [s.bundleOf sel grp (warpOf t.tid) e.warp.place t.pos.pc word lanes])

/-- One slot's cycle: it goes on with the passes of its last bundle, or selects, charges, and issues or stalls. -/
def State.slotCycle (s : State) (core slot : Nat) (all : List Cand) (sel : List Bundle) : State × List Bundle :=
  let cs := all.filter fun c => c.place % 4 == slot
  let able := cs.filter fun c => !c.ready.isEmpty
  let charge := fun (s : State) (q : Charge) =>
    let k := s.core core
    s.setCore core { k with charges := k.charges ++ [q] }
  let late := fun (s : State) (cs : List Cand) =>
    s.ageCands core (cs.mergeSort fun x y => lexLe (s.dueOrder x) (s.dueOrder y))
  match Tbl.find? (s.core core).busy slot with
  | some b =>
    let k := s.core core
    let s := s.setCore core { k with
      busy := if b.left ≤ 1 then Tbl.erase k.busy slot else Tbl.put k.busy slot { b with left := b.left - 1 } }
    (late (charge s ⟨b.ctx, b.kern, b.pc, 11⟩) able, sel)
  | none =>
  match selectCand (Tbl.find? (s.core core).yh slot) able with
  | some c =>
    let (s, cause, i) := s.stall core sel c
    let s := charge s (s.entryCharge c cause)
    let s := late s (able.filter (· != c))
    let replays := ((s.group? c.grp).map fun gr => (againOf gr c.ready)).getD false
    if cause == 11 && replays then s.replayEntry sel c.grp c.tids
    else if cause == 0 then
      let k := s.core core
      let s := s.setCore core { k with yh := Tbl.erase k.yh slot }
      let tids := match s.group? c.grp, i with
        | some gr, some i => bundleTids gr c i
        | _, _ => c.ready
      let s := s.owePasses core slot c.grp c.pc i tids
      (s.modEntry c fun x => { x with age := 0, due := none }, sel ++ [s.bundleOf sel c.grp c.warp c.place c.pc i tids])
    else (s, sel)
  | none =>
    match bestCand cs with
    | some c => (charge s (s.entryCharge c (s.idleCause c)), sel)
    | none =>
      let gated := (s.cluster (clusterOf core)).gate == .gated
      (charge s (if gated then ⟨0, 0, 0, 1⟩ else s.emptyCharge core slot), sel)

/-- The four slots in turn. -/
def State.slotCycles (s : State) (core : Nat) (all : List Cand) (sel : List Bundle) : List Nat → State × List Bundle
  | [] => (s, sel)
  | q :: qs =>
    let (s, sel) := s.slotCycle core q all sel
    State.slotCycles s core all sel qs

/-! ### Replay passes (R211) -/

/-- A slot's pass over a warp's replayed lanes from the event itself: those of the lane of lowest TID, and of its entry. -/
def execLaneReplay (grp : Nat) (warp : Nat) (s : State) : Host.Outcome State Fault Refusal :=
  .next (match s.group? grp with
    | none => s
    | some gr =>
      if !s.issues gr then s
      else
        let lanes := (gr.liveIn warp).filter fun t => t.ready && t.again.isSome
        let (t, sel) := s.replayEntry (s.selected.filter fun b => ((s.group? b.grp).map Group.core) == some gr.core) grp
          ((lanes.filter fun u => some u.entryKey == lanes.head?.map Thread.entryKey).map Thread.tid)
        { t with selected := s.selected ++ sel.filter fun b => !s.selected.contains b })

/-! ### Waits that cannot end (R141, R248, R393) -/

/-- The gathering registers a held thread waits on at a header or WAIT. -/
def Group.heldSets (g : Group) (tid : Nat) (w : Waits) : List Nat :=
  (List.range 8).filter fun n =>
    let c := g.cv n
    c.st == .gathering && c.signed.contains tid && ((c.word.bind signClass).map fun k => w.field k != 7).getD false

/-- A live thread counts as RUNNABLE or STOPPED; `mon`: how an MWAIT counts; `good`: the sets that have a member which
counts (R393). -/
def Group.counts (g : Group) (mon : Bool) (good : List Nat) (t : Thread) : Bool :=
  match t.run with
  | .runnable => true
  | .stopped _ => true
  | .exited => false
  | .waiting w =>
    match w with
    | .header w => (g.heldSets t.tid w).all good.contains
    | .counters w => (g.heldSets t.tid w).all good.contains
    | .sign n => good.contains n
    | .engine n => good.contains n
    | .notice => true
    | .fence => true
    | .aliased _ _ _ => true
    | .haltg => true
    | .monitor _ => mon
    | .barrier _ => false
    | .rearrive _ _ => false
    | .converge => false

/-- The sets whose operation has issued, so that its end frees whom it holds, or that have an unsigned member which counts, by
applying R393's row again and again. -/
def Group.goodSets (g : Group) (mon : Bool) : Nat → List Nat
  | 0 => []
  | k + 1 =>
    let good := Group.goodSets g mon k
    (List.range 8).filter fun n =>
      let c := g.cv n
      (c.st == .gathering && c.full) || c.members.any fun m => !c.signed.contains m &&
        ((Tbl.find? g.threads m).map fun t => g.counts mon good t).getD false

/-- R393's count for R141 (`mon` false) and R248 (`mon` true). -/
def Group.countsAs (g : Group) (mon : Bool) (t : Thread) : Bool := g.counts mon (g.goodSets mon 9) t

/-- The sub-code of R141 for a sibling, where it waits for good. -/
def mismatchSub (key : W64 × Nat × Bool × Nat) (u : Thread) : Option Byte :=
  match u.run with
  | .waiting .converge => if u.key == key then none else some 1
  | .waiting (.barrier _) => some 2
  | .waiting (.rearrive _ _) => some 2
  | .waiting (.monitor _) => some 3
  | .waiting _ => some 4
  | _ => none

/-- A warp's convergent words can never be executed: some thread waits at one, and no sibling can still come. -/
def Group.mismatched (g : Group) (w : Nat) : Bool :=
  let ts := g.liveIn w
  let at_ := ts.filter Thread.atConverge
  match at_ with
  | [] => false
  | t :: _ => !g.converged t && ts.all fun u => u.atConverge || !g.countsAs false u

/-- Deliver one fault to each of some threads. -/
def State.deliverAll (s : State) (g : Nat) : List (Nat × Raised) → State
  | [] => s
  | (t, f) :: l => State.deliverAll (s.deliver g t f) g l

/-- CONVERGE_MISMATCH for every waiter of a warp (R141). -/
def execConvergeMismatch (grp : Nat) (warp : Nat) (s : State) : Host.Outcome State Fault Refusal :=
  .next (match s.group? grp with
    | none => s
    | some gr =>
      if !gr.runs || !gr.mismatched warp then s
      else
        let ts := gr.liveIn warp
        s.deliverAll grp ((ts.filter Thread.atConverge).filterMap fun t =>
          ((ts.filter fun u => u.tid != t.tid).filterMap (mismatchSub t.key)).head?.map fun sub =>
            (t.tid, ⟨0x32, sub, 0, t.pos.pc, t.pos, false⟩)))

/-- The barrier a thread waits at. -/
def Thread.atBarrier (t : Thread) : Option Nat :=
  match t.run with
  | .waiting (.barrier b) => some b
  | .waiting (.rearrive b _) => some b
  | _ => none

/-- A group's barriers are in deadlock (R248). -/
def Group.deadlocked (g : Group) : Bool :=
  g.runs && g.live.any (fun t => t.atBarrier.isSome) && !(g.live.any fun t => g.countsAs true t)
    && !g.warps.any fun w => g.mismatched w.1

/-- A thread's arrival at a barrier is withdrawn. -/
def Group.withdraw (g : Group) (tid b : Nat) : Group := g.setBar b { g.bar b with pend := (g.bar b).pend.filter (· != tid) }

/-- BARRIER_MISMATCH 0x01 for every thread that waits at a barrier (R248). -/
def execBarrierDeadlock (grp : Nat) (s : State) : Host.Outcome State Fault Refusal :=
  .next (match s.group? grp with
    | none => s
    | some gr =>
      if !gr.deadlocked then s
      else
        let ws := gr.live.filterMap fun t => t.atBarrier.map fun b => (t, b)
        let s := s.modGroup grp fun g => ws.foldl (fun g w => g.withdraw w.1.tid w.2) g
        s.deliverAll grp (ws.map fun w =>
          (w.1.tid, ⟨0x33, 1, BitVec.ofNat 64 w.2, w.1.pos.pc, w.1.pos, false⟩)))

/-- Queue what the waits of a group have come to. -/
def State.judge (s : State) (g : Nat) (gr : Group) : State :=
  match (gr.warps.map Prod.fst).filter gr.mismatched with
  | [] => if gr.deadlocked then s.later (.barrierDeadlock g) else s
  | ws => ws.foldl (fun s w => s.later (.convergeMismatch g w)) s

def State.judgeAll (s : State) : List Nat → State
  | [] => s
  | g :: gs =>
    match s.group? g with
    | none => State.judgeAll s gs
    | some gr => State.judgeAll (if s.issues gr then s.judge g gr else s) gs

/-! ### The end of a cycle -/

/-- Count down a thread's notice and YIELD; the last cycle of each ends in a step of its own. -/
def State.tickThread (s : State) (g tid : Nat) : State :=
  match s.thread? g tid with
  | none => s
  | some t =>
    if t.noticeLeft == 0 && t.yieldLeft == 0 then s
    else
      let s := if t.noticeLeft == 1 then s.later (.noticeExpiry g tid) else s
      let s := if t.yieldLeft == 1 then s.later (.yieldExpiry g tid) else s
      s.modThread g tid fun t => { t with
        noticeLeft := if t.noticeLeft ≤ 1 then t.noticeLeft else t.noticeLeft - 1
        yieldLeft := if t.yieldLeft ≤ 1 then t.yieldLeft else t.yieldLeft - 1 }

def State.tickThreads (s : State) (g : Nat) : List Nat → State
  | [] => s
  | t :: ts => State.tickThreads (s.tickThread g t) g ts

/-- A group that does not issue keeps its threads as they are (R130). -/
def State.tickGroups (s : State) : List Nat → State
  | [] => s
  | g :: gs =>
    State.tickGroups (s.tickThreads g (((s.group? g).map fun gr =>
      if gr.runs then gr.threads.map Prod.fst else []).getD [])) gs

/-- One cycle of a core (R132, R134, R348). What its threads issue runs next, one thread after another. -/
def State.cycle (s : State) (core : Nat) : State :=
  if s.oasisLost || (s.die (dieOfCore core)).lost then s
  else
    let s := (s.settle core).slipTake core
    let s := if core % 8 == 0 then s.gateTick (clusterOf core) else s
    let s := s.endSamples ((s.samples.filter fun m => m.core == core).map Sample.num)
    let gs := (s.residents core).map Prod.fst
    let up := (s.cluster (clusterOf core)).gate.up
    let header := up && s.atHeader core
    let (s, hs) := if up then s.prepGroups gs else (s, [])
    let s := (s.halts false hs).halts true hs
    let s := if header then s.regroup core else s.split core
    let (s, sel) := s.slotCycles core (s.cands core) [] [0, 1, 2, 3]
    let s := { s with selected := s.selected ++ sel }
    (s.judgeAll gs).tickGroups gs

def execSlotCycle (core : Fin 1024) (s : State) : Host.Outcome State Fault Refusal := .next (s.cycle core)

/-! ### The hang watchdog (R126, R127) -/

/-- A thread could issue: it stands in a selectable entry, stalled neither on an operand nor on a full queue. The entry is
judged as it would issue, with all its ready threads (R126, R133). -/
def State.couldIssue (s : State) (g : Nat) (gr : Group) (t : Thread) : Bool :=
  t.ready && s.issues gr &&
    let w := warpOf t.tid
    let mates := ((gr.liveIn w).filter fun u => u.ready && u.entryKey == t.entryKey).map Thread.tid
    let each := fun (f : Env → Bool) (u : Nat) => ((s.envAt g u 0).map f).getD false
    match s.envAt g t.tid 0 with
    | none => false
    | some e =>
      match (s.look e).2 with
      | .word i =>
        let all := if isConvergent i then (gr.liveIn w).map Thread.tid else mates
        !all.any (each fun e => s.depStall e i) && !mates.any (each fun e => s.pipeStall [] e mates i)
          && !(s.passOf [] gr (some i) all).isEmpty
      | _ => !s.recordHeld e.gr e.k

/-- The threads a barrier still expects. -/
def Group.missing (g : Group) (b : Nat) : List Thread :=
  g.live.filter fun t => (g.bar b).wmask.getLsbD (warpOf t.tid) && !(g.bar b).pend.contains t.tid

/-- A thread held on a convergence set that counts as blocked (R393). -/
def Group.setBlocked (g : Group) (t : Thread) : Bool :=
  match t.run with
  | .waiting (.header _) => !g.countsAs true t
  | .waiting (.counters _) => !g.countsAs true t
  | .waiting (.sign _) => !g.countsAs true t
  | .waiting (.engine _) => !g.countsAs true t
  | _ => false

/-- The sub-code under which a group's count advances, if it is eligible. -/
def State.eligible (s : State) (g : Nat) (gr : Group) : Option Nat :=
  let held := ((s.kernel? gr.kern).map fun k => s.recordHeld gr k).getD true
  if held || gr.holds != [] || gr.live.any Thread.isStopped then none
  else if gr.live.any fun t => s.couldIssue g gr t then some 1
  else if gr.live.any fun t =>
      (t.atBarrier.map fun b => (gr.missing b).all fun u => s.couldIssue g gr u).getD false then some 2
  else if gr.live.any gr.setBlocked then some 3
  else none

/-- GWDLIM as it acts (R125). -/
def State.hangLimit (s : State) : Nat := if s.mgmt.gwdlim = 0 then 0 else max 64 s.mgmt.gwdlim.toNat

/-- A group's count at a µs boundary (R126). -/
def execWatchdogTick (grp : Nat) (s : State) : Host.Outcome State Fault Refusal :=
  .next (match s.group? grp with
    | none => s
    | some gr =>
      if !gr.runs then s.modGroup grp fun g => { g with active := false }
      else
        let s := if gr.active then s.modGroup grp fun g => { g with active := false, count := 0 }
          else match s.eligible grp gr with
            | some why => s.modGroup grp fun g => { g with count := g.count + 1, why := why }
            | none => s
        if s.hangLimit != 0 && ((s.group? grp).map fun g => decide (s.hangLimit ≤ g.count)).getD false then
          s.later (.watchdogExpiry grp)
        else s)

/-- The PC of the entry that would next issue in a warp. -/
def State.nextPc (s : State) (g : Nat) (gr : Group) (w : Nat) : W64 :=
  let cs := (s.candsOf g gr.regroup).filter fun c => c.warp == w
  match bestCand (cs.filter fun c => !c.ready.isEmpty) with
  | some c => c.pc
  | none => ((bestCand cs).map Cand.pc).getD 0

/-- WATCHDOG ends the group (R126). -/
def execWatchdogExpiry (grp : Nat) (s : State) : Host.Outcome State Fault Refusal :=
  .next (match (s.group? grp).bind fun gr => (s.kernel? gr.kern).map fun k => (gr, k) with
    | none => s
    | some (gr, k) =>
      if s.hangLimit == 0 || gr.count < s.hangLimit || !gr.runs then s
      else
        let tid := (gr.live.map Thread.tid).min?.getD 0
        let sub := BitVec.ofNat 8 gr.why
        s.endGroup grp
          (some (groupRec s gr k 0x60 sub true false (s.nextPc grp gr (warpOf tid)) 0 tid 0 (item 1 gr.lin))) 0x60 sub)

end Sys2Proof.Machine
end

