-- ==== Sys2Proof/Machine/Clock.lean ====
section
/-! DEFINITION. What happens next in the package (log 4): the threads the cycle has selected, the steps they caused, what comes
from outside, what the device does by itself as soon as it can, then the cycles of the cores, then time. -/

namespace Sys2Proof.Machine

/-! ### Events the device brings about -/

/-- The event does something: it changes more than what is cached and the counter of free values. -/
def State.moves (s : State) (o : Host.Outcome State Fault Refusal) : Bool :=
  match o with
  | .next t => { t with fresh := s.fresh, tlb := s.tlb, views := s.views } != s
  | .fault _ => true
  | .refused _ => true

/-- What an event that the device could bring about comes to. -/
def State.attempt (s : State) : Instr → Host.Outcome State Fault Refusal
  | .packetFinish p => execPacketFinish p s
  | .packetReady p => execPacketReady p s
  | .kernelLaunch p => execKernelLaunch p s
  | .copyPacketRun p => execCopyPacketRun p s
  | .packetConsume q => execPacketConsume q s
  | .evtReleaseApply c => execEvtReleaseApply c s
  | .gatingConfirm c => execGatingConfirm c s
  | .groupEnd g => execGroupEnd g s
  | .saveFrameWritten g => execSaveFrameWritten g s
  | .restoreComplete g => execRestoreComplete g s
  | .groupPlace c k l => execGroupPlace c k l s
  | .contextHalted c => execContextHalted c s
  | .stagingComplete c => execStagingComplete c s
  | .destroyComplete c => execDestroyComplete c s
  | .pageRequestWrite p => execPageRequestWrite p s
  | .eventRingWrite p => execEventRingWrite p s
  | .egressStallExpiry l => execEgressStallExpiry l s
  | .wadiDrained l => execWadiDrained l s
  | .spillTimeout l => execSpillTimeout l s
  | .lightHoldExpiry l w => execLightHoldExpiry l w s
  | .accessPerformed a d => execAccessPerformed a d s
  | .tileOpPerformed c o => execTileOpPerformed c o s
  | .commandComplete c => execCommandComplete c s
  | _ => .next s

/-- An event would do something now. -/
def State.enabled (s : State) (i : Instr) : Bool := s.moves (s.attempt i)

/-- The events of a packet, a group, a context, a port, a link port and a cluster. -/
def State.pktEvents (s : State) (p : Nat × Pkt) : List Instr :=
  [.packetFinish p.1, .packetReady p.1, .kernelLaunch p.1]
    ++ (if (s.cluster p.2.owner).gate.up then [.copyPacketRun p.1] else [])
def groupEvents (g : Nat) : List Instr := [.groupEnd g, .saveFrameWritten g, .restoreComplete g]
def ctxEvents (id : BitVec 12) : List Instr := [.contextHalted id, .stagingComplete id, .destroyComplete id]
def portEvents (p : Fin 2) : List Instr := [.pageRequestWrite p, .eventRingWrite p]
def linkEvents (l : Fin 32) : List Instr :=
  (List.finRange 16).map (Instr.lightHoldExpiry l) ++ [.egressStallExpiry l, .wadiDrained l, .spillTimeout l]
def clusterEvents (c : Fin 128) : List Instr := [.evtReleaseApply c]

/-- The late faults of a context's threads are delivered before its state is staged (R85). -/
def State.lateBefore (s : State) (id : Nat) : Option Instr :=
  if ((s.ctx? id).map fun c => c.st == .halting).getD false then
    (s.groups.filterMap fun g =>
      if g.2.ctx == id && g.2.st.issues then
        ((Tbl.vals g.2.threads).find? fun t => t.dueLate.isSome).map fun t => Instr.deferredFaultDelivery g.1 t.tid
      else none).head?
  else none

/-- The groups that could be placed, in the order of R109: priority, then the time their packets became ready, then the packets'
addresses. -/
def State.placements (s : State) : List (List Nat × Instr) :=
  (s.kernels.flatMap fun k =>
    let lins := (s.groups.filterMap fun g => if g.2.kern == k.1 && g.2.st == .saved then some g.2.lin else none)
      ++ (if k.2.st == .placing then [k.2.next] else [])
    lins.map fun lin =>
      ([128 - k.2.prio, k.2.readyTime, ((s.pkt? k.2.pkt).map fun p => p.addr.toNat).getD 0, lin],
        Instr.groupPlace (BitVec.ofNat 12 k.2.ctx) (BitVec.ofNat 32 k.2.id) (BitVec.ofNat 32 lin))).mergeSort
    fun x y => lexLe x.1 y.1

/-- What is cached past its lease goes first (R268). -/
def State.leaseEnds (s : State) : Bool :=
  s.tlb.any (fun t => t.expiry ≤ s.time) || s.views.any (fun v => v.expiry ≤ s.time)
    || s.cores.any fun c => c.2.l1.any fun l => l.expiry ≤ s.time

/-- Everything the device could do by itself, in order: a dispatch comes before gating (R120). -/
def State.ownEvents (s : State) : List Instr :=
  (List.finRange 2).flatMap portEvents
    ++ (s.groups.map Prod.fst).flatMap groupEvents
    ++ (s.ctxs.map Prod.fst).flatMap (fun (c : Nat) => ctxEvents (BitVec.ofNat 12 c))
    ++ s.pkts.flatMap s.pktEvents
    ++ (s.clusters.map Prod.fst).flatMap (fun (c : Nat) => clusterEvents (Fin.ofNat 128 c))
    ++ (s.links.map Prod.fst).flatMap (fun (l : Nat) => linkEvents (Fin.ofNat 32 l))
    ++ (s.queues.map Prod.fst).map Instr.packetConsume
    ++ s.placements.map Prod.snd
    ++ (s.clusters.map Prod.fst).map (fun (c : Nat) => Instr.gatingConfirm (Fin.ofNat 128 c))

/-- The first event the device must take now, in this order. -/
def State.required (s : State) : Option Instr :=
  if s.leaseEnds then some .leaseExpiry
  else match (s.ctxs.filterMap fun c => s.lateBefore c.1).head? with
    | some i => some i
    | none => s.ownEvents.find? s.enabled

/-- Accesses, tile operations and engine commands that could be performed now; the spec says neither which comes first nor
when. -/
def State.possible (s : State) : List Instr :=
  (s.accs.map (fun (a : Access) => Instr.accessPerformed a.id 0)
    ++ s.cores.flatMap (fun (c : Nat × Core) => c.2.tileq.map fun (o : TileOp) => Instr.tileOpPerformed (Fin.ofNat 1024 c.1) ⟨o.id, 0, 0⟩)
    ++ s.cmds.map (fun (c : Cmd) => Instr.commandComplete ⟨c.id, 0, 0⟩)).filter s.enabled

/-- What a port could do now: send a link port's flit (R334, R337, R339), or perform a host's write with Relaxed Ordering
(R343). -/
def State.sending (s : State) : List (Nat ⊕ Fin 2 × Nat) :=
  let flits := (s.links.map Prod.fst).filter fun p => s.moves (.next (s.flitSent p))
  let posted := (List.finRange 2).flatMap fun (p : Fin 2) => (List.range (s.port p).posted.length).map fun i => (p, i)
  flits.map Sum.inl ++ posted.map Sum.inr

/-- It is done. -/
def State.sends (s : State) : Nat ⊕ Fin 2 × Nat → State
  | .inl p => s.flitSent p
  | .inr (p, i) => s.performPosted p i

/-! ### Time -/

/-- The steps that fall on a boundary of package time: each µs, each ms, each token period. -/
def State.periodic (s : State) : List Instr :=
  if s.time % 1000 != 0 then []
  else
    (s.ctxs.filterMap fun c => if c.2.held.isEmpty then none else some (.fqRoomPoll (BitVec.ofNat 12 c.1)))
      ++ s.groups.map (fun g => .watchdogTick g.1)
      ++ (List.finRange 8).map (fun d => .vminSample d (BitVec.ofNat 16 (Config.sensed d (s.time / 1000) 8)))
      ++ [.tokenCharge]
      ++ (if s.mgmt.tperiod ≠ 0 && s.time % (1000 * s.mgmt.tperiod.toNat) == 0 then [.tokenRefill] else [])
      ++ (if s.time % 1000000 == 0 then [.accountSpill, .telemetryAdd] ++ (List.finRange 8).map Instr.currentRecord else [])

/-- The first agenda entry is a ns nearer. -/
def nearer : List (Nat × Instr) → List (Nat × Instr)
  | (n + 1, i) :: l => (n, i) :: l
  | l => l

/-- The host port that an event from outside comes by. -/
def portOf : Instr → Option (Fin 2)
  | .bind p _ => some p
  | .preempt p _ => some p
  | .resume p _ => some p
  | .destroy p _ => some p
  | .queueAttach p => some p
  | .queueDetach p => some p
  | .resolve p _ => some p
  | .retire p => some p
  | .horizon p _ => some p
  | .dbgAttach p _ _ => some p
  | .dbgDetach p _ => some p
  | .dbgHalt p _ _ => some p
  | .dbgResume p _ _ => some p
  | .dbgStep p _ => some p
  | .registerWrite (.host p) _ _ _ _ => some p
  | .hostWrite p _ _ => some p
  | .hostRead p _ _ => some p
  | .hostAtomicop p _ _ _ _ _ => some p
  | _ => none

/-- The command that an event writes to a port's CXCMD, directly or through the register page (R83, R374). -/
def cxOp : Instr → Option Nat
  | .bind _ _ => some 1
  | .preempt _ _ => some 2
  | .resume _ _ => some 3
  | .destroy _ _ => some 4
  | .registerWrite _ _ off wide v => if !wide && off == 0x8 then some (bits v.toNat 0 4) else none
  | _ => none

/-- Where an event from outside stands among those of its ns: what comes by port 0 before what comes by port 1, DESTROY before
the loss of a die, the lower die first, and that before PREEMPT (R83, R84, R88, R94, R272, R357). -/
def sameTime (i : Instr) : Nat :=
  match i, portOf i, cxOp i with
  | .dieLoss d, _, _ => 2 + d.val
  | _, some 1, some 4 => 1
  | _, some 1, _ => 11
  | _, none, some 4 => 1
  | _, none, _ => 10
  | _, _, some 2 => 10
  | _, _, _ => 0

/-- The agenda with the events of the running ns in their order. -/
def inOrder (l : List (Nat × Instr)) : List (Nat × Instr) :=
  let now := l.takeWhile fun x => x.1 == 0
  (now.mergeSort fun x y => sameTime x.2 ≤ sameTime y.2) ++ l.drop now.length

/-- Package time advances by 1 ns (R6); what is timed for then is due. There is one clock, without the skew of up to 2 ns that
R7 allows between readings that are not ordered (DESIGN CHOICE, log 21). -/
def State.pass (s : State) : State :=
  let now := s.time + 1
  let s := { s with
    time := now
    scan := 0
    agenda := inOrder (nearer s.agenda)
    due := s.due ++ (s.timers.filter fun (t : Nat × Instr) => t.1 ≤ now).map Prod.snd
    timers := s.timers.filter fun (t : Nat × Instr) => !(t.1 ≤ now) }
  { s with due := s.due ++ s.periodic }

/-- The 20 µs of a port in RESTRIPE are over: both ends hold the new mask by then (R337). -/
def State.restripeEnds (s : State) : Option State :=
  match List.find? (fun (l : Nat × Link) => l.2.st == .restripe && l.2.since + 20000 ≤ s.time) s.links with
  | none => none
  | some (l, _) =>
    match execRestripeAgreed (Fin.ofNat 32 l) s with
    | .next t => some t
    | _ => none

/-- The millisecond of a port in TRAINING is over: which wavelengths it has locked, and whether every option is agreed, only
the far end and the light could say (R336, log 5). -/
def State.trainingEnds (s : State) : Option State :=
  match List.find? (fun (l : Nat × Link) => l.2.st == .training && l.2.since + 1000000 ≤ s.time) s.links with
  | none => none
  | some (l, _) =>
    let (n, s) := s.free
    match execTrainingTimeout (Fin.ofNat 32 l) ((Config.freeWord n).setWidth 16) (Config.freeChoice n) s with
    | .next t => some t
    | _ => none

/-! ### The next turn -/

/-- What the next step is: an instruction to run in a state, or a state. -/
inductive Turn where
  | run (i : Instr) (s : State)
  | pass (s : State)

/-- A core's clock at a point, in tenths of a GHz (R319). -/
def clockOf (point : Nat) : Nat := if point == 0 then 15 else if point == 1 then 19 else 22

/-- The cycles a core makes in the running ns, at its cluster's point (R6, R319, R350; log 4). -/
def State.cyclesNow (s : State) (core : Nat) : Nat :=
  let r := clockOf (s.cluster (clusterOf core)).point
  r * (s.time + 1) / 10 - r * s.time / 10

/-- The cores in turn, once for each of the ns's cycles: every core's cycle; then what they selected issues; then, after every
4th of its own cycles, each core's regroup (R136). -/
def State.coreTurn (s : State) : Turn :=
  let s' := { s with scan := s.scan + 1 }
  let n := s.scan % 1024
  let c := s.core n
  if 6144 ≤ s.scan then .pass s.pass
  else if s.scan % 2048 == 1024 && !s.selected.isEmpty then .pass s.releaseSelected
  else if s.cyclesNow n ≤ s.scan / 2048 then .pass s'
  else if s.scan / 1024 % 2 == 0 then .run (.slotCycle (Fin.ofNat 1024 n)) s'
  else if (c.cyc + b2n !c.charges.isEmpty) % 4 == 0 then .run (.regroup (Fin.ofNat 1024 n)) s'
  else .pass s'

/-- The cores are in the middle of a cycle: some have selected and what they selected has not issued. What the device does
comes before or after all that the cycle issues (R115). -/
def State.midCycle (s : State) : Bool := (0 < s.scan % 2048 && s.scan % 2048 < 1024) || !s.selected.isEmpty

/-- What the device does when nothing is due: what it must; else, by an open choice, one of the operations that could be
performed, a flit that could leave, a host's write that waits, or the next core's cycle. -/
def State.deviceTurn (s : State) : Turn :=
  if s.midCycle then s.coreTurn
  else match s.required with
  | some i => .run i s
  | none =>
    match s.restripeEnds with
    | some s => .pass s
    | none =>
    match s.trainingEnds with
    | some s => .pass s
    | none =>
      match s.possible, s.sending with
      | [], [] => s.coreTurn
      | l, ps =>
        let (n, s) := s.free
        let k := Config.freeNat n % (l.length + ps.length + 1)
        match l[k]?, ps[k - l.length]? with
        | some i, _ => .run i s
        | none, some p => .pass (s.sends p)
        | none, none => s.coreTurn

/-- What comes from outside now. -/
def State.agendaTurn (s : State) (otherwise : State → Turn) : Turn :=
  match s.agenda with
  | (0, i) :: l => .run i { s with agenda := l }
  | _ => otherwise s

/-- A package whose Oasis is lost does nothing more until a cold reset (R4). -/
def State.lostTurn (s : State) : Turn :=
  match s.agenda with
  | (0, .packageColdReset) :: l => .run .packageColdReset { s with agenda := l }
  | (0, _) :: l => .pass { s with agenda := l }
  | _ => .pass { s with time := s.time + 1, agenda := nearer s.agenda }

/-- The next turn of the package. -/
def State.turn (s : State) : Turn :=
  if s.oasisLost then s.lostTurn
  else match s.issuing with
    | _ :: _ => (match s.head with | .run i s => .run i s | .gone s => .pass s)
    | [] =>
      match s.due with
      | i :: l => .run i { s with due := l }
      | [] => s.agendaTurn State.deviceTurn

end Sys2Proof.Machine
end

