-- ==== Sys2Proof/Machine/Dispatch.lean ====
section
/-! DEFINITION. One arm per constructor of Instr: a direct call of the instruction's meaning. -/

namespace Sys2Proof.Machine

def exec (i : Instr) (s : State) : Host.Outcome State Fault Refusal :=
  match i with
  | .nop => Sys2Proof.Machine.execNop s
  | .mov x1 x2 x3 => Sys2Proof.Machine.execMov x1 x2 x3 s
  | .movi x1 x2 => Sys2Proof.Machine.execMovi x1 x2 s
  | .movhi x1 x2 => Sys2Proof.Machine.execMovhi x1 x2 s
  | .movx x1 x2 x3 => Sys2Proof.Machine.execMovx x1 x2 x3 s
  | .sel x1 x2 x3 x4 => Sys2Proof.Machine.execSel x1 x2 x3 x4 s
  | .srd x1 x2 => Sys2Proof.Machine.execSrd x1 x2 s
  | .swr x1 x2 => Sys2Proof.Machine.execSwr x1 x2 s
  | .add x1 x2 x3 x4 => Sys2Proof.Machine.execAdd x1 x2 x3 x4 s
  | .sub x1 x2 x3 x4 => Sys2Proof.Machine.execSub x1 x2 x3 x4 s
  | .addi x1 x2 x3 => Sys2Proof.Machine.execAddi x1 x2 x3 s
  | .addc x1 x2 x3 x4 => Sys2Proof.Machine.execAddc x1 x2 x3 x4 s
  | .addSatS32 x1 x2 x3 x4 => Sys2Proof.Machine.execAddSatS32 x1 x2 x3 x4 s
  | .addSatZ32 x1 x2 x3 x4 => Sys2Proof.Machine.execAddSatZ32 x1 x2 x3 x4 s
  | .subSatS32 x1 x2 x3 x4 => Sys2Proof.Machine.execSubSatS32 x1 x2 x3 x4 s
  | .subSatZ32 x1 x2 x3 x4 => Sys2Proof.Machine.execSubSatZ32 x1 x2 x3 x4 s
  | .mul x1 x2 x3 x4 => Sys2Proof.Machine.execMul x1 x2 x3 x4 s
  | .mulhS32 x1 x2 x3 x4 => Sys2Proof.Machine.execMulhS32 x1 x2 x3 x4 s
  | .mulhZ32 x1 x2 x3 x4 => Sys2Proof.Machine.execMulhZ32 x1 x2 x3 x4 s
  | .mad x1 x2 x3 x4 => Sys2Proof.Machine.execMad x1 x2 x3 x4 s
  | .mulwS32 x1 x2 x3 x4 => Sys2Proof.Machine.execMulwS32 x1 x2 x3 x4 s
  | .mulwZ32 x1 x2 x3 x4 => Sys2Proof.Machine.execMulwZ32 x1 x2 x3 x4 s
  | .divS32 x1 x2 x3 x4 => Sys2Proof.Machine.execDivS32 x1 x2 x3 x4 s
  | .divZ32 x1 x2 x3 x4 => Sys2Proof.Machine.execDivZ32 x1 x2 x3 x4 s
  | .remS32 x1 x2 x3 x4 => Sys2Proof.Machine.execRemS32 x1 x2 x3 x4 s
  | .remZ32 x1 x2 x3 x4 => Sys2Proof.Machine.execRemZ32 x1 x2 x3 x4 s
  | .minS32 x1 x2 x3 x4 => Sys2Proof.Machine.execMinS32 x1 x2 x3 x4 s
  | .minZ32 x1 x2 x3 x4 => Sys2Proof.Machine.execMinZ32 x1 x2 x3 x4 s
  | .maxS32 x1 x2 x3 x4 => Sys2Proof.Machine.execMaxS32 x1 x2 x3 x4 s
  | .maxZ32 x1 x2 x3 x4 => Sys2Proof.Machine.execMaxZ32 x1 x2 x3 x4 s
  | .absS32 x1 x2 x3 => Sys2Proof.Machine.execAbsS32 x1 x2 x3 s
  | .neg x1 x2 x3 => Sys2Proof.Machine.execNeg x1 x2 x3 s
  | .and x1 x2 x3 x4 => Sys2Proof.Machine.execAnd x1 x2 x3 x4 s
  | .or x1 x2 x3 x4 => Sys2Proof.Machine.execOr x1 x2 x3 x4 s
  | .xor x1 x2 x3 x4 => Sys2Proof.Machine.execXor x1 x2 x3 x4 s
  | .andn x1 x2 x3 x4 => Sys2Proof.Machine.execAndn x1 x2 x3 x4 s
  | .not x1 x2 x3 => Sys2Proof.Machine.execNot x1 x2 x3 s
  | .andi x1 x2 x3 => Sys2Proof.Machine.execAndi x1 x2 x3 s
  | .ori x1 x2 x3 => Sys2Proof.Machine.execOri x1 x2 x3 s
  | .xori x1 x2 x3 => Sys2Proof.Machine.execXori x1 x2 x3 s
  | .shl x1 x2 x3 x4 => Sys2Proof.Machine.execShl x1 x2 x3 x4 s
  | .shr x1 x2 x3 x4 => Sys2Proof.Machine.execShr x1 x2 x3 x4 s
  | .sra x1 x2 x3 x4 => Sys2Proof.Machine.execSra x1 x2 x3 x4 s
  | .shli x1 x2 x3 => Sys2Proof.Machine.execShli x1 x2 x3 s
  | .shri x1 x2 x3 => Sys2Proof.Machine.execShri x1 x2 x3 s
  | .srai x1 x2 x3 => Sys2Proof.Machine.execSrai x1 x2 x3 s
  | .rotl x1 x2 x3 x4 => Sys2Proof.Machine.execRotl x1 x2 x3 x4 s
  | .rotli x1 x2 x3 => Sys2Proof.Machine.execRotli x1 x2 x3 s
  | .popc x1 x2 x3 => Sys2Proof.Machine.execPopc x1 x2 x3 s
  | .clz x1 x2 x3 => Sys2Proof.Machine.execClz x1 x2 x3 s
  | .brev x1 x2 x3 => Sys2Proof.Machine.execBrev x1 x2 x3 s
  | .bfxS x1 x2 x3 x4 => Sys2Proof.Machine.execBfxS x1 x2 x3 x4 s
  | .bfxZ x1 x2 x3 x4 => Sys2Proof.Machine.execBfxZ x1 x2 x3 x4 s
  | .bfi x1 x2 x3 x4 => Sys2Proof.Machine.execBfi x1 x2 x3 x4 s
  | .lea x1 x2 x3 x4 => Sys2Proof.Machine.execLea x1 x2 x3 x4 s
  | .add64 x1 x2 x3 x4 => Sys2Proof.Machine.execAdd64 x1 x2 x3 x4 s
  | .sub64 x1 x2 x3 x4 => Sys2Proof.Machine.execSub64 x1 x2 x3 x4 s
  | .addi64 x1 x2 x3 => Sys2Proof.Machine.execAddi64 x1 x2 x3 s
  | .shl64i x1 x2 x3 => Sys2Proof.Machine.execShl64i x1 x2 x3 s
  | .shr64i x1 x2 x3 => Sys2Proof.Machine.execShr64i x1 x2 x3 s
  | .fkeyF16 x1 x2 x3 => Sys2Proof.Machine.execFkeyF16 x1 x2 x3 s
  | .fkeyF32 x1 x2 x3 => Sys2Proof.Machine.execFkeyF32 x1 x2 x3 s
  | .cmpS32 x1 x2 x3 x4 => Sys2Proof.Machine.execCmpS32 x1 x2 x3 x4 s
  | .cmpZ32 x1 x2 x3 x4 => Sys2Proof.Machine.execCmpZ32 x1 x2 x3 x4 s
  | .cmpS64 x1 x2 x3 x4 => Sys2Proof.Machine.execCmpS64 x1 x2 x3 x4 s
  | .cmpZ64 x1 x2 x3 x4 => Sys2Proof.Machine.execCmpZ64 x1 x2 x3 x4 s
  | .cmpiS32 x1 x2 x3 x4 => Sys2Proof.Machine.execCmpiS32 x1 x2 x3 x4 s
  | .cmpiZ32 x1 x2 x3 x4 => Sys2Proof.Machine.execCmpiZ32 x1 x2 x3 x4 s
  | .fcmpF32 x1 x2 x3 x4 => Sys2Proof.Machine.execFcmpF32 x1 x2 x3 x4 s
  | .fcmpF16 x1 x2 x3 x4 => Sys2Proof.Machine.execFcmpF16 x1 x2 x3 x4 s
  | .plog x1 x2 x3 x4 => Sys2Proof.Machine.execPlog x1 x2 x3 x4 s
  | .pmov x1 x2 => Sys2Proof.Machine.execPmov x1 x2 s
  | .vote x1 x2 x3 => Sys2Proof.Machine.execVote x1 x2 x3 s
  | .faddF32 x1 x2 x3 x4 => Sys2Proof.Machine.execFaddF32 x1 x2 x3 x4 s
  | .fsubF32 x1 x2 x3 x4 => Sys2Proof.Machine.execFsubF32 x1 x2 x3 x4 s
  | .fmulF32 x1 x2 x3 x4 => Sys2Proof.Machine.execFmulF32 x1 x2 x3 x4 s
  | .ffmaF32 x1 x2 x3 x4 => Sys2Proof.Machine.execFfmaF32 x1 x2 x3 x4 s
  | .fminF32 x1 x2 x3 x4 => Sys2Proof.Machine.execFminF32 x1 x2 x3 x4 s
  | .fmaxF32 x1 x2 x3 x4 => Sys2Proof.Machine.execFmaxF32 x1 x2 x3 x4 s
  | .fabsF32 x1 x2 x3 => Sys2Proof.Machine.execFabsF32 x1 x2 x3 s
  | .fnegF32 x1 x2 x3 => Sys2Proof.Machine.execFnegF32 x1 x2 x3 s
  | .frcpF32 x1 x2 x3 => Sys2Proof.Machine.execFrcpF32 x1 x2 x3 s
  | .frsqF32 x1 x2 x3 => Sys2Proof.Machine.execFrsqF32 x1 x2 x3 s
  | .fsqrtF32 x1 x2 x3 => Sys2Proof.Machine.execFsqrtF32 x1 x2 x3 s
  | .fexp2F32 x1 x2 x3 => Sys2Proof.Machine.execFexp2F32 x1 x2 x3 s
  | .flog2F32 x1 x2 x3 => Sys2Proof.Machine.execFlog2F32 x1 x2 x3 s
  | .fdivF32 x1 x2 x3 x4 => Sys2Proof.Machine.execFdivF32 x1 x2 x3 x4 s
  | .faddRzF32 x1 x2 x3 x4 => Sys2Proof.Machine.execFaddRzF32 x1 x2 x3 x4 s
  | .ffmaRzF32 x1 x2 x3 x4 => Sys2Proof.Machine.execFfmaRzF32 x1 x2 x3 x4 s
  | .hadd2 x1 x2 x3 x4 => Sys2Proof.Machine.execHadd2 x1 x2 x3 x4 s
  | .hmul2 x1 x2 x3 x4 => Sys2Proof.Machine.execHmul2 x1 x2 x3 x4 s
  | .hfma2 x1 x2 x3 x4 => Sys2Proof.Machine.execHfma2 x1 x2 x3 x4 s
  | .hmin2 x1 x2 x3 x4 => Sys2Proof.Machine.execHmin2 x1 x2 x3 x4 s
  | .hmax2 x1 x2 x3 x4 => Sys2Proof.Machine.execHmax2 x1 x2 x3 x4 s
  | .badd2 x1 x2 x3 x4 => Sys2Proof.Machine.execBadd2 x1 x2 x3 x4 s
  | .bmul2 x1 x2 x3 x4 => Sys2Proof.Machine.execBmul2 x1 x2 x3 x4 s
  | .bfma2 x1 x2 x3 x4 => Sys2Proof.Machine.execBfma2 x1 x2 x3 x4 s
  | .bmin2 x1 x2 x3 x4 => Sys2Proof.Machine.execBmin2 x1 x2 x3 x4 s
  | .bmax2 x1 x2 x3 x4 => Sys2Proof.Machine.execBmax2 x1 x2 x3 x4 s
  | .cvtF32S32 x1 x2 x3 => Sys2Proof.Machine.execCvtF32S32 x1 x2 x3 s
  | .cvtF32Z32 x1 x2 x3 => Sys2Proof.Machine.execCvtF32Z32 x1 x2 x3 s
  | .cvtS32F32Rz x1 x2 x3 => Sys2Proof.Machine.execCvtS32F32Rz x1 x2 x3 s
  | .cvtS32F32Rn x1 x2 x3 => Sys2Proof.Machine.execCvtS32F32Rn x1 x2 x3 s
  | .cvtZ32F32Rz x1 x2 x3 => Sys2Proof.Machine.execCvtZ32F32Rz x1 x2 x3 s
  | .cvtF16F32 x1 x2 x3 => Sys2Proof.Machine.execCvtF16F32 x1 x2 x3 s
  | .cvtF16F32Sat x1 x2 x3 => Sys2Proof.Machine.execCvtF16F32Sat x1 x2 x3 s
  | .cvtBf16F32 x1 x2 x3 => Sys2Proof.Machine.execCvtBf16F32 x1 x2 x3 s
  | .cvtF32F16 x1 x2 x3 => Sys2Proof.Machine.execCvtF32F16 x1 x2 x3 s
  | .cvtF32Bf16 x1 x2 x3 => Sys2Proof.Machine.execCvtF32Bf16 x1 x2 x3 s
  | .cvtb x1 x2 x3 x4 => Sys2Proof.Machine.execCvtb x1 x2 x3 x4 s
  | .widb x1 x2 x3 x4 => Sys2Proof.Machine.execWidb x1 x2 x3 x4 s
  | .cvtw x1 x2 x3 => Sys2Proof.Machine.execCvtw x1 x2 x3 s
  | .xshf x1 x2 x3 => Sys2Proof.Machine.execXshf x1 x2 x3 s
  | .xshfw x1 x2 x3 => Sys2Proof.Machine.execXshfw x1 x2 x3 s
  | .red x1 x2 x3 => Sys2Proof.Machine.execRed x1 x2 x3 s
  | .scan x1 x2 x3 x4 => Sys2Proof.Machine.execScan x1 x2 x3 x4 s
  | .permb x1 x2 x3 x4 => Sys2Proof.Machine.execPermb x1 x2 x3 x4 s
  | .ldG x1 x2 x3 x4 x5 => Sys2Proof.Machine.execLdG x1 x2 x3 x4 x5 s
  | .stG x1 x2 x3 x4 x5 => Sys2Proof.Machine.execStG x1 x2 x3 x4 x5 s
  | .ldS x1 x2 x3 x4 => Sys2Proof.Machine.execLdS x1 x2 x3 x4 s
  | .stS x1 x2 x3 x4 => Sys2Proof.Machine.execStS x1 x2 x3 x4 s
  | .ldD x1 x2 x3 x4 => Sys2Proof.Machine.execLdD x1 x2 x3 x4 s
  | .stD x1 x2 x3 x4 => Sys2Proof.Machine.execStD x1 x2 x3 x4 s
  | .ldaCore x1 x2 x3 x4 x5 => Sys2Proof.Machine.execLdaCore x1 x2 x3 x4 x5 s
  | .ldaDev x1 x2 x3 x4 x5 => Sys2Proof.Machine.execLdaDev x1 x2 x3 x4 x5 s
  | .ldaSys x1 x2 x3 x4 x5 => Sys2Proof.Machine.execLdaSys x1 x2 x3 x4 x5 s
  | .stlCore x1 x2 x3 x4 x5 => Sys2Proof.Machine.execStlCore x1 x2 x3 x4 x5 s
  | .stlDev x1 x2 x3 x4 x5 => Sys2Proof.Machine.execStlDev x1 x2 x3 x4 x5 s
  | .stlSys x1 x2 x3 x4 x5 => Sys2Proof.Machine.execStlSys x1 x2 x3 x4 x5 s
  | .atomCore x1 x2 x3 x4 x5 => Sys2Proof.Machine.execAtomCore x1 x2 x3 x4 x5 s
  | .atomDev x1 x2 x3 x4 x5 => Sys2Proof.Machine.execAtomDev x1 x2 x3 x4 x5 s
  | .atomSys x1 x2 x3 x4 x5 => Sys2Proof.Machine.execAtomSys x1 x2 x3 x4 x5 s
  | .redaDev x1 x2 x3 x4 => Sys2Proof.Machine.execRedaDev x1 x2 x3 x4 s
  | .redaSys x1 x2 x3 x4 => Sys2Proof.Machine.execRedaSys x1 x2 x3 x4 s
  | .fence x1 => Sys2Proof.Machine.execFence x1 s
  | .fenceAlias x1 => Sys2Proof.Machine.execFenceAlias x1 s
  | .pref x1 x2 x3 => Sys2Proof.Machine.execPref x1 x2 x3 s
  | .marm x1 x2 => Sys2Proof.Machine.execMarm x1 x2 s
  | .maps x1 x2 x3 => Sys2Proof.Machine.execMaps x1 x2 x3 s
  | .flushs x1 x2 => Sys2Proof.Machine.execFlushs x1 x2 s
  | .invs x1 x2 => Sys2Proof.Machine.execInvs x1 x2 s
  | .tlbp x1 x2 => Sys2Proof.Machine.execTlbp x1 x2 s
  | .bra x1 x2 => Sys2Proof.Machine.execBra x1 x2 s
  | .brx x1 x2 => Sys2Proof.Machine.execBrx x1 x2 s
  | .call x1 x2 => Sys2Proof.Machine.execCall x1 x2 s
  | .callx x1 x2 => Sys2Proof.Machine.execCallx x1 x2 s
  | .ret x1 => Sys2Proof.Machine.execRet x1 s
  | .rep x1 x2 x3 => Sys2Proof.Machine.execRep x1 x2 x3 s
  | .exit x1 => Sys2Proof.Machine.execExit x1 s
  | .wait x1 x2 x3 x4 => Sys2Proof.Machine.execWait x1 x2 x3 x4 s
  | .mwait x1 x2 x3 => Sys2Proof.Machine.execMwait x1 x2 x3 s
  | .bar x1 x2 x3 => Sys2Proof.Machine.execBar x1 x2 x3 s
  | .barcfg x1 x2 => Sys2Proof.Machine.execBarcfg x1 x2 s
  | .cvdecl x1 x2 x3 => Sys2Proof.Machine.execCvdecl x1 x2 x3 s
  | .yield => Sys2Proof.Machine.execYield s
  | .ckm x1 => Sys2Proof.Machine.execCkm x1 s
  | .trap x1 => Sys2Proof.Machine.execTrap x1 s
  | .bkpt x1 => Sys2Proof.Machine.execBkpt x1 s
  | .rft => Sys2Proof.Machine.execRft s
  | .haltg x1 => Sys2Proof.Machine.execHaltg x1 s
  | .acmark x1 => Sys2Proof.Machine.execAcmark x1 s
  | .trk x1 x2 => Sys2Proof.Machine.execTrk x1 x2 s
  | .copy x1 x2 => Sys2Proof.Machine.execCopy x1 x2 s
  | .copyR x1 x2 => Sys2Proof.Machine.execCopyR x1 x2 s
  | .chain x1 x2 => Sys2Proof.Machine.execChain x1 x2 s
  | .gather x1 x2 x3 => Sys2Proof.Machine.execGather x1 x2 x3 s
  | .scatter x1 x2 x3 => Sys2Proof.Machine.execScatter x1 x2 x3 s
  | .commit x1 => Sys2Proof.Machine.execCommit x1 s
  | .enq x1 x2 x3 => Sys2Proof.Machine.execEnq x1 x2 x3 s
  | .evt x1 x2 x3 => Sys2Proof.Machine.execEvt x1 x2 x3 s
  | .atomR x1 x2 => Sys2Proof.Machine.execAtomR x1 x2 s
  | .tcfg x1 x2 => Sys2Proof.Machine.execTcfg x1 x2 s
  | .tld x1 x2 x3 x4 => Sys2Proof.Machine.execTld x1 x2 x3 x4 s
  | .tst x1 x2 x3 x4 => Sys2Proof.Machine.execTst x1 x2 x3 x4 s
  | .tzero x1 x2 => Sys2Proof.Machine.execTzero x1 x2 s
  | .qnt x1 x2 x3 x4 x5 => Sys2Proof.Machine.execQnt x1 x2 x3 x4 x5 s
  | .tcvt x1 x2 x3 => Sys2Proof.Machine.execTcvt x1 x2 x3 s
  | .mmaBf16 x1 x2 x3 x4 x5 x6 => Sys2Proof.Machine.execMmaBf16 x1 x2 x3 x4 x5 x6 s
  | .mmaF16 x1 x2 x3 x4 x5 x6 => Sys2Proof.Machine.execMmaF16 x1 x2 x3 x4 x5 x6 s
  | .mmaE4m3 x1 x2 x3 x4 x5 x6 => Sys2Proof.Machine.execMmaE4m3 x1 x2 x3 x4 x5 x6 s
  | .mmaE5m2 x1 x2 x3 x4 x5 x6 => Sys2Proof.Machine.execMmaE5m2 x1 x2 x3 x4 x5 x6 s
  | .mmaE2m3 x1 x2 x3 x4 x5 x6 => Sys2Proof.Machine.execMmaE2m3 x1 x2 x3 x4 x5 x6 s
  | .mmaE3m2 x1 x2 x3 x4 x5 x6 => Sys2Proof.Machine.execMmaE3m2 x1 x2 x3 x4 x5 x6 s
  | .mmaE2m1 x1 x2 x3 x4 x5 x6 => Sys2Proof.Machine.execMmaE2m1 x1 x2 x3 x4 x5 x6 s
  | .mmaDl8 x1 x2 x3 x4 x5 x6 => Sys2Proof.Machine.execMmaDl8 x1 x2 x3 x4 x5 x6 s
  | .mmaS8 x1 x2 x3 x4 x5 x6 => Sys2Proof.Machine.execMmaS8 x1 x2 x3 x4 x5 x6 s
  | .mmaS4 x1 x2 x3 x4 x5 x6 => Sys2Proof.Machine.execMmaS4 x1 x2 x3 x4 x5 x6 s
  | .segn x1 x2 x3 => Sys2Proof.Machine.execSegn x1 x2 x3 s
  | .scacc x1 x2 x3 x4 => Sys2Proof.Machine.execScacc x1 x2 x3 x4 s
  | .aclr x1 x2 => Sys2Proof.Machine.execAclr x1 x2 s
  | .amov x1 x2 x3 x4 => Sys2Proof.Machine.execAmov x1 x2 x3 x4 s
  | .ast x1 x2 x3 x4 => Sys2Proof.Machine.execAst x1 x2 x3 x4 s
  | .ald x1 x2 x3 x4 => Sys2Proof.Machine.execAld x1 x2 x3 x4 s
  | .tchk x1 x2 x3 => Sys2Proof.Machine.execTchk x1 x2 x3 s
  | .bind x1 x2 => Sys2Proof.Machine.execBind x1 x2 s
  | .preempt x1 x2 => Sys2Proof.Machine.execPreempt x1 x2 s
  | .resume x1 x2 => Sys2Proof.Machine.execResume x1 x2 s
  | .destroy x1 x2 => Sys2Proof.Machine.execDestroy x1 x2 s
  | .queueAttach x1 => Sys2Proof.Machine.execQueueAttach x1 s
  | .queueDetach x1 => Sys2Proof.Machine.execQueueDetach x1 s
  | .resolve x1 x2 => Sys2Proof.Machine.execResolve x1 x2 s
  | .retire x1 => Sys2Proof.Machine.execRetire x1 s
  | .horizon x1 x2 => Sys2Proof.Machine.execHorizon x1 x2 s
  | .dbgAttach x1 x2 x3 => Sys2Proof.Machine.execDbgAttach x1 x2 x3 s
  | .dbgDetach x1 x2 => Sys2Proof.Machine.execDbgDetach x1 x2 s
  | .dbgHalt x1 x2 x3 => Sys2Proof.Machine.execDbgHalt x1 x2 x3 s
  | .dbgResume x1 x2 x3 => Sys2Proof.Machine.execDbgResume x1 x2 x3 s
  | .dbgStep x1 x2 => Sys2Proof.Machine.execDbgStep x1 x2 s
  | .capture x1 => Sys2Proof.Machine.execCapture x1 s
  | .mirageStop x1 => Sys2Proof.Machine.execMirageStop x1 s
  | .replay x1 => Sys2Proof.Machine.execReplay x1 s
  | .bootGo x1 => Sys2Proof.Machine.execBootGo x1 s
  | .attestGo x1 => Sys2Proof.Machine.execAttestGo x1 s
  | .frzrelWrite x1 => Sys2Proof.Machine.execFrzrelWrite x1 s
  | .vminvWrite x1 => Sys2Proof.Machine.execVminvWrite x1 s
  | .lctlEnSet x1 x2 => Sys2Proof.Machine.execLctlEnSet x1 x2 s
  | .lctlEnClear x1 x2 => Sys2Proof.Machine.execLctlEnClear x1 x2 s
  | .fwwWrite x1 x2 x3 x4 => Sys2Proof.Machine.execFwwWrite x1 x2 x3 x4 s
  | .expsWrite x1 x2 x3 => Sys2Proof.Machine.execExpsWrite x1 x2 x3 s
  | .prqctlWrite x1 x2 => Sys2Proof.Machine.execPrqctlWrite x1 x2 s
  | .evctlWrite x1 x2 => Sys2Proof.Machine.execEvctlWrite x1 x2 s
  | .routeWrite x1 x2 x3 => Sys2Proof.Machine.execRouteWrite x1 x2 x3 s
  | .registerWrite x1 x2 x3 x4 x5 => Sys2Proof.Machine.execRegisterWrite x1 x2 x3 x4 x5 s
  | .packageColdReset => Sys2Proof.Machine.execPackageColdReset s
  | .dieWarmReset x1 => Sys2Proof.Machine.execDieWarmReset x1 s
  | .dieLoss x1 => Sys2Proof.Machine.execDieLoss x1 s
  | .oasisLoss => Sys2Proof.Machine.execOasisLoss s
  | .phaseFail x1 x2 x3 => Sys2Proof.Machine.execPhaseFail x1 x2 x3 s
  | .lossOfLight x1 x2 => Sys2Proof.Machine.execLossOfLight x1 x2 s
  | .calicheThermal x1 x2 => Sys2Proof.Machine.execCalicheThermal x1 x2 s
  | .boostWithdraw x1 => Sys2Proof.Machine.execBoostWithdraw x1 s
  | .hostWrite x1 x2 x3 => Sys2Proof.Machine.execHostWrite x1 x2 x3 s
  | .hostRead x1 x2 x3 => Sys2Proof.Machine.execHostRead x1 x2 x3 s
  | .hostAtomicop x1 x2 x3 x4 x5 x6 => Sys2Proof.Machine.execHostAtomicop x1 x2 x3 x4 x5 x6 s
  | .peerRequest x1 x2 x3 => Sys2Proof.Machine.execPeerRequest x1 x2 x3 s
  | .flitReceive x1 x2 => Sys2Proof.Machine.execFlitReceive x1 x2 s
  | .trainingLocked x1 => Sys2Proof.Machine.execTrainingLocked x1 s
  | .trainingTimeout x1 x2 x3 => Sys2Proof.Machine.execTrainingTimeout x1 x2 x3 s
  | .restripeAgreed x1 => Sys2Proof.Machine.execRestripeAgreed x1 s
  | .replayAckTimeout x1 => Sys2Proof.Machine.execReplayAckTimeout x1 s
  | .lightHoldExpiry x1 x2 => Sys2Proof.Machine.execLightHoldExpiry x1 x2 s
  | .egressStallExpiry x1 => Sys2Proof.Machine.execEgressStallExpiry x1 s
  | .wadiDrained x1 => Sys2Proof.Machine.execWadiDrained x1 s
  | .spillTimeout x1 => Sys2Proof.Machine.execSpillTimeout x1 s
  | .linkRequestTimeout x1 => Sys2Proof.Machine.execLinkRequestTimeout x1 s
  | .slotCycle x1 => Sys2Proof.Machine.execSlotCycle x1 s
  | .noticeExpiry x1 x2 => Sys2Proof.Machine.execNoticeExpiry x1 x2 s
  | .regroup x1 => Sys2Proof.Machine.execRegroup x1 s
  | .yieldExpiry x1 x2 => Sys2Proof.Machine.execYieldExpiry x1 x2 s
  | .deferredFaultDelivery x1 x2 => Sys2Proof.Machine.execDeferredFaultDelivery x1 x2 s
  | .convergeMismatch x1 x2 => Sys2Proof.Machine.execConvergeMismatch x1 x2 s
  | .barrierDeadlock x1 => Sys2Proof.Machine.execBarrierDeadlock x1 s
  | .accessPerformed x1 x2 => Sys2Proof.Machine.execAccessPerformed x1 x2 s
  | .laneReplay x1 x2 => Sys2Proof.Machine.execLaneReplay x1 x2 s
  | .pageRequestWrite x1 => Sys2Proof.Machine.execPageRequestWrite x1 s
  | .leaseExpiry => Sys2Proof.Machine.execLeaseExpiry s
  | .mwaitTimeout x1 x2 => Sys2Proof.Machine.execMwaitTimeout x1 x2 s
  | .memScrubDamage x1 x2 => Sys2Proof.Machine.execMemScrubDamage x1 x2 s
  | .telemetryAdd => Sys2Proof.Machine.execTelemetryAdd s
  | .commandComplete x1 => Sys2Proof.Machine.execCommandComplete x1 s
  | .tileOpPerformed x1 x2 => Sys2Proof.Machine.execTileOpPerformed x1 x2 s
  | .packetConsume x1 => Sys2Proof.Machine.execPacketConsume x1 s
  | .packetReady x1 => Sys2Proof.Machine.execPacketReady x1 s
  | .kernelLaunch x1 => Sys2Proof.Machine.execKernelLaunch x1 s
  | .copyPacketRun x1 => Sys2Proof.Machine.execCopyPacketRun x1 s
  | .packetFinish x1 => Sys2Proof.Machine.execPacketFinish x1 s
  | .evtReleaseApply x1 => Sys2Proof.Machine.execEvtReleaseApply x1 s
  | .groupPlace x1 x2 x3 => Sys2Proof.Machine.execGroupPlace x1 x2 x3 s
  | .groupEnd x1 => Sys2Proof.Machine.execGroupEnd x1 s
  | .saveFrameWritten x1 => Sys2Proof.Machine.execSaveFrameWritten x1 s
  | .restoreComplete x1 => Sys2Proof.Machine.execRestoreComplete x1 s
  | .contextHalted x1 => Sys2Proof.Machine.execContextHalted x1 s
  | .stagingComplete x1 => Sys2Proof.Machine.execStagingComplete x1 s
  | .destroyComplete x1 => Sys2Proof.Machine.execDestroyComplete x1 s
  | .fqRoomPoll x1 => Sys2Proof.Machine.execFqRoomPoll x1 s
  | .eventRingWrite x1 => Sys2Proof.Machine.execEventRingWrite x1 s
  | .watchdogTick x1 => Sys2Proof.Machine.execWatchdogTick x1 s
  | .watchdogExpiry x1 => Sys2Proof.Machine.execWatchdogExpiry x1 s
  | .tokenCharge => Sys2Proof.Machine.execTokenCharge s
  | .tokenRefill => Sys2Proof.Machine.execTokenRefill s
  | .accountSpill => Sys2Proof.Machine.execAccountSpill s
  | .currentRecord x1 => Sys2Proof.Machine.execCurrentRecord x1 s
  | .vminSample x1 x2 => Sys2Proof.Machine.execVminSample x1 x2 s
  | .throttleExpiry x1 => Sys2Proof.Machine.execThrottleExpiry x1 s
  | .gatingIdleExpiry x1 => Sys2Proof.Machine.execGatingIdleExpiry x1 s
  | .gatingConfirm x1 => Sys2Proof.Machine.execGatingConfirm x1 s
  | .wakeWaitExpiry x1 => Sys2Proof.Machine.execWakeWaitExpiry x1 s
  | .softStartStep x1 => Sys2Proof.Machine.execSoftStartStep x1 s
  | .imageVerified => Sys2Proof.Machine.execImageVerified s
  | .attestReport x1 => Sys2Proof.Machine.execAttestReport x1 s
  | .lightRestored x1 x2 => Sys2Proof.Machine.execLightRestored x1 x2 s
  | .neighbourDrawFall x1 => Sys2Proof.Machine.execNeighbourDrawFall x1 s
  | .boostBankRecharged x1 => Sys2Proof.Machine.execBoostBankRecharged x1 s

end Sys2Proof.Machine
end

