-- ==== Sys2Proof/Machine/Run.lean ====
section
/-! DEFINITION. The run of a thread's word with the fetch it leads to (R146). -/

namespace Sys2Proof.Machine

/-- The word has its whole effect in `t`: its thread has moved on, or waits at the word, and the word brought about no fault, no
end of its group and no page fault. -/
def Env.wentOn (e : Env) (t : State) : Bool :=
  match t.group? e.g with
  | none => false
  | some gr =>
    match Tbl.find? gr.threads e.tid with
    | none => false
    | some u =>
      gr.pages == e.gr.pages && gr.ending == e.gr.ending && !(u.handler.isSome && e.t.handler.isNone) && u.again.isNone
        && (u.pos != e.t.pos || u.rep != e.t.rep || (match u.run with | .waiting _ => true | _ => false))

/-- Instruction `i` runs. A thread's word that would lead its thread to an address that cannot be fetched has no effect and takes
the fault of that fetch; its own checks and faults come first (R146; DEDUCED, log 21). -/
def State.runs (s : State) (i : Instr) : Host.Outcome State Fault Refusal :=
  match s.issuer, exec i s with
  | some e, .next t => .next (
    if e.wentOn t then
      match (s.leadsOn e i).2 with
      | some (code, sub, a) => (s.pop.faultAt e code sub a).passed s.issuing.head?
      | none => t
    else t)
  | _, o => o

end Sys2Proof.Machine
end

