-- ==== Sys2Proof/Machine/Step.lean ====
section
/-! DEFINITION. One step of the package, and a state in which a given instruction is fetched next. -/

namespace Sys2Proof.Machine

/-- One step: the next turn's instruction is run, with the fetch a word leads to (R146), or its state is the next (log 2,
log 4). -/
def step (s : State) : Host.Outcome State Fault Refusal :=
  match s.turn with
  | .run i s => s.runs i
  | .pass s => .next s

/-- `s` with a thread of a running kernel that is the next to issue and stands at the instruction whose bits are `w` (log 18). -/
def State.withFetchWord (s : State) (nbits w : Nat) : State := s.standAt nbits w

end Sys2Proof.Machine
end

