-- ==== Sys2Proof/Safety.lean ====
section
/-! DEFINITION. The words in which claims are made: when a thread's word issues (`State.Issues`), what a word that acts on
its thread does (`ThreadWord`), what an instruction may write, and the invariant of the memory. -/

namespace Sys2Proof.Machine

/-- Word `i` issues for thread `e`: the thread is selected, the word passes the checks of R62 steps 3 and 4, and its guard
holds. -/
def State.Issues (s : State) (i : Instr) (e : Env) : Prop :=
  s.issuer = some e ∧ checkWord i e.k = none ∧ e.t.guard (guardOf i) = true

/-- Word `i`, wherever it issues, completes: its thread is left as `f` makes it and stands after the word. -/
def ThreadWord (i : Instr) (f : Thread → Thread) : Prop :=
  ∀ s e, s.Issues i e → exec i s = .next (s.pop.retire e (f e.t) (wordsOf i))

/-- Word `i`, wherever it issues for a thread that meets `p`, completes. -/
def ThreadWordIf (p : Thread → Prop) (i : Instr) (f : Thread → Thread) : Prop :=
  ∀ s e, s.Issues i e → p e.t → exec i s = .next (s.pop.retire e (f e.t) (wordsOf i))

/-- Word `i`, wherever it issues for a thread that meets `p`, takes a fault at the word itself. -/
def ThreadFault (p : Thread → Prop) (i : Instr) (code sub : Byte) : Prop :=
  ∀ s e, s.Issues i e → p e.t → exec i s = .next (s.pop.faultAt e code sub 0)

/-- The group once thread `e` waits at its convergent word, and the live threads of its warp (R140). -/
def Env.arrived (e : Env) : Group := e.gr.modThread e.tid fun t => { t with run := .waiting .converge }
def Env.lanes (e : Env) : List Thread := e.arrived.liveIn (warpOf e.tid)

/-- X[r] of lane `l`; zero where no live thread stands (R190). -/
def Env.lane (e : Env) (r : BitVec 6) (l : Nat) : W32 := (laneX e.lanes r).getD l 0

/-- Convergent word `i`, where it issues for the last thread to arrive, executes once for every live thread of the warp: each
is left as `f` makes it and stands after the word; `rnf` says whether CHKSTAT.RNF is set. -/
def LaneWord (i : Instr) (f : Env → Thread → Thread) (rnf : Env → Bool := fun _ => false) : Prop :=
  ∀ s e, s.Issues i e → e.arrived.converged e.t = true →
    exec i s = .next (
      let s := s.pop.waitAt e .converge
      let s := if rnf e then s.modGroup e.g fun gr => gr.modWarp (warpOf e.tid) fun w => { w with chkstat := w.chkstat ||| 1 }
        else s
      s.retireEach e (e.lanes.map fun t => ({ f e t with run := .runnable } : Thread).advance 1))

/-- SRD of register `n`, wherever it issues, writes the low 32 bits of what `v` says to X[D]; nothing else but PTIMEH, which a
read of PTIME latches, changes. -/
def Srd (n : Nat) (v : State → Env → Nat) : Prop :=
  ∀ (d : BitVec 6) s e, s.Issues (.srd d (BitVec.ofNat 12 n)) e →
    exec (.srd d (BitVec.ofNat 12 n)) s = .next (s.pop.retire e
      (({ e.t with ptimeh := if n = 0x050 then BitVec.ofNat 32 (s.time / 2 ^ 32) else e.t.ptimeh } : Thread).setX d
        (BitVec.ofNat 32 (v s e))) 1)

/-- SWR of register `n` from X[A], wherever it issues for a thread that meets `p`, completes: the group is left as `g` makes
it from the value, the thread as `t` does. -/
def Swr (n : Nat) (p : Thread → W32 → Prop) (g : Env → W32 → Group → Group) (t : Thread → W32 → Thread) : Prop :=
  ∀ (a : BitVec 6) s e, s.Issues (.swr a (BitVec.ofNat 12 n)) e → p e.t (e.t.getX a) →
    exec (.swr a (BitVec.ofNat 12 n)) s
      = .next ((s.pop.modGroup e.g (g e (e.t.getX a))).retire e (t e.t (e.t.getX a)) 1)

/-- Word `i` is an access of `n` bytes at the address `va` gives, as `q` asks: where it issues, is aligned, translates and finds
room in its counter, it is added to the accesses in flight and the thread goes on (R207, R208, R236). -/
def AccessIssues (i : Instr) (va : Env → W64) (n : Nat) (needs : Needs) (q : Env → Ask) : Prop :=
  ∀ s e s' pas vas node expiry, s.Issues i e → (va e).toNat % n = 0 →
    s.pop.mapAccess e.gr.ctx e.gr.core (va e).toNat n needs (q e).marked = (s', .ok pas vas node expiry) →
    fullFor (if (q e).kind.inL then e.warp.lq else e.warp.sq) e.op = false →
    exec i s = .next (
      ((s'.noteLane e i (va e).toNat).addAccess e
        { q e with va := va e, pas := pas, vas := vas, node := node, expiry := expiry, size := n }).retire e
          { e.t with again := none } 1)

/-- Word `i` is an access of `n` bytes of its group's scratch or deep scratch at the offset `o` gives. -/
def StorageIssues (i : Instr) (o : Env → Nat) (n : Nat) (q : Env → Ask) : Prop :=
  ∀ s e, s.Issues i e → o e % n = 0 →
    ((q e).level = .scratch ∧ o e + n ≤ 256 * e.k.scru ∧ e.gr.windowAt (o e) = none ∨
      (q e).level = .deep ∧ o e + n ≤ 4096 * e.k.deepu) →
    fullFor (if (q e).kind.inL then e.warp.lq else e.warp.sq) e.op = false →
    exec i s = .next ((s.pop.addAccess e
      { q e with va := BitVec.ofNat 64 (o e), pas := span (o e) n, vas := [], size := n, expiry := 0 }).retire e
        { e.t with again := none } 1)

/-- Word `i` signs register `n` for `e`'s thread as the last member of its set, none of whose accesses waits to be performed and
none of whose members still signs `n` or exits in this cycle; `m` is the set's lowest member under the number of the operation, which
issues now (R239, R292, R293). -/
def State.SignsLast (s : State) (i : Instr) (n : Nat) (e m : Env) : Prop :=
  s.Issues i e ∧ (e.gr.cv n).st ≠ .unset ∧ e.tid ∈ (e.gr.cv n).members ∧
    ((e.gr.cv n).st = .gathering → e.tid ∉ (e.gr.cv n).signed ∧ (e.gr.cv n).pc = e.t.pos.pc) ∧
    (∀ t ∈ (e.gr.cv n).members, t = e.tid ∨ t ∈ (e.gr.cv n).signed) ∧
    (∀ a ∈ s.accs, a.id ∉ (e.gr.cv n).waits ∧ ¬(a.grp = e.g ∧ a.tid = e.tid)) ∧
    (∀ x ∈ s.pop.issuing, x.grp = e.g → x.tid ∈ (e.gr.cv n).members → x.cv ≠ some n ∧ x.exits = false) ∧
    s.pop.free.2.envAt e.g (e.gr.cv n).lowest s.fresh = some m

/-- Register `n` stands READY again, `e`'s thread goes on, and so do the signers an ENQ or EVT held (R100, R110, R292, R293). -/
def State.signed (s : State) (e : Env) (n : Nat) : State :=
  (((s.modGroup e.g fun g => g.setCv n (e.gr.cv n).cleared).freeSigners e.g n).retire e e.t 1).passHeld e n none

/-- Word `i`, signed last, issues its tile operation where `ok` holds of the set's lowest member: it enters the core's matrix
queue and its warp's counter M, with the control registers and seeds it reads now (R236, R287, R291, R302). `tol`: it makes
its kernel TOLERANT. -/
def TileIssues (i : Instr) (n : Nat) (ok : Env → Prop) (tiles : List Nat) (kind : Env → Env → TileKind)
    (tol : Env → Bool := fun _ => false) : Prop :=
  ∀ s e m, s.SignsLast i n e m → ok m → (s.core m.gr.core).tileq.length < 8 → m.warp.mq.length < 63 →
    exec i s = .next (
      let c := s.core m.gr.core
      let o : TileOp := { id := m.op, grp := m.g, warp := warpOf m.tid, tid := m.tid, pc := e.t.pos.pc, kind := kind e m
                          tcs := tiles.map fun t => (t, m.gr.tcs.word t), seeds := m.gr.hseed, nbv := m.k.nbv, paged := none
                          asked := false, got := [], failed := none, wrote := 0 }
      let s := (s.pop.free.2.setCore m.gr.core { c with tileq := c.tileq ++ [o] }).modGroup m.g fun g =>
        g.modWarp (warpOf m.tid) fun w => { w with mq := w.mq ++ [m.op] }
      let s := if tol m then s.modKernel m.gr.kern fun k => { k with tolerant := true } else s
      s.signed e n)

/-- A control register whose tile an operation may read: its tag is not reserved and it is well-formed (R287). -/
def tcUsable (v : W32) : Prop := tagReserved (tcTag v) = false ∧ tcFormed v = true

/-- Word `i`, signed last, issues an engine command whose block at X[x] passes its checks: the command joins the batch (R250,
R251, R258). -/
def CommandIssues (i : Instr) (n : Nat) (kind : CmdKind) (x : BitVec 6) (y : Option (BitVec 6)) : Prop :=
  ∀ s e m, s.SignsLast i n e m →
    let off := (m.t.getX x).toNat
    let list := (y.map fun r => (m.t.getX r).toNat).getD 0
    let block := (List.range 8).map fun i => BitVec.ofNat 64 (m.gr.scratch.readN (off + 8 * i) 8)
    off % 64 = 0 → off + 64 ≤ 256 * m.k.scru → (y.isSome → list < 256 * m.k.scru) →
    blockCheck block kind false m.gr.scratch m.gr.windows (256 * m.k.scru) list = none → s.lastStalls m = false →
    ∃ t c, exec i s = .next t ∧ t.cmds = s.cmds ++ [c] ∧ c.kind = kind ∧ c.block = block ∧ c.list = list ∧
      c.owner = some (e.g, m.tid) ∧ c.pc = e.t.pos.pc ∧ c.st = .waiting ∧ c.seed = m.gr.seed (Block.tag block) ∧
      c.cluster = clusterOf m.gr.core ∧ (∀ no, m.warp.batch = some no → c.batch = no)

/-- A misaligned address is MISALIGNED with sub-code `sub` at the word (R207, R212). -/
def AccessMisaligned (i : Instr) (va : Env → W64) (n : Nat) (sub : Byte) : Prop :=
  ∀ s e, s.Issues i e → (va e).toNat % n ≠ 0 →
    exec i s = .next ((s.pop.modThread e.g e.tid fun t => { t with again := none }).faultAt e 0x06 sub (va e))

/-- A compare condition CC on two ordered numbers (R68, R161). -/
def ordered (c : BitVec 3) (x y : Int) : Bool :=
  match c.toNat with
  | 0 => decide (x = y)
  | 1 => decide (x ≠ y)
  | 2 => decide (x < y)
  | 3 => decide (x ≤ y)
  | 4 => decide (x > y)
  | 5 => decide (x ≥ y)
  | _ => false

/-- The registers a word writes. -/
def writesX (i : Instr) (r : BitVec 6) : Bool :=
  (regUses i).any fun u => u.wr && decide (u.reg.toNat ≤ r.toNat) && decide (r.toNat < u.reg.toNat + u.k)

/-- The predicates a word writes: ADDC, the compares and PLOG one, VOTE one, PMOV to the predicates all. -/
def writesP (i : Instr) (p : Nat) : Bool :=
  match i with
  | .pmov _ r => r != 0
  | .addc _ _ _ q => q.toNat == p
  | .cmpS32 q _ _ _ => q.toNat == p
  | .cmpZ32 q _ _ _ => q.toNat == p
  | .cmpS64 q _ _ _ => q.toNat == p
  | .cmpZ64 q _ _ _ => q.toNat == p
  | .cmpiS32 q _ _ _ => q.toNat == p
  | .cmpiZ32 q _ _ _ => q.toNat == p
  | .fcmpF32 q _ _ _ => q.toNat == p
  | .fcmpF16 q _ _ _ => q.toNat == p
  | .plog q _ _ _ => q.toNat == p
  | _ => false

/-- The words that act on their thread alone, by primary opcode: moves, integers, logic, bit fields and compares, scalar and
packed floats, conversions. -/
def actsOnThread (i : Instr) : Bool :=
  match (encode i).head? with
  | some w =>
    let op := w / 2 ^ 24
    op ≤ 0x05 || (0x08 ≤ op && op ≤ 0x49) || (0x50 ≤ op && op ≤ 0x79) || op == 0x7C
  | none => false

/-- A thread but for its monitor, which any write to its sector may wake (R218). -/
def State.still (s : State) (g tid : Nat) : Option Thread := (s.thread? g tid).map fun t => { t with monitor := none }

/-- The canonical form of the memory (log 1). -/
def State.Inv (s : State) : Prop := Memory.wf s.mem = true

end Sys2Proof.Machine
end

