-- ==== Sys2Proof/Certificates/Slice0/Obligations.lean ====
section
/-! DEFINITION. The statements about this machine that are to be proved. Each docstring names the rules it rests on. -/

open Sys2Proof Sys2Proof.Machine

/-! ### Moves, integers, logic, compares (08_thread_integer_control.md) -/

/-- R147 to R149: what the moves and selections leave in their destinations. R156: the logic words, with a 12-bit
operand extended by zeros. -/
def Obligations.MovesLogicResult : Prop :=
  (∀ (d a b g : BitVec 6) (i : BitVec 18) (x : W32) (r : BitVec 1),
    ThreadWord .nop id ∧
    ThreadWord (.mov d a g) (fun t => t.setX d (t.getX a)) ∧
    ThreadWord (.movi d i) (fun t => t.setX d (BitVec.ofInt 32 i.toInt)) ∧
    ThreadWord (.movhi d i) (fun t => t.setX d (BitVec.ofNat 32 (i.toNat % 2 ^ 14 * 2 ^ 18 + (t.getX d).toNat % 2 ^ 18))) ∧
    ThreadWord (.movx d i x) (fun t => (t.setX d x).setX (d + 1) (BitVec.ofInt 32 i.toInt)) ∧
    ThreadWord (.sel d a b g) (fun t => t.setX d (if t.guard g then t.getX a else t.getX b)) ∧
    ThreadWord (.pmov d r) (fun t =>
      if r = 0 then t.setX d (BitVec.ofNat 32 t.p.toNat) else { t with p := BitVec.ofNat 24 (t.getX d).toNat })) ∧
  (∀ (d a b g : BitVec 6) (i : BitVec 12),
    ThreadWord (.and d a b g) (fun t => t.setX d (t.getX a &&& t.getX b)) ∧
    ThreadWord (.or d a b g) (fun t => t.setX d (t.getX a ||| t.getX b)) ∧
    ThreadWord (.xor d a b g) (fun t => t.setX d (t.getX a ^^^ t.getX b)) ∧
    ThreadWord (.andn d a b g) (fun t => t.setX d (t.getX a &&& ~~~t.getX b)) ∧
    ThreadWord (.not d a g) (fun t => t.setX d (~~~t.getX a)) ∧
    ThreadWord (.andi d a i) (fun t => t.setX d (t.getX a &&& BitVec.ofNat 32 i.toNat)) ∧
    ThreadWord (.ori d a i) (fun t => t.setX d (t.getX a ||| BitVec.ofNat 32 i.toNat)) ∧
    ThreadWord (.xori d a i) (fun t => t.setX d (t.getX a ^^^ BitVec.ofNat 32 i.toNat)))

/-- R150, R151, R153: 32-bit arithmetic wraps, saturates or is exact over a pair, as the word says. R154, R155:
arithmetic over pairs is modulo 2^64; LEA scales a signed index. -/
def Obligations.IntegerResult : Prop :=
  (∀ (d a b c g : BitVec 6) (i : BitVec 12) (p : BitVec 5),
    ThreadWord (.add d a b g) (fun t => t.setX d (t.getX a + t.getX b)) ∧
    ThreadWord (.sub d a b g) (fun t => t.setX d (t.getX a - t.getX b)) ∧
    ThreadWord (.addi d a i) (fun t => t.setX d (t.getX a + BitVec.ofInt 32 i.toInt)) ∧
    ThreadWord (.neg d a g) (fun t => t.setX d (-t.getX a)) ∧
    ThreadWord (.absS32 d a g) (fun t => t.setX d (BitVec.ofNat 32 (t.getX a).toInt.natAbs)) ∧
    ThreadWord (.mul d a b g) (fun t => t.setX d (BitVec.ofNat 32 ((t.getX a).toNat * (t.getX b).toNat))) ∧
    ThreadWord (.mad d a b c) (fun t =>
      t.setX d (BitVec.ofNat 32 ((t.getX a).toNat * (t.getX b).toNat + (t.getX c).toNat))) ∧
    ThreadWord (.mulhS32 d a b g) (fun t => t.setX d (BitVec.ofInt 32 ((t.getX a).toInt * (t.getX b).toInt / 2 ^ 32))) ∧
    ThreadWord (.mulhZ32 d a b g) (fun t => t.setX d (BitVec.ofNat 32 ((t.getX a).toNat * (t.getX b).toNat / 2 ^ 32))) ∧
    ThreadWord (.mulwS32 d a b g) (fun t => t.setX2 d (BitVec.ofInt 64 ((t.getX a).toInt * (t.getX b).toInt))) ∧
    ThreadWord (.mulwZ32 d a b g) (fun t => t.setX2 d (BitVec.ofNat 64 ((t.getX a).toNat * (t.getX b).toNat))) ∧
    ThreadWord (.minS32 d a b g) (fun t => t.setX d (BitVec.ofInt 32 (min (t.getX a).toInt (t.getX b).toInt))) ∧
    ThreadWord (.maxS32 d a b g) (fun t => t.setX d (BitVec.ofInt 32 (max (t.getX a).toInt (t.getX b).toInt))) ∧
    ThreadWord (.minZ32 d a b g) (fun t => t.setX d (BitVec.ofNat 32 (min (t.getX a).toNat (t.getX b).toNat))) ∧
    ThreadWord (.maxZ32 d a b g) (fun t => t.setX d (BitVec.ofNat 32 (max (t.getX a).toNat (t.getX b).toNat))) ∧
    ThreadWord (.addSatS32 d a b g) (fun t =>
      t.setX d (BitVec.ofInt 32 (max (-2 ^ 31) (min (2 ^ 31 - 1) ((t.getX a).toInt + (t.getX b).toInt))))) ∧
    ThreadWord (.subSatS32 d a b g) (fun t =>
      t.setX d (BitVec.ofInt 32 (max (-2 ^ 31) (min (2 ^ 31 - 1) ((t.getX a).toInt - (t.getX b).toInt))))) ∧
    ThreadWord (.addSatZ32 d a b g) (fun t =>
      t.setX d (BitVec.ofNat 32 (min (2 ^ 32 - 1) ((t.getX a).toNat + (t.getX b).toNat)))) ∧
    ThreadWord (.subSatZ32 d a b g) (fun t => t.setX d (BitVec.ofNat 32 ((t.getX a).toNat - (t.getX b).toNat))) ∧
    ThreadWord (.addc d a b p) (fun t =>
      (t.setX d (BitVec.ofNat 32 ((t.getX a).toNat + (t.getX b).toNat + (t.getP p.toNat).toNat))).setP p.toNat
        (decide (2 ^ 32 ≤ (t.getX a).toNat + (t.getX b).toNat + (t.getP p.toNat).toNat)))) ∧
  (∀ (d a b g n : BitVec 6) (i : BitVec 12) (k : BitVec 3),
    ThreadWord (.add64 d a b g) (fun t => t.setX2 d (t.getX2 a + t.getX2 b)) ∧
    ThreadWord (.sub64 d a b g) (fun t => t.setX2 d (t.getX2 a - t.getX2 b)) ∧
    ThreadWord (.addi64 d a i) (fun t => t.setX2 d (BitVec.ofInt 64 ((t.getX2 a).toInt + i.toInt))) ∧
    ThreadWord (.shl64i d a n) (fun t => t.setX2 d (BitVec.ofNat 64 ((t.getX2 a).toNat * 2 ^ n.toNat))) ∧
    ThreadWord (.shr64i d a n) (fun t => t.setX2 d (BitVec.ofNat 64 ((t.getX2 a).toNat / 2 ^ n.toNat))) ∧
    ThreadWord (.lea d a b k) (fun t =>
      t.setX2 d (BitVec.ofInt 64 ((t.getX2 a).toInt + (t.getX b).toInt * 2 ^ k.toNat))))

/-- R152: a quotient truncates toward zero and a remainder takes the dividend's sign; the most negative number divided
by −1 gives itself, with remainder 0; a zero divisor raises DIVIDE_ZERO at the word and writes no register. -/
def Obligations.DivisionResult : Prop :=
  ∀ (d a b g : BitVec 6),
    ThreadWordIf (fun t => t.getX b ≠ 0) (.divS32 d a b g) (fun t => t.setX d ((t.getX a).sdiv (t.getX b))) ∧
    ThreadWordIf (fun t => t.getX b ≠ 0) (.divZ32 d a b g) (fun t => t.setX d ((t.getX a) / (t.getX b))) ∧
    ThreadWordIf (fun t => t.getX b ≠ 0) (.remS32 d a b g) (fun t => t.setX d ((t.getX a).srem (t.getX b))) ∧
    ThreadWordIf (fun t => t.getX b ≠ 0) (.remZ32 d a b g) (fun t => t.setX d ((t.getX a) % (t.getX b))) ∧
    ThreadFault (fun t => t.getX b = 0) (.divS32 d a b g) 0x07 0x01 ∧
    ThreadFault (fun t => t.getX b = 0) (.divZ32 d a b g) 0x07 0x01 ∧
    ThreadFault (fun t => t.getX b = 0) (.remS32 d a b g) 0x07 0x02 ∧
    ThreadFault (fun t => t.getX b = 0) (.remZ32 d a b g) 0x07 0x02

/-- R157: a shift by its whole amount: 0 from 32 on, or the sign; a rotation takes the amount mod 32. R158, R159,
R160: counts, reversal, bit fields and keys, bit by bit. -/
def Obligations.ShiftFieldResult : Prop :=
  (∀ (d a b g : BitVec 6) (n : BitVec 5),
    ThreadWord (.shl d a b g) (fun t =>
      t.setX d (if (t.getX b).toNat < 32 then t.getX a <<< (t.getX b).toNat else 0)) ∧
    ThreadWord (.shr d a b g) (fun t =>
      t.setX d (if (t.getX b).toNat < 32 then t.getX a >>> (t.getX b).toNat else 0)) ∧
    ThreadWord (.sra d a b g) (fun t =>
      t.setX d (if (t.getX b).toNat < 32 then (t.getX a).sshiftRight (t.getX b).toNat
        else if (t.getX a).msb then 0xFFFFFFFF else 0)) ∧
    ThreadWord (.shli d a n) (fun t => t.setX d (t.getX a <<< n.toNat)) ∧
    ThreadWord (.shri d a n) (fun t => t.setX d (t.getX a >>> n.toNat)) ∧
    ThreadWord (.srai d a n) (fun t => t.setX d ((t.getX a).sshiftRight n.toNat)) ∧
    ThreadWord (.rotl d a b g) (fun t => t.setX d ((t.getX a).rotateLeft (t.getX b).toNat)) ∧
    ThreadWord (.rotli d a n) (fun t => t.setX d ((t.getX a).rotateLeft n.toNat))) ∧
  (∀ (d a g : BitVec 6) (l p : BitVec 5),
    ThreadWord (.popc d a g) (fun t => t.setX d (BitVec.ofNat 32 ((List.range 32).countP (t.getX a).getLsbD))) ∧
    ThreadWord (.clz d a g) (fun t => t.setX d (t.getX a).clz) ∧
    ThreadWord (.brev d a g) (fun t => t.setX d (t.getX a).reverse) ∧
    ThreadWord (.bfxZ d a l p) (fun t => t.setX d (((t.getX a) >>> p.toNat) &&& BitVec.ofNat 32 (2 ^ (l.toNat + 1) - 1))) ∧
    ThreadWord (.bfxS d a l p) (fun t =>
      t.setX d ((((t.getX a) >>> p.toNat) <<< (31 - l.toNat)).sshiftRight (31 - l.toNat))) ∧
    ThreadWord (.bfi d a l p) (fun t => t.setX d (BitVec.ofNat 32 (
      (t.getX d).toNat - (t.getX d).toNat / 2 ^ p.toNat % 2 ^ (l.toNat + 1) * 2 ^ p.toNat
        + (t.getX a).toNat % 2 ^ (l.toNat + 1) * 2 ^ p.toNat))) ∧
    ThreadWord (.fkeyF32 d a g) (fun t => t.setX d (
      if 0x7F800000 < (t.getX a).toNat % 2 ^ 31 then 0xFFFFFFFF
      else if (t.getX a).msb then ~~~(t.getX a) else t.getX a + 0x80000000)) ∧
    ThreadWord (.fkeyF16 d a g) (fun t => t.setX d (
      if 0x7C00 < (t.getX a).toNat % 2 ^ 15 then 0xFFFF
      else if (t.getX a).getLsbD 15 then BitVec.ofNat 32 (0xFFFF - (t.getX a).toNat % 2 ^ 16)
      else BitVec.ofNat 32 ((t.getX a).toNat % 2 ^ 16 + 0x8000))))

/-- R161 to R164: a compare writes whether its condition holds to its one predicate; an unordered float compare meets
NE and UN alone; PLOG applies its truth table, with index 31 reading as 1. -/
def Obligations.CompareResult : Prop :=
  ∀ (p a b i : BitVec 6) (c : BitVec 3) (pd pa pb : BitVec 5) (tt : BitVec 4),
    ThreadWord (.cmpS32 p a b c) (fun t => t.setP p.toNat (ordered c (t.getX a).toInt (t.getX b).toInt)) ∧
    ThreadWord (.cmpZ32 p a b c) (fun t => t.setP p.toNat (ordered c (t.getX a).toNat (t.getX b).toNat)) ∧
    ThreadWord (.cmpS64 p a b c) (fun t => t.setP p.toNat (ordered c (t.getX2 a).toInt (t.getX2 b).toInt)) ∧
    ThreadWord (.cmpZ64 p a b c) (fun t => t.setP p.toNat (ordered c (t.getX2 a).toNat (t.getX2 b).toNat)) ∧
    ThreadWord (.cmpiS32 p a i c) (fun t => t.setP p.toNat (ordered c (t.getX a).toInt i.toInt)) ∧
    ThreadWord (.cmpiZ32 p a i c) (fun t => t.setP p.toNat (ordered c (t.getX a).toNat i.toNat)) ∧
    ThreadWordIf (fun t => (f32 (t.getX a)).isNan || (f32 (t.getX b)).isNan) (.fcmpF32 p a b c)
      (fun t => t.setP p.toNat (decide (c = 1 ∨ c = 6))) ∧
    ThreadWordIf (fun t => !(f32 (t.getX a)).isNan && !(f32 (t.getX b)).isNan) (.fcmpF32 p a b c)
      (fun t => t.setP p.toNat (ccHolds c ((f32 (t.getX a)).lt (f32 (t.getX b))) ((f32 (t.getX a)).eqv (f32 (t.getX b))))) ∧
    ThreadWordIf (fun t => (f16Low (t.getX a)).isNan || (f16Low (t.getX b)).isNan) (.fcmpF16 p a b c)
      (fun t => t.setP p.toNat (decide (c = 1 ∨ c = 6))) ∧
    ThreadWordIf (fun t => !(f16Low (t.getX a)).isNan && !(f16Low (t.getX b)).isNan) (.fcmpF16 p a b c)
      (fun t => t.setP p.toNat
        (ccHolds c ((f16Low (t.getX a)).lt (f16Low (t.getX b))) ((f16Low (t.getX a)).eqv (f16Low (t.getX b))))) ∧
    ThreadWord (.plog pd pa pb tt) (fun t => t.setP pd.toNat (
      let x := pa = 31 || t.getP pa.toNat
      let y := pb = 31 || t.getP pb.toNat
      tt.getLsbD (if x then (if y then 3 else 2) else (if y then 1 else 0))))

/-! ### Floating point and lanes (09_thread_float_lanes.md) -/

/-- R179, R181, R182, R184: FP32 arithmetic is the exact value rounded once, to nearest or (RZ) toward zero. R183:
FABS clears bit 31 and FNEG inverts it; a NaN gives 0x7FC00000 from both. R185: each 16-bit half alone, rounded once
in its own format. R18, R180: every FP32 arithmetic word with a NaN operand writes the canonical NaN, a NaN in C of FFMA
and FFMA.RZ included. -/
def Obligations.FloatResult : Prop :=
  (∀ (d a b c g : BitVec 6),
    ThreadWord (.faddF32 d a b g) (fun t => t.setX d (toF32 ((f32 (t.getX a)).add (f32 (t.getX b))))) ∧
    ThreadWord (.fsubF32 d a b g) (fun t => t.setX d (toF32 ((f32 (t.getX a)).add (f32 (t.getX b)).neg))) ∧
    ThreadWord (.fmulF32 d a b g) (fun t => t.setX d (toF32 ((f32 (t.getX a)).mul (f32 (t.getX b))))) ∧
    ThreadWord (.fdivF32 d a b g) (fun t => t.setX d (toF32 (fdiv (f32 (t.getX a)) (f32 (t.getX b))))) ∧
    ThreadWord (.faddRzF32 d a b g) (fun t => t.setX d (toF32Rz ((f32 (t.getX a)).add (f32 (t.getX b))))) ∧
    ThreadWord (.ffmaF32 d a b c) (fun t =>
      t.setX d (toF32 (((f32 (t.getX a)).mul (f32 (t.getX b))).add (f32 (t.getX c))))) ∧
    ThreadWord (.ffmaRzF32 d a b c) (fun t =>
      t.setX d (toF32Rz (((f32 (t.getX a)).mul (f32 (t.getX b))).add (f32 (t.getX c))))) ∧
    ThreadWord (.fminF32 d a b g) (fun t => t.setX d (toF32 (fmin (f32 (t.getX a)) (f32 (t.getX b))))) ∧
    ThreadWord (.fmaxF32 d a b g) (fun t => t.setX d (toF32 (fmax (f32 (t.getX a)) (f32 (t.getX b))))) ∧
    ThreadWord (.frcpF32 d a g) (fun t => t.setX d (toF32 (frcp (f32 (t.getX a))))) ∧
    ThreadWord (.frsqF32 d a g) (fun t => t.setX d (toF32 (frsq (f32 (t.getX a))))) ∧
    ThreadWord (.fsqrtF32 d a g) (fun t => t.setX d (toF32 (fsqrt (f32 (t.getX a))))) ∧
    ThreadWord (.fexp2F32 d a g) (fun t => t.setX d (toF32 (fexp2 (f32 (t.getX a))))) ∧
    ThreadWord (.flog2F32 d a g) (fun t => t.setX d (toF32 (flog2 (f32 (t.getX a)))))) ∧
  (∀ (d a g : BitVec 6),
    ThreadWord (.fabsF32 d a g) (fun t => t.setX d (
      if 0x7F800000 < (t.getX a).toNat % 2 ^ 31 then 0x7FC00000 else BitVec.ofNat 32 ((t.getX a).toNat % 2 ^ 31))) ∧
    ThreadWord (.fnegF32 d a g) (fun t => t.setX d (
      if 0x7F800000 < (t.getX a).toNat % 2 ^ 31 then 0x7FC00000 else t.getX a + 0x80000000))) ∧
  (∀ (d a b c g : BitVec 6),
    let half := fun (f : Fmt) (x : W32) (i : Nat) => f.decode (x.toNat / 2 ^ (16 * i) % 2 ^ 16)
    let both := fun (f : Fmt) (r : Nat → FVal) => BitVec.ofNat 32 (f.encode (r 0) + f.encode (r 1) * 2 ^ 16)
    ThreadWord (.hadd2 d a b g) (fun t =>
      t.setX d (both .f16 fun i => (half .f16 (t.getX a) i).add (half .f16 (t.getX b) i))) ∧
    ThreadWord (.badd2 d a b g) (fun t =>
      t.setX d (both .bf16 fun i => (half .bf16 (t.getX a) i).add (half .bf16 (t.getX b) i))) ∧
    ThreadWord (.hmul2 d a b g) (fun t =>
      t.setX d (both .f16 fun i => (half .f16 (t.getX a) i).mul (half .f16 (t.getX b) i))) ∧
    ThreadWord (.bmul2 d a b g) (fun t =>
      t.setX d (both .bf16 fun i => (half .bf16 (t.getX a) i).mul (half .bf16 (t.getX b) i))) ∧
    ThreadWord (.hfma2 d a b c) (fun t => t.setX d (both .f16 fun i =>
      ((half .f16 (t.getX a) i).mul (half .f16 (t.getX b) i)).add (half .f16 (t.getX c) i))) ∧
    ThreadWord (.bfma2 d a b c) (fun t => t.setX d (both .bf16 fun i =>
      ((half .bf16 (t.getX a) i).mul (half .bf16 (t.getX b) i)).add (half .bf16 (t.getX c) i))) ∧
    ThreadWord (.hmin2 d a b g) (fun t =>
      t.setX d (both .f16 fun i => fmin (half .f16 (t.getX a) i) (half .f16 (t.getX b) i))) ∧
    ThreadWord (.bmin2 d a b g) (fun t =>
      t.setX d (both .bf16 fun i => fmin (half .bf16 (t.getX a) i) (half .bf16 (t.getX b) i))) ∧
    ThreadWord (.hmax2 d a b g) (fun t =>
      t.setX d (both .f16 fun i => fmax (half .f16 (t.getX a) i) (half .f16 (t.getX b) i))) ∧
    ThreadWord (.bmax2 d a b g) (fun t =>
      t.setX d (both .bf16 fun i => fmax (half .bf16 (t.getX a) i) (half .bf16 (t.getX b) i)))) ∧
  (∀ (d a b c g : BitVec 6) (i : Instr),
    i ∈ [Instr.faddF32 d a b g, .fsubF32 d a b g, .fmulF32 d a b g, .fdivF32 d a b g, .faddRzF32 d a b g, .fminF32 d a b g,
      .fmaxF32 d a b g, .ffmaF32 d a b c, .ffmaRzF32 d a b c] →
    ThreadWordIf (fun t => (f32 (t.getX a)).isNan || (f32 (t.getX b)).isNan) i (fun t => t.setX d 0x7FC00000)) ∧
  (∀ (d a b c : BitVec 6) (i : Instr), i = .ffmaF32 d a b c ∨ i = .ffmaRzF32 d a b c →
    ThreadWordIf (fun t => (f32 (t.getX c)).isNan) i (fun t => t.setX d 0x7FC00000))

/-- R186, R189: the scalar conversions and the widening of one narrow element. -/
def Obligations.ConversionResult : Prop :=
  ∀ (d a g : BitVec 6) (k : BitVec 4),
    ThreadWord (.cvtF32S32 d a g) (fun t => t.setX d (toF32 (FVal.ofInt (t.getX a).toInt 0))) ∧
    ThreadWord (.cvtF32Z32 d a g) (fun t => t.setX d (toF32 (FVal.ofInt (t.getX a).toNat 0))) ∧
    ThreadWord (.cvtS32F32Rz d a g) (fun t =>
      t.setX d (BitVec.ofInt 32 (toIntSat true (-2147483648) 2147483647 (f32 (t.getX a))))) ∧
    ThreadWord (.cvtS32F32Rn d a g) (fun t =>
      t.setX d (BitVec.ofInt 32 (toIntSat false (-2147483648) 2147483647 (f32 (t.getX a))))) ∧
    ThreadWord (.cvtZ32F32Rz d a g) (fun t =>
      t.setX d (BitVec.ofInt 32 (toIntSat true 0 4294967295 (f32 (t.getX a))))) ∧
    ThreadWord (.cvtF16F32 d a g) (fun t => t.setX d (BitVec.ofNat 32 (Fmt.f16.encode (f32 (t.getX a))))) ∧
    ThreadWord (.cvtF16F32Sat d a g) (fun t => t.setX d (BitVec.ofNat 32 (Fmt.f16.saturate (f32 (t.getX a))))) ∧
    ThreadWord (.cvtBf16F32 d a g) (fun t => t.setX d (BitVec.ofNat 32 (Fmt.bf16.encode (f32 (t.getX a))))) ∧
    ThreadWord (.cvtF32F16 d a g) (fun t => t.setX d (toF32 (Fmt.f16.decode ((t.getX a).toNat % 2 ^ 16)))) ∧
    ThreadWord (.cvtF32Bf16 d a g) (fun t => t.setX d (toF32 (Fmt.bf16.decode ((t.getX a).toNat % 2 ^ 16)))) ∧
    (∀ f, Fmt.ofCode k.toNat = some f → ThreadWord (.cvtw d a k) (fun t =>
      t.setX d (toF32 (f.decode ((t.getX a).toNat % 2 ^ f.width)))))

/-- R15, R18, R22: a pattern of a binary format that is no NaN stands for a value that rounds back to it. -/
def Obligations.RoundTripFormat : Prop :=
  ∀ (f : Fmt) (p : Nat), f ∈ [Fmt.f32, .bf16, .f16, .e4m3, .e5m2, .e2m3, .e3m2, .e2m1] → p < 2 ^ f.width →
    (f.decode p).isNan = false → f.encode (f.decode p) = p

/-- R140, R190: a thread that reaches a convergent word before a live thread of its warp waits there, keeps its
position, and changes nothing else. -/
def Obligations.ConvergentWait : Prop :=
  ∀ (d a b : BitVec 6) (m : BitVec 7) (k : BitVec 3) (o : BitVec 5) (u : BitVec 2) (n : BitVec 1) (q : BitVec 4) (i : Instr),
    i ∈ [Instr.xshf d a m, .xshfw d a k, .red d a o, .scan d a o n, .vote d a u, .permb d a b n, .cvtb d a q o, .widb d a q o] →
    ∀ s e, s.Issues i e → e.arrived.converged e.t = false →
      exec i s = .next (s.pop.modThread e.g e.tid fun t => { t with run := .waiting .converge })

/-- R191, R195, R196: what XSHF, XSHFW, VOTE and PERMB give each live thread. R192 to R194: RED and SCAN of every
operation, in the order of R36 under the kernel's NBV. -/
def Obligations.LaneResult : Prop :=
  (∀ (d a b : BitVec 6) (m : BitVec 7) (k : BitVec 3) (u : BitVec 2) (n : BitVec 1),
    LaneWord (.xshf d a m) (fun e t => t.setX d (e.lane a (laneOf t.tid ^^^ m.toNat))) ∧
    LaneWord (.xshfw d a k) (fun e t => t.setX d (e.lane a (laneOf t.tid ^^^ 64 / 2 ^ k.toNat))) ∧
    LaneWord (.vote d a u) (fun e t =>
      let yes := fun l => ((laneThread e.lanes l).map fun t => t.guard a).getD false
      let all := (List.range 64).all yes
      let any := (List.range 64).any yes
      if u = 0 then t.setP d.toNat all
      else if u = 1 then t.setP d.toNat any
      else if u = 2 then t.setP d.toNat (all == any)
      else t.setX2 d (BitVec.ofNat 64 (((List.range 64).map fun l => if yes l then 2 ^ l else 0).sum))) ∧
    LaneWord (.permb d a b n) (fun e t =>
      let table := fun j => (e.lane b (laneOf t.tid / 16 * 16 + j / 4)).toNat / 2 ^ (8 * (j % 4)) % 2 ^ 8
      t.setX d (BitVec.ofNat 32 (((List.range 4).map fun j =>
        table ((t.getX a).toNat / 2 ^ (8 * j + 4 * n.toNat) % 16) * 2 ^ (8 * j)).sum)))) ∧
  (∀ (d a : BitVec 6) (o : BitVec 5),
    LaneWord (.red d a o) (fun e t => t.setX d (redScan o.toNat e.k.nbv (laneX e.lanes a)).1) ∧
    LaneWord (.scan d a o 0) (fun e t => t.setX d ((redScan o.toNat e.k.nbv (laneX e.lanes a)).2.getD (laneOf t.tid) 0)) ∧
    LaneWord (.scan d a o 1) (fun e t => t.setX d (if laneOf t.tid = 0 then redIdentity o.toNat
      else (redScan o.toNat e.k.nbv (laneX e.lanes a)).2.getD (laneOf t.tid - 1) 0)))

/-- R192: the integer operations of RED and SCAN give the same value in every order: the combination of the lanes from
the operation's identity. -/
def Obligations.ReductionIsFold : Prop :=
  ∀ (o nbv : Nat) (v : List W32), o = 0 ∨ (2 ≤ o ∧ o ≤ 8) → v.length = 64 →
    (redScan o nbv v).1 = v.foldl (redOp o) (redIdentity o) ∧
    ∀ l, l < 64 → (redScan o nbv v).2.getD l 0 = (v.take (l + 1)).foldl (redOp o) (redIdentity o)

/-- R39 to R43, R187, R188: a block of 16 lanes is rotated (CVTB) or unrotated (WIDB) as a whole under the seed of
TAG; a block that is not finite gives the format's NaN in every lane and sets CHKSTAT.RNF. -/
def Obligations.RotatingResult : Prop :=
  ∀ (d a : BitVec 6) (q : BitVec 4) (tag : BitVec 5) (f : Fmt), Fmt.ofCode q.toNat = some f →
    (let rot := fun (e : Env) (b : Nat) =>
        rotateBlock (e.gr.seed tag.toNat) b ((List.range 16).map fun j => f32 (e.lane a (16 * b + j)))
     LaneWord (.cvtb d a q tag)
      (fun e t => t.setX d (match rot e (laneOf t.tid / 16) with
        | none => BitVec.ofNat 32 f.nanCode
        | some ys => BitVec.ofNat 32 (f.saturate (ys.getD (laneOf t.tid % 16) .zero))))
      (fun e => e.lanes.any fun t => (rot e (laneOf t.tid / 16)).isNone)) ∧
    (let unrot := fun (e : Env) (b : Nat) =>
        unrotateBlock (e.gr.seed tag.toNat) b ((List.range 16).map fun j => match laneThread e.lanes (16 * b + j) with
          | some u => f.decode ((u.getX a).toNat % 2 ^ f.width)
          | none => .zero)
     LaneWord (.widb d a q tag)
      (fun e t => t.setX d (match unrot e (laneOf t.tid / 16) with
        | none => 0x7FC00000
        | some zs => toF32 (zs.getD (laneOf t.tid % 16) .zero)))
      (fun e => e.lanes.any fun t => (unrot e (laneOf t.tid / 16)).isNone))

/-! ### Special registers and control (07_thread.md, 08_thread_integer_control.md, 12_barrier.md) -/

/-- R8, R73, R166: what each special register reads. R58, R73, R167: what a write of each writable special register
leaves; a RETRYMAX above 7 raises ILLEGAL_OP 0x07; XPCL and XPCH are ignored outside a handler and mark the saved
position as rewritten inside one, whose repeat state is gone. R306, R324: CKM sets its warp's mode; entering EXACT pins the
core's trim, leaving
it restores the trim kept. -/
def Obligations.SpecialRegisters : Prop :=
  (let ctx := fun (f : Ctx → Nat) (s : State) (e : Env) => ((s.ctx? e.gr.ctx).map f).getD 0
  let trap := fun (f : Handler → Nat) (_ : State) (e : Env) => (e.t.handler.map f).getD 0
  Srd 0x000 (fun _ _ => 64) ∧ Srd 0x001 (fun _ e => e.tid) ∧ Srd 0x002 (fun _ e => e.tid % 64) ∧
  Srd 0x003 (fun _ e => e.tid / 64) ∧ Srd 0x004 (fun _ e => e.gr.gx) ∧ Srd 0x005 (fun _ e => e.gr.gy) ∧
  Srd 0x006 (fun _ e => e.gr.gz) ∧ Srd 0x008 (fun _ e => e.k.gdimx) ∧ Srd 0x009 (fun _ e => e.k.gdimy) ∧
  Srd 0x00A (fun _ e => e.k.gdimz) ∧ Srd 0x00C (fun _ e => e.k.gszx) ∧ Srd 0x00D (fun _ e => e.k.gszy) ∧
  Srd 0x00E (fun _ e => e.k.gszz) ∧ Srd 0x010 (fun _ e => e.k.id) ∧ Srd 0x011 (fun _ e => e.gr.ctx) ∧
  Srd 0x012 (fun _ e => Config.coreNumber e.gr.firstCore) ∧ Srd 0x013 (fun _ e => e.k.nbv) ∧ Srd 0x014 (fun _ e => e.t.repidx) ∧
  Srd 0x015 (fun _ e => e.k.allot) ∧ Srd 0x016 (fun _ e => e.k.agel) ∧ Srd 0x017 (ctx Ctx.tenant) ∧
  (∀ j, j < 8 → Srd (0x020 + j) (fun _ e => (e.gr.seed j).toNat)) ∧
  (∀ j, j < 16 → Srd (0x030 + j) (fun _ e => (e.gr.tcs.word j).toNat % 2 ^ 25)) ∧
  Srd 0x040 (fun _ e => e.warp.chkstat.toNat) ∧ Srd 0x041 (fun _ e => e.gr.retrymax.toNat) ∧
  Srd 0x042 (fun _ e => e.warp.mode) ∧ Srd 0x043 (ctx fun c => c.snum + c.sden * 2 ^ 16) ∧
  Srd 0x044 (fun s e => (s.core e.gr.core).trim) ∧ Srd 0x050 (fun s _ => s.time) ∧
  Srd 0x051 (fun _ e => e.t.ptimeh.toNat) ∧ Srd 0x060 (fun s e => s.dstat e.gr.core) ∧ Srd 0x061 (ctx Ctx.deep) ∧
  Srd 0x070 (trap fun h => h.code.toNat + h.sub.toNat * 2 ^ 8) ∧ Srd 0x071 (trap fun h => h.saved.pc.toNat) ∧
  Srd 0x072 (trap fun h => h.saved.pc.toNat / 2 ^ 32) ∧ Srd 0x073 (trap fun h => h.addr.toNat) ∧
  Srd 0x074 (trap fun h => h.addr.toNat / 2 ^ 32)) ∧
  ((∀ j, j < 8 → Swr (0x020 + j) (fun _ _ => True)
    (fun _ v gr => { gr with hseed := Tbl.set 0 gr.hseed j v }) (fun t _ => t)) ∧
  (∀ j, j < 16 → Swr (0x030 + j) (fun _ _ => True)
    (fun _ v gr => { gr with tcs := gr.tcs.setWord j (v &&& 0x1FFFFFF) }) (fun t _ => t)) ∧
  Swr 0x040 (fun _ _ => True)
    (fun e v gr => gr.modWarp (warpOf e.tid) fun w => { w with chkstat := v &&& 0x00FFFF0F }) (fun t _ => t) ∧
  Swr 0x041 (fun _ v => v.toNat ≤ 7) (fun _ v gr => { gr with retrymax := v }) (fun t _ => t) ∧
  (∀ (a : BitVec 6) s e, s.Issues (.swr a 0x041) e → 7 < (e.t.getX a).toNat →
    exec (.swr a 0x041) s = .next (s.pop.faultAt e 0x01 0x07 0)) ∧
  (∀ (a : BitVec 6) (n : BitVec 12) s e, n = 0x071 ∨ n = 0x072 → s.Issues (.swr a n) e → e.t.handler = none →
    exec (.swr a n) s = .next (s.pop.retire e e.t 1)) ∧
  Swr 0x071 (fun t _ => t.handler.isSome) (fun _ _ gr => gr) (fun t v => { t with handler := t.handler.map fun h =>
    { h with saved := Pos.header (h.saved.pc.extractLsb' 32 32 ++ v), rep := none, moved := true } }) ∧
  Swr 0x072 (fun t _ => t.handler.isSome) (fun _ _ gr => gr) (fun t v => { t with handler := t.handler.map fun h =>
    { h with saved := Pos.header (v ++ h.saved.pc.extractLsb' 0 32), rep := none, moved := true } })) ∧
  (∀ (m : BitVec 2) s e, s.Issues (.ckm m) e →
    exec (.ckm m) s = .next (((s.pop.modGroup e.g fun gr => gr.modWarp (warpOf e.tid) fun w => { w with mode := m.toNat }).retire
      e e.t 1).slipCheck e.gr.core))

/-- R168: a taken BRA or BRX leaves the clause and stands before the header at its target; a target that is no header,
or for BRX not a word's address, is BAD_TARGET with the target as ADDR. R137, R170, R171: a call pushes the position
after its word, at most 31 deep; a return pops it. R138, R172: a REP whose word passes the checks stands at the word
with its repeat state, the word held in it, or for COUNT 0 after it; a REP that is the last word of its clause is
ILLEGAL_OP 0x08. R57: a word of another class is CLASS_MISMATCH; that a repeated word's is found at the REP and recorded
and saved at that word is the model's choice (log 21). -/
def Obligations.BranchCallRepeat : Prop :=
  ((∀ (o : BitVec 18) g s e s' w, s.Issues (.bra o g) e →
    s.pop.fetch e.gr (e.t.pos.pc + BitVec.ofInt 64 (4 * o.toInt)) = (s', .ok w) →
    exec (.bra o g) s = .next (
      if w / 2 ^ 24 = 0xC7 then s'.retireAt e { e.t with pos := ⟨e.t.pos.pc + BitVec.ofInt 64 (4 * o.toInt), 0, 0⟩ }
      else s'.faultAt e 0x03 0x01 (e.t.pos.pc + BitVec.ofInt 64 (4 * o.toInt)))) ∧
  (∀ (a g : BitVec 6) s e s' w, s.Issues (.brx a g) e → (e.t.getX2 a).toNat % 4 = 0 →
    s.pop.fetch e.gr (e.t.getX2 a) = (s', .ok w) →
    exec (.brx a g) s = .next (
      if w / 2 ^ 24 = 0xC7 then s'.retireAt e { e.t with pos := ⟨e.t.getX2 a, 0, 0⟩ }
      else s'.faultAt e 0x03 0x02 (e.t.getX2 a))) ∧
  (∀ (a g : BitVec 6) s e, s.Issues (.brx a g) e → (e.t.getX2 a).toNat % 4 ≠ 0 →
    exec (.brx a g) s = .next (s.pop.faultAt e 0x03 0x03 (e.t.getX2 a)))) ∧
  ((∀ (o : BitVec 18) g s e s' w, s.Issues (.call o g) e → e.t.stack.length < 31 →
    s.pop.fetch e.gr (e.t.pos.pc + BitVec.ofInt 64 (4 * o.toInt)) = (s', .ok w) → w / 2 ^ 24 = 0xC7 →
    exec (.call o g) s = .next (s'.retireAt e { e.t with
      pos := ⟨e.t.pos.pc + BitVec.ofInt 64 (4 * o.toInt), 0, 0⟩
      stack := ⟨e.t.pos.pc + 4, e.t.pos.left - 1, e.t.pos.hdr⟩ :: e.t.stack })) ∧
  (∀ (a g : BitVec 6) s e s' w, s.Issues (.callx a g) e → e.t.stack.length < 31 → (e.t.getX2 a).toNat % 4 = 0 →
    s.pop.fetch e.gr (e.t.getX2 a) = (s', .ok w) → w / 2 ^ 24 = 0xC7 →
    exec (.callx a g) s = .next (s'.retireAt e { e.t with
      pos := ⟨e.t.getX2 a, 0, 0⟩
      stack := ⟨e.t.pos.pc + 4, e.t.pos.left - 1, e.t.pos.hdr⟩ :: e.t.stack })) ∧
  (∀ (o : BitVec 18) (a g : BitVec 6) i s e, i = Instr.call o g ∨ i = .callx a g → s.Issues i e → 31 ≤ e.t.stack.length →
    exec i s = .next (s.pop.faultAt e 0x01 0x15 0)) ∧
  (∀ (g : BitVec 6) s e p ps, s.Issues (.ret g) e → e.t.stack = p :: ps →
    exec (.ret g) s = .next (s.pop.retireAt e { e.t with pos := p, stack := ps })) ∧
  (∀ (g : BitVec 6) s e, s.Issues (.ret g) e → e.t.stack = [] →
    exec (.ret g) s = .next (s.pop.faultAt e 0x01 0x16 0))) ∧
  ((∀ (c : BitVec 8) (m st : BitVec 4) s e s' w, s.Issues (.rep c m st) e → 1 < e.t.pos.left →
    s.pop.fetch e.gr (e.t.pos.pc + 4) = (s', .ok w) → repCheck e.t.pos.hdr e.k c.toNat m.toNat st.toNat w = none →
    exec (.rep c m st) s = .next (
      if c = 0 then s'.retire e e.t 2
      else s'.retireAt e { e.t with rep := some ⟨c.toNat, st.toNat, m, 0, BitVec.ofNat 32 w⟩, pos := e.t.pos.skip 1 })) ∧
  (∀ (c : BitVec 8) (m st : BitVec 4) s e s' w sub, s.Issues (.rep c m st) e → 1 < e.t.pos.left →
    s.pop.fetch e.gr (e.t.pos.pc + 4) = (s', .ok w) → classSub e.t.pos.hdr w = some sub →
    exec (.rep c m st) s = .next (s'.deliver e.g e.tid ⟨0x04, sub, 0, e.t.pos.pc + 4, e.t.pos.skip 1, false⟩)) ∧
  (∀ (c : BitVec 8) (m st : BitVec 4) s e, s.Issues (.rep c m st) e → e.t.pos.left ≤ 1 →
    exec (.rep c m st) s = .next (s.pop.faultAt e 0x01 0x08 0)))

/-- R174, R360: TRAP and, with no debugger, BKPT raise their fault with the code's low byte as sub-code, the code as
address, and the position after the word saved (the last word of a clause leaves it, R53); with a debugger BKPT stops
the thread after the word. R58, R128, R176,
R177: RFT resumes at the saved position within its clause, or, when the handler wrote XPCL or XPCH, before the header
there; the handler flag is gone and the call stack is as it stands; the thread's HALTG holds are removed. -/
def Obligations.TrapAndReturn : Prop :=
  ((∀ (c : BitVec 16) s e, s.Issues (.trap c) e →
    exec (.trap c) s = .next ((if e.t.pos.left ≤ 1 then s.pop.leaveClause e else s.pop).deliver e.g e.tid
      ⟨0x7F, BitVec.ofNat 8 c.toNat, BitVec.ofNat 64 c.toNat, e.t.pos.pc, e.t.pos.skip 1, false⟩)) ∧
  (∀ (c : BitVec 16) s e, s.Issues (.bkpt c) e → (s.ctx? e.gr.ctx).bind Ctx.debug = none →
    exec (.bkpt c) s = .next ((if e.t.pos.left ≤ 1 then s.pop.leaveClause e else s.pop).deliver e.g e.tid
      ⟨0x70, BitVec.ofNat 8 c.toNat, BitVec.ofNat 64 c.toNat, e.t.pos.pc, e.t.pos.skip 1, false⟩)) ∧
  (∀ (c : BitVec 16) s e scope, s.Issues (.bkpt c) e → (s.ctx? e.gr.ctx).bind Ctx.debug = some scope →
    exec (.bkpt c) s = .next (s.pop.breakAt e (BitVec.ofNat 8 c.toNat) (BitVec.ofNat 64 c.toNat) scope (e.t.advance 1)))) ∧
  ((∀ s e h, s.Issues .rft e → e.t.handler = some h → h.moved = false →
    exec .rft s = .next ((if e.gr.holder = some e.tid then s.pop.dropHolds e.g else s.pop).retireAt e
      { e.t with handler := none, rep := h.rep, pos := h.saved })) ∧
  (∀ s e h s' w, s.Issues .rft e → e.t.handler = some h → h.moved = true → h.saved.pc.toNat % 4 = 0 →
    s.pop.fetch e.gr h.saved.pc = (s', .ok w) → w / 2 ^ 24 = 0xC7 →
    exec .rft s = .next ((if e.gr.holder = some e.tid then s'.dropHolds e.g else s').retireAt e
      { e.t with handler := none, rep := none, pos := ⟨h.saved.pc, 0, 0⟩ })) ∧
  (∀ s e, s.Issues .rft e → e.t.handler = none → exec .rft s = .next (s.pop.faultAt e 0x01 0x18 0)))

/-- R240, R292: a WAIT closes the open batch; with every counter it asks for at or below its threshold, and no
signature of the thread outstanding in a class it covers, the thread goes on; else it waits at the word. R220: MWAIT
gives 0 with no monitor armed, the code of a monitor already woken, 7 for a time-out of 0, and disarms the monitor;
else the thread waits; at its time-out, where it gives one, the wait ends. -/
def Obligations.WaitResult : Prop :=
  (∀ (m c st l : BitVec 3) s e e', s.Issues (.wait m c st l) e → e.warp.cannotClose = false →
    ((s.pop.closeBatch e.g (warpOf e.tid)).retireOps e.g).envAt e.g e.tid e.op = some e' →
    let s' := (s.pop.closeBatch e.g (warpOf e.tid)).retireOps e.g
    let below := fun (q : List Nat) (n : BitVec 3) => n = 7 ∨ q.length ≤ n.toNat
    let met := below e'.warp.lq l ∧ below e'.warp.sq st ∧ below e'.warp.cq c ∧ below e'.warp.mq m ∧
      e'.gr.owes e.tid ⟨l.toNat, st.toNat, c.toNat, m.toNat⟩ = false
    (met → exec (.wait m c st l) s = .next (s'.retire e'
      { e'.t.found e'.warp ⟨l.toNat, st.toNat, c.toNat, m.toNat⟩ with run := .runnable } 1)) ∧
    (¬met → exec (.wait m c st l) s = .next (s'.waitAt e' (.counters ⟨l.toNat, st.toNat, c.toNat, m.toNat⟩)))) ∧
  (∀ (d a : BitVec 6) (te : BitVec 1) s e, s.Issues (.mwait d a te) e →
    (e.t.monitor = none → exec (.mwait d a te) s = .next (s.pop.retire e
      { e.t.setX d 0 with monitor := none, run := .runnable } 1)) ∧
    (∀ m c, e.t.monitor = some m → m.code = some c → exec (.mwait d a te) s = .next (s.pop.retire e
      { e.t.setX d (BitVec.ofNat 32 c) with monitor := none, run := .runnable } 1)) ∧
    (∀ m, e.t.monitor = some m → m.code = none → te = 1 → e.t.getX a = 0 →
      exec (.mwait d a te) s = .next (s.pop.retire e { e.t.setX d 7 with monitor := none, run := .runnable } 1)) ∧
    (∀ m, e.t.monitor = some m → m.code = none → te = 1 → e.t.getX a ≠ 0 →
      exec (.mwait d a te) s = .next ((s.pop.waitAt e (.monitor (some (s.time + 1000 * (e.t.getX a).toNat)))).after
        (1000 * (e.t.getX a).toNat) (.mwaitTimeout e.g e.tid))) ∧
    (∀ m, e.t.monitor = some m → m.code = none → te = 0 →
      exec (.mwait d a te) s = .next (s.pop.waitAt e (.monitor none))))

/-- R243 to R247: an arrival that leaves members unarrived sets the thread's PEND bit, and waits for SYNC; the last
one completes the generation; a thread that has arrived waits for the generation to arrive again; WAIT and TEST look at the
thread's PEND bit; BARCFG sets the members of an idle barrier. -/
def Obligations.BarrierResult : Prop :=
  ∀ (b : BitVec 4) (p : BitVec 5) (a : BitVec 6) s e,
    let bar := e.gr.bar b.toNat
    let joined : Barrier := { bar with pend := bar.pend ++ [e.tid] }
    let here := bar.wmask.getLsbD (warpOf e.tid) = true ∧ e.tid ∉ bar.pend ∧ s.pop.pending e.g e.tid = false
    let set := s.pop.modGroup e.g fun g => g.setBar b.toNat joined
    (s.Issues (.bar 0 b p) e → here → e.gr.allArrived joined = false →
      exec (.bar 0 b p) s = .next (set.retire e e.t 1)) ∧
    (s.Issues (.bar 2 b p) e → here → e.gr.allArrived joined = false →
      exec (.bar 2 b p) s = .next (set.waitAt e (.barrier b.toNat))) ∧
    (∀ o, o = 0 ∨ o = 2 → s.Issues (.bar o b p) e → bar.wmask.getLsbD (warpOf e.tid) = true → e.tid ∈ bar.pend →
      s.pop.pending e.g e.tid = false →
      exec (.bar o b p) s = .next (s.pop.waitAt e (.rearrive b.toNat (decide (o = 2))))) ∧
    (∀ o, o = 0 ∨ o = 2 → s.Issues (.bar o b p) e → here → e.gr.allArrived joined = true →
      exec (.bar o b p) s = .next ((set.completeBar e b.toNat).retire e e.t 1)) ∧
    (∀ o, o = 0 ∨ o = 2 → s.Issues (.bar o b p) e → bar.wmask.getLsbD (warpOf e.tid) = false →
      exec (.bar o b p) s = .next (s.pop.faultAt e 0x33 0x02 0)) ∧
    (s.Issues (.bar 1 b p) e → exec (.bar 1 b p) s = .next (
      if e.tid ∈ bar.pend then s.pop.waitAt e (.barrier b.toNat) else s.pop.retire e e.t 1)) ∧
    (s.Issues (.bar 3 b p) e → exec (.bar 3 b p) s = .next (
      s.pop.retire e (e.t.setP p.toNat (decide (e.tid ∉ bar.pend))) 1)) ∧
    (s.Issues (.barcfg b a) e → (e.t.getX a).toNat ≠ 0 →
      (e.t.getX a).toNat &&& e.gr.allWarps.toNat = (e.t.getX a).toNat → bar.pend = [] →
      exec (.barcfg b a) s = .next ((s.pop.modGroup e.g fun g =>
        g.setBar b.toNat ⟨BitVec.ofNat 16 (e.t.getX a).toNat, []⟩).retire e e.t 1)) ∧
    (s.Issues (.barcfg b a) e → (e.t.getX a).toNat ≠ 0 →
      (e.t.getX a).toNat &&& e.gr.allWarps.toNat = (e.t.getX a).toNat → bar.pend ≠ [] →
      exec (.barcfg b a) s = .next (s.pop.faultAt e 0x33 0x03 0))

/-- R128: HALTG in a handler makes the group DUMPING and gives its hold to every group it targets; it completes at
once when they are all halted, else it waits; outside a handler it is ILLEGAL_OP 0x14. R143, R353, R355, R356: YIELD
lowers the thread's rank for 16 cycles, if its group still runs; TRK writes one spoor record; ACMARK at its first issue spills the context's
accumulators of the core and then writes its KIND 1 record. R173: EXIT, by a thread with siblings in its warp and in
no barrier or convergence register, makes the thread EXITED and takes its monitor, handler and repeat state; the other
threads of the group are as they were. -/
def Obligations.GroupMarkExit : Prop :=
  (∀ (sc : BitVec 1) s e, s.Issues (.haltg sc) e →
    (e.t.handler = none → exec (.haltg sc) s = .next (s.pop.faultAt e 0x01 0x14 0)) ∧
    (e.t.handler.isSome → e.gr.holder = none →
      let ts := s.pop.haltTargets e.g e.gr sc.toNat
      let s' := (s.pop.modGroup e.g fun g =>
        { g.dump with holder := some e.tid, scope := sc.toNat, targets := ts }).holdAll (.group e.g) ts
      (e.gr.st = .running → e.gr.dump.st = .dumping) ∧
      ∀ gr, s'.group? e.g = some gr →
        exec (.haltg sc) s = .next (
          if gr.targets.all s'.targetHalted then s'.retire e { e.t with run := .runnable } 1 else s'.waitAt e .haltg))) ∧
  ((∀ s e, s.Issues .yield e →
    exec .yield s = .next (s.pop.retire e { e.t with yieldLeft := if e.gr.runs then 16 else 0 } 1)) ∧
  (∀ (a : BitVec 6) (n : BitVec 12) s e, s.Issues (.trk a n) e →
    exec (.trk a n) s = .next ((s.pop.spoor e.gr.ctx
      [e.t.pos.pc.toNat, s.time, 2 ^ (e.tid % 64), 0, e.tid * 2 ^ 48 + 0xFD, n.toNat + (e.t.getX a).toNat * 2 ^ 32, 0,
        e.gr.lin + e.k.id * 2 ^ 32]).retire e e.t 1)) ∧
  (∀ (m : BitVec 16) s e, s.Issues (.acmark m) e → e.keyIssue ∉ (s.core e.gr.core).marks →
    let live := fun (k : Nat) => s.pop.groups.any fun g => g.2.threads.any fun t => t.2.part == some k
    exec (.acmark m) s = .next (
      (((s.pop.setCore e.gr.core { s.core e.gr.core with
          marks := (s.core e.gr.core).marks.filter live ++ [e.keyIssue] }).spill e.gr.core fun (a : Accum) =>
        a.ctx == e.gr.ctx).account e.gr.ctx s.time
          (2 ^ 12 + 2 ^ 32 * Config.coreNumber e.gr.core + 2 ^ 48 * m.toNat)).retire e e.t 1)) ∧
  (∀ (m : BitVec 16) s e, s.Issues (.acmark m) e → e.keyIssue ∈ (s.core e.gr.core).marks →
    exec (.acmark m) s = .next (s.pop.retire e e.t 1))) ∧
  (∀ (g : BitVec 6) s e, s.Issues (.exit g) e → e.t.tid = e.tid → e.gr.barriers = [] → e.gr.cvs = [] → e.t.handler = none →
    (e.gr.others e.tid).isEmpty = false → e.t.stepping = false →
    ∃ s', exec (.exit g) s = .next s' ∧ s'.mem = s.mem ∧
      (∃ t', s'.thread? e.g e.tid = some t' ∧ t'.run = .exited ∧ t'.monitor = none ∧ t'.handler = none ∧ t'.rep = none) ∧
      ∀ tid, tid ≠ e.tid → s'.thread? e.g tid = s.thread? e.g tid)

/-! ### Memory words (10_memory.md, 11_ordering.md, 14_page.md) -/

/-- R207, R212, R213, R215, R236: every load, store and atomic on global memory that is aligned and translates is
issued with its bytes, scope, order and operands, and its thread goes on. R200, R201, R207: loads and stores of
scratch (outside windows) and deep scratch are issued; beyond the group's storage they raise ADDRESS_FAULT 0x10 and
0x11. R207, R212, R213: a misaligned access raises MISALIGNED at the word, 0x01 for a plain one and 0x02 for a marked
one. -/
def Obligations.AccessWords : Prop :=
  (∀ (d a b : BitVec 6) (z o : BitVec 4) (h r : BitVec 2) (g : BitVec 6),
    let at_ := fun (e : Env) => e.t.getX2 a
    let load := { askPlain .load .global with dst := d.toNat, sext := decide (z = 1 ∨ z = 3) }
    let store := fun (e : Env) =>
      { askPlain .store .global with data := e.t.getXs d (szRegs z) % 2 ^ (8 * szBytes z) }
    let acq := fun sc => { load with scope := sc, marked := true, acquire := true }
    let rel := fun sc e => { store e with scope := sc, marked := true, release := true }
    let atom := fun (k : AccKind) sc (dst : Nat) (e : Env) =>
      { askPlain k .global with scope := sc, marked := true, acquire := r.getLsbD 0, release := r.getLsbD 1
                                data := (atomOperand e.t b o).1, cmp := (atomOperand e.t b o).2, dst := dst }
    AccessIssues (.ldG d a z h g) at_ (szBytes z) needsRead (fun _ => load) ∧
    AccessIssues (.stG d a z h g) at_ (szBytes z) needsWrite store ∧
    AccessIssues (.ldaCore d a z h g) at_ (szBytes z) needsRead (fun _ => acq .core) ∧
    AccessIssues (.ldaDev d a z h g) at_ (szBytes z) needsRead (fun _ => acq .device) ∧
    AccessIssues (.ldaSys d a z h g) at_ (szBytes z) needsRead (fun _ => acq .system) ∧
    AccessIssues (.stlCore d a z h g) at_ (szBytes z) needsWrite (rel .core) ∧
    AccessIssues (.stlDev d a z h g) at_ (szBytes z) needsWrite (rel .device) ∧
    AccessIssues (.stlSys d a z h g) at_ (szBytes z) needsWrite (rel .system) ∧
    AccessIssues (.atomCore d a b r o) at_ (atomBytes o) needsBoth (atom (.atom o) .core d.toNat) ∧
    AccessIssues (.atomDev d a b r o) at_ (atomBytes o) needsBoth (atom (.atom o) .device d.toNat) ∧
    AccessIssues (.atomSys d a b r o) at_ (atomBytes o) needsBoth (atom (.atom o) .system d.toNat) ∧
    AccessIssues (.redaDev a b r o) at_ (atomBytes o) needsBoth (atom (.reda o) .device 0) ∧
    AccessIssues (.redaSys a b r o) at_ (atomBytes o) needsBoth (atom (.reda o) .system 0)) ∧
  (∀ (d a : BitVec 6) (z : BitVec 4) (g : BitVec 6),
    let load := fun lv => { askPlain .load lv with dst := d.toNat, sext := decide (z = 1 ∨ z = 3) }
    let store := fun lv (e : Env) => { askPlain .store lv with data := e.t.getXs d (szRegs z) % 2 ^ (8 * szBytes z) }
    StorageIssues (.ldS d a z g) (fun e => (e.t.getX a).toNat) (szBytes z) (fun _ => load .scratch) ∧
    StorageIssues (.stS d a z g) (fun e => (e.t.getX a).toNat) (szBytes z) (store .scratch) ∧
    StorageIssues (.ldD d a z g) (fun e => (e.t.getX2 a).toNat) (szBytes z) (fun _ => load .deep) ∧
    StorageIssues (.stD d a z g) (fun e => (e.t.getX2 a).toNat) (szBytes z) (store .deep) ∧
    (∀ i s e, i = Instr.ldS d a z g ∨ i = .stS d a z g → s.Issues i e → (e.t.getX a).toNat % szBytes z = 0 →
      256 * e.k.scru < (e.t.getX a).toNat + szBytes z →
      exec i s = .next (s.pop.faultLane e 0x12 0x10 (BitVec.ofNat 64 (e.t.getX a).toNat))) ∧
    (∀ i s e, i = Instr.ldD d a z g ∨ i = .stD d a z g → s.Issues i e → (e.t.getX2 a).toNat % szBytes z = 0 →
      4096 * e.k.deepu < (e.t.getX2 a).toNat + szBytes z →
      exec i s = .next (s.pop.faultLane e 0x12 0x11 (e.t.getX2 a)))) ∧
  (∀ (d a b : BitVec 6) (z o : BitVec 4) (h r : BitVec 2) (g : BitVec 6),
    let at_ := fun (e : Env) => e.t.getX2 a
    let off := fun (e : Env) => BitVec.ofNat 64 (e.t.getX a).toNat
    AccessMisaligned (.ldG d a z h g) at_ (szBytes z) 0x01 ∧ AccessMisaligned (.stG d a z h g) at_ (szBytes z) 0x01 ∧
    AccessMisaligned (.ldD d a z g) at_ (szBytes z) 0x01 ∧ AccessMisaligned (.stD d a z g) at_ (szBytes z) 0x01 ∧
    AccessMisaligned (.ldS d a z g) off (szBytes z) 0x01 ∧ AccessMisaligned (.stS d a z g) off (szBytes z) 0x01 ∧
    AccessMisaligned (.ldaCore d a z h g) at_ (szBytes z) 0x02 ∧ AccessMisaligned (.ldaDev d a z h g) at_ (szBytes z) 0x02 ∧
    AccessMisaligned (.ldaSys d a z h g) at_ (szBytes z) 0x02 ∧ AccessMisaligned (.stlCore d a z h g) at_ (szBytes z) 0x02 ∧
    AccessMisaligned (.stlDev d a z h g) at_ (szBytes z) 0x02 ∧ AccessMisaligned (.stlSys d a z h g) at_ (szBytes z) 0x02 ∧
    AccessMisaligned (.atomCore d a b r o) at_ (atomBytes o) 0x02 ∧
    AccessMisaligned (.atomDev d a b r o) at_ (atomBytes o) 0x02 ∧
    AccessMisaligned (.atomSys d a b r o) at_ (atomBytes o) 0x02 ∧
    AccessMisaligned (.redaDev a b r o) at_ (atomBytes o) 0x02 ∧ AccessMisaligned (.redaSys a b r o) at_ (atomBytes o) 0x02)

/-- R216, R217, R230, R233, R277: FENCE waits for the thread's accesses and, beyond core scope, drops the context's
lines of the core's L1; FENCE.ALIAS waits for its stores and atomics to one physical page, and drops that page's lines;
PREF fills two sectors or nothing; MARM arms the
thread's monitor on the sector of its address; TLBP is issued as a load. -/
def Obligations.FenceResult : Prop :=
  (∀ (sc : BitVec 2) s e, s.Issues (.fence sc) e → s.pop.pending e.g e.tid = true →
    exec (.fence sc) s = .next (s.pop.waitAt e .fence)) ∧
  (∀ (sc : BitVec 2) s e, s.Issues (.fence sc) e → s.pop.pending e.g e.tid = false →
    exec (.fence sc) s = .next ((if sc = 0 then s.pop else s.pop.dropL1 e.gr.core fun l => l.ctx == e.gr.ctx).retire e
      { e.t with run := .runnable } 1)) ∧
  (∀ (a : BitVec 6) s e s' pas vas node x, s.Issues (.fenceAlias a) e →
    s.pop.mapAccess e.gr.ctx e.gr.core (e.t.getX2 a).toNat 1 needsRead false = (s', .ok pas vas node x) →
    let bits := s'.pageBits e.gr.ctx e.gr.core (vas.headD 0)
    let page := fun p => p / 2 ^ bits
    let mine := fun (x : Access) => x.grp == e.g && x.tid == e.tid && x.level == .global && x.kind.writes && x.node == node &&
      x.pas.any fun p => page p == page (pas.headD 0)
    exec (.fenceAlias a) s = .next (
      if s'.accs.any mine then s'.waitAt e (.aliased (page (pas.headD 0)) bits node)
      else (s'.dropL1 e.gr.core fun l => node == 0 && l.pas.any fun p => page p == page (pas.headD 0)).retire e
        { e.t with run := .runnable } 1)) ∧
  (∀ (a : BitVec 6) (h : BitVec 2) (g : BitVec 6) s e, s.Issues (.pref a h g) e →
    let line := (e.t.getX2 a).toNat / 128 * 128
    exec (.pref a h g) s = .next ((if h = 0 then (s.pop.fillL1 e.gr.ctx e.gr.core line).fillL1 e.gr.ctx e.gr.core (line + 64)
      else s.pop).retire e e.t 1)) ∧
  (∀ (a g : BitVec 6) s e s0 s' p vas node x, s.Issues (.marm a g) e → s.pop.viewsOf e.gr.ctx = (s0, []) →
    s0.mapAccess e.gr.ctx e.gr.core (e.t.getX2 a).toNat 1 needsRead false = (s', .ok [p] vas node x) →
    ∃ t, exec (.marm a g) s = .next t ∧ (e.t.stepping = false → ∀ th, t.thread? e.g e.tid = some th →
      th.monitor.map Monitor.sector = some (p / 64 + node * 2 ^ 46) ∧ th.monitor.bind Monitor.code = none)) ∧
  (∀ (d a : BitVec 6) s e, s.Issues (.tlbp d a) e → fullFor e.warp.lq e.op = false →
    exec (.tlbp d a) s = .next ((s.pop.addAccess e
      { askPlain .tlbp .global with va := e.t.getX2 a, dst := d.toNat, size := 8 }).retire e { e.t with again := none } 1))

/-- R275, R276: MAPS makes a window over canonical, aligned and free scratch; FLUSHS starts the write-back of the
marked blocks in its range, counted in S; INVS drops the blocks in its range without writing them. -/
def Obligations.WindowResult : Prop :=
  (∀ (so v l : BitVec 6) s e, s.Issues (.maps so v l) e →
    let o := (e.t.getX so).toNat
    let va := (e.t.getX2 v).toNat
    let len := (e.t.getX l).toNat
    o % 4096 = 0 → len % 4096 = 0 → va % 4096 = 0 → 0 < len → o + len ≤ 256 * e.k.scru →
    canonicalVa va = true → s.pop.windowBusy e = false → e.gr.windows.length < 8 →
    (∀ w ∈ e.gr.windows, o + len ≤ w.s ∨ w.s + w.len ≤ o) →
    exec (.maps so v l) s = .next ((s.pop.modGroup e.g fun g =>
      { g with windows := g.windows ++ [⟨o, e.t.getX2 v, len, [], [], [], [], [], [], none⟩] }).retire e e.t 1)) ∧
  (∀ (so l : BitVec 6) s e, s.Issues (.flushs so l) e →
    let o := (e.t.getX so).toNat
    let len := (e.t.getX l).toNat
    o % 4096 = 0 → len % 4096 = 0 → 0 < len → o + len ≤ 256 * e.k.scru → s.pop.windowBusy e = false →
    fullFor e.warp.sq e.op = false →
    exec (.flushs so l) s = .next (((s.pop.countS e).flushWindows e o len e.gr.windows).retire e e.t 1)) ∧
  (∀ (so l : BitVec 6) s e, s.Issues (.invs so l) e →
    let o := (e.t.getX so).toNat
    let len := (e.t.getX l).toNat
    let out := fun (w : Window) (b : Nat) => !(w.blocksIn o len).contains b
    let gone := fun (x : Nat) => e.gr.windows.any fun w => (w.blocksIn o len).contains (x / 4096)
    o % 4096 = 0 → len % 4096 = 0 → o + len ≤ 256 * e.k.scru →
    let asked := fun (st b : Nat) => e.gr.windows.any fun w => w.s == st && !out w b
    exec (.invs so l) s = .next ((((s.pop.dropFills e.g asked).finishStores e.g gone).modGroup e.g fun g => { g with
      windows := g.windows.map fun w =>
      { w with filled := w.filled.filter (out w), writable := w.writable.filter (out w)
               underWr := w.underWr.filter (out w), got := w.got.filter fun x => out w x.1
               failed := w.failed.filter fun x => out w x.1
               marks := w.marks.filter fun x => out w (x / 4096)
               flushing := w.flushing.filter fun x => out w (x / 4096) } }).retire e e.t 1))

/-- R208, R218: a store performed leaves its bytes at its places, lowest address first, and every other byte of memory
as it was. R200, R201, R208: loads and stores of scratch and deep scratch, performed, touch no byte of memory; a store
leaves its bytes in the group's storage. -/
def Obligations.StorePerformed : Prop :=
  (∀ s a gr, s.accs.find? (fun b => b.id == a.id) = some a → s.mayPerform a = true → s.group? a.grp = some gr →
    a.level = .global → a.kind = .store → a.node = 0 → a.req = none → a.paged = none → s.accessHere a = true →
      s.time + 2 < a.expiry → s.mirage.st = .idle → s.samples = [] →
    a.pas.length = a.size → a.pas.Nodup → (∀ p ∈ a.pas, p < 2 ^ 40) →
    ∃ t, exec (.accessPerformed a.id 0) s = .next t ∧
      leNat (a.pas.map t.byte) = a.data % 2 ^ (8 * a.size) ∧
      (∀ p, p ∉ a.pas → t.byte p = s.byte p) ∧ ∀ b ∈ t.accs, b.id ≠ a.id) ∧
  (∀ s a gr, s.accs.find? (fun b => b.id == a.id) = some a → s.mayPerform a = true → s.group? a.grp = some gr →
    a.level ≠ .global → a.kind = .load ∨ a.kind = .store → a.req = none → a.paged = none → s.accessHere a = true →
      s.samples = [] →
    (∃ o, a.pas = span o a.size) →
    ∃ t, exec (.accessPerformed a.id 0) s = .next t ∧ t.mem = s.mem ∧
      (a.kind = .store → ∃ gr', t.group? a.grp = some gr' ∧
        leNat (a.pas.map (if a.level = .scratch then gr'.scratch.byte else gr'.deep.byte)) = a.data % 2 ^ (8 * a.size)))

/-- R207, R208, R212, R227: a load of global memory takes its bytes from memory, or, unless it is an acquire of device or
system scope, from a sector its core's L1 holds (whether it still holds it is a free value, log 12); a load of scratch or
deep scratch takes them from the group's storage (R200, R201). It writes them to its destination in its thread, and changes
no byte of memory and no register of another thread. R212, R216: what a fill brought into the L1 is what memory held. R16,
R207: what a load writes: a byte or half is extended with zeros or its sign, a word fills a register, and wider sizes fill the registers
that follow, the low word first. -/
def Obligations.LoadPerformed : Prop :=
  (∀ s a gr th, s.accs.find? (fun b => b.id == a.id) = some a → s.mayPerform a = true → s.group? a.grp = some gr →
    a.level = .global → a.kind = .load → a.node = 0 → a.req = none → a.paged = none →
      s.accessHere a = true → s.time + 2 < a.expiry →
    s.samples = [] → s.damageAt a.pas = 0 → s.thread? a.grp a.tid = some th → th.live = true →
    let held := if a.acquire = true ∧ a.scope ≠ .core then none
      else s.readL1 a.core a.ctx a.va.toNat a.size (a.grp, a.tid)
    let bytes := if Config.l1Held s.fresh then held.getD (a.pas.map s.byte) else a.pas.map s.byte
    ∃ t, exec (.accessPerformed a.id 0) s = .next t ∧ t.mem = s.mem ∧
      (t.thread? a.grp a.tid).map Thread.x = some (th.receive a (leNat bytes)).x ∧
      ∀ g tid, g ≠ a.grp ∨ tid ≠ a.tid → (t.thread? g tid).map Thread.x = (s.thread? g tid).map Thread.x) ∧
  (∀ s a gr th, s.accs.find? (fun b => b.id == a.id) = some a → s.mayPerform a = true → s.group? a.grp = some gr →
    a.level ≠ .global → a.kind = .load → a.req = none → a.paged = none → s.accessHere a = true → s.samples = [] →
    s.thread? a.grp a.tid = some th → th.live = true →
    ∃ t, exec (.accessPerformed a.id 0) s = .next t ∧ t.mem = s.mem ∧
      (t.thread? a.grp a.tid).map Thread.x
        = some (th.receive a (leNat (a.pas.map (if a.level = .scratch then gr.scratch.byte else gr.deep.byte)))).x ∧
      ∀ g tid, g ≠ a.grp ∨ tid ≠ a.tid → (t.thread? g tid).map Thread.x = (s.thread? g tid).map Thread.x) ∧
  (∀ (s : State) ctx core va n who s' pas vas expiry,
    (s.dropL1 core fun l => l.ctx == ctx && l.line == va / 64).mapAccess ctx core (va / 64 * 64) 64 needsRead false
      = (s', .ok pas vas 0 expiry) → pas.length = 64 → s.time + 2 < expiry → 0 < s'.l1Room core → va % 64 + n ≤ 64 →
    (s.fillL1 ctx core va).readL1 core ctx va n who = some (((pas.drop (va % 64)).take n).map s.byte)) ∧
  (∀ (t : Thread) (a : Access) (v : Nat) (d : BitVec 6), a.dst = d.toNat →
    (a.size = 1 → (t.receive a v).getX d
      = if a.sext then (BitVec.ofNat 8 v).signExtend 32 else (BitVec.ofNat 32 v)) ∧
    (a.size = 2 → (t.receive a v).getX d
      = if a.sext then (BitVec.ofNat 16 v).signExtend 32 else (BitVec.ofNat 32 v)) ∧
    (a.size = 4 → (t.receive a v).getX d = BitVec.ofNat 32 v) ∧
    (a.size = 8 → (t.receive a v).getX2 d = BitVec.ofNat 64 v) ∧
    (a.size = 16 → (t.receive a v).getX2 d = BitVec.ofNat 64 v ∧
      (t.receive a v).getX2 (d + 2) = BitVec.ofNat 64 (v / 2 ^ 64)))

/-- R213, R214: an atomic on local memory reads and writes in one act: it leaves the combination of the old value and
its operand (a compare-and-swap only when the old value equals the compared one) and gives the old value to its
thread. -/
def Obligations.AtomicPerformed : Prop :=
  ∀ s a gr th o, s.accs.find? (fun b => b.id == a.id) = some a → s.mayPerform a = true → s.group? a.grp = some gr →
    a.level = .global → a.kind = .atom o → a.node = 0 → a.req = none → a.paged = none → s.accessHere a = true →
      s.time + 2 < a.expiry → s.mirage.st = .idle → s.samples = [] →
    s.damageAt a.pas = 0 → a.pas.length = a.size → a.pas.Nodup → (∀ p ∈ a.pas, p < 2 ^ 40) →
    s.thread? a.grp a.tid = some th → th.live = true →
    let old := leNat (a.pas.map s.byte)
    ∃ t, exec (.accessPerformed a.id 0) s = .next t ∧
      leNat (a.pas.map t.byte)
        = (if (o = 12 ∨ o = 13) ∧ old ≠ a.cmp then old else combine o old a.data % 2 ^ (8 * a.size)) ∧
      (∀ p, p ∉ a.pas → t.byte p = s.byte p) ∧
      (t.thread? a.grp a.tid).map Thread.x = some (th.receive a old).x

/-! ### Issue, exceptions, decoding, reset (02_encoding.md, 03_context.md, 07_thread.md) -/

/-- R57, R62, R70, R71: a word that fails the checks of R62 step 3 or 4 raises their fault at the word, whatever its
guard; R61: a word whose guard is false completes without effect. Every word, wherever it issues. -/
def Obligations.IssueChecks : Prop :=
  ∀ (i : Instr) (s : State) (e : Env), encode i ≠ [] → s.issuer = some e →
    (∀ code sub, checkWord i e.k = some (code, sub) → exec i s = .next (s.pop.faultAt e code sub 0)) ∧
    (checkWord i e.k = none → e.t.guard (guardOf i) = false → exec i s = .next (s.pop.retire e e.t (wordsOf i)))

/-- R57, R130, R175: taking an exception. With a trap vector whose word is a header the thread's fault, its position
with the words left and its repeat state are saved, the handler flag is set, and the thread stands before the vector's
header; its registers, predicates and call stack and every other thread, but for monitors that the record's write
wakes, are as they were, and the record goes to the fault queue with HND. R89: a record's eight words: SEQ, FIN, HND,
DIE, SUB, CODE; then TIME; PC; ADDR; GROUP, KERNEL; DETAIL, CORE, THREAD; ITEM; and a word of zeros. -/
def Obligations.TrapEntry : Prop :=
  (∀ (s : State) (g tid : Nat) (gr : Group) (k : Kernel) (t : Thread) (s' : State) (w : Nat) (f : Raised),
    s.group? g = some gr → s.kernel? gr.kern = some k → s.thread? g tid = some t →
    gr.ending = none → t.handler = none → k.trapv ≠ 0 → s.fetch gr k.trapv = (s', .ok w) → w / 2 ^ 24 = 0xC7 → f.recorded = false →
    t.stepping = false →
    (s.deliver g tid f).still g tid = some { t with
      monitor := none
      handler := some ⟨f.code, f.sub, f.addr, f.saved, t.rep, false⟩
      rep := none
      pos := ⟨k.trapv, 0, 0⟩
      run := .runnable
      part := none
      skipBreak := false
      last := f.word } ∧
    (∀ g' tid', g' ≠ g ∨ tid' ≠ tid → (s.deliver g tid f).still g' tid' = s.still g' tid') ∧
    (s.deliver g tid f).mem = (s'.post gr.ctx
      (groupRec s' gr k f.code f.sub false true f.word f.addr tid 0 (item 0 f.word.toNat))).mem) ∧
  (∀ (r : FaultRec) (seq : Nat), seq < 2 ^ 32 → r.die < 2 ^ 6 → r.kern < 2 ^ 32 → r.grp < 2 ^ 32 → r.tid < 2 ^ 16 →
    r.core < 2 ^ 16 → r.detail < 2 ^ 32 →
    let w := fun n => (r.words seq).getD n 0
    (r.words seq).length = 8 ∧ bits (w 0) 0 8 = r.code.toNat ∧ bits (w 0) 8 8 = r.sub.toNat ∧ bits (w 0) 16 8 = 0 ∧
    bits (w 0) 24 6 = r.die ∧ (bit (w 0) 30 = r.hnd) ∧ (bit (w 0) 31 = r.fin) ∧ bits (w 0) 32 32 = seq ∧
    w 1 = r.time ∧ w 2 = r.pc.toNat ∧ w 3 = r.addr.toNat ∧ bits (w 4) 0 32 = r.kern ∧ bits (w 4) 32 32 = r.grp ∧
    bits (w 5) 0 16 = r.tid ∧ bits (w 5) 16 16 = r.core ∧ bits (w 5) 32 32 = r.detail ∧ w 6 = r.item.toNat ∧ w 7 = 0)

/-- R92, R115, R130: a fault with no trap vector ends the group under its own code, a fault inside a handler ends it
as DOUBLE_FAULT; the group is gone, its kernel fails with that code, group and die unless it had already failed, and every
other group's threads are as they were, but for monitors that records wake. R91: while the group's record is held for want
of room in the fault queue the group stays, halted as it stands, and issues nothing. -/
def Obligations.FaultEndsGroup : Prop :=
  ∀ (s : State) (g tid : Nat) (gr : Group) (k : Kernel) (t : Thread) (f : Raised), s.group? g = some gr →
    s.kernel? gr.kern = some k → s.thread? g tid = some t → gr.ending = none →
    t.handler.isSome ∨ k.trapv = 0 →
    let code : Byte := if t.handler.isSome then 0x61 else f.code
    let sub : Byte := if t.handler.isSome then f.code else f.sub
    let first := (t.handler.map fun h => h.code.toNat + h.sub.toNat * 2 ^ 8).getD 0
    let r := groupRec s gr k code sub true false f.word f.addr tid first (item 1 gr.lin)
    let held := (t.handler.isSome || !f.recorded) && (s.post gr.ctx r).holdsRecord gr.ctx r
    let u := s.deliver g tid f
    (∀ g' tid', g' ≠ g → u.still g' tid' = s.still g' tid') ∧
    (held = true → (u.group? g).map Group.ending = some (some r) ∧ ∀ i ∈ u.issuing, i.grp ≠ g) ∧
    (held = false → u.group? g = none ∧
      (k.st = .running ∨ k.st = .placing → ∀ k', u.kernel? gr.kern = some k' →
        k'.fail = some (code, sub, gr.lin, r.die) ∧ (k'.st = .failing ∨ k'.st = .failed)))

/-- R126, R144, R354, R359: what the completion of a word changes outside its own thread: the thread issues no more, its
group counts as having made progress, a core slot may remember a clause left under a yield hint, and a sampled key issue
that the thread has part in notes its lane and the time; all else, all of memory with it, is as it was. -/
def Obligations.RetireFrame : Prop :=
  ∀ (s : State) (e : Env) (t : Thread) (n : Nat), s.issuer = some e → t.stepping = false →
    let u := s.pop.retire e t n
    u.thread? e.g e.tid = some { t.advance n with skipBreak := false, part := none, last := e.t.pos.pc } ∧
    (∀ g tid, g ≠ e.g ∨ tid ≠ e.tid → u.thread? g tid = s.thread? g tid) ∧
    (∀ g, g ≠ e.g → u.group? g = s.group? g) ∧
    (∀ gr, u.group? e.g = some gr → { gr with threads := e.gr.threads, active := e.gr.active } = e.gr) ∧
    (∀ a, u.byte a = s.byte a) ∧
    (∀ c, { u.core c with yh := [] } = { s.core c with yh := [] }) ∧
    u.samples = (s.samples.map fun m =>
      if e.t.part = some m.num then { m with lanes := m.lanes ++ [laneOf e.tid], done := s.time } else m) ∧
    { u with groups := s.groups, cores := s.cores, issuing := s.issuing, samples := s.samples } = s

/-- R144: the frame of the words that act on their thread alone (moves, integer, logic, compare, scalar and packed
float, and conversions): but for a division by zero, which is a fault, nothing changes beyond the completion of the
word but the registers and predicates the word names. -/
def Obligations.ThreadWordFrame : Prop :=
  ∀ (i : Instr) (s : State) (e : Env), actsOnThread i = true → s.Issues i e →
    (∃ sub, exec i s = .next (s.pop.faultAt e 0x07 sub 0)) ∨
    ∃ t : Thread, exec i s = .next (s.pop.retire e t (wordsOf i)) ∧
      (∀ r, writesX i r = false → t.getX r = e.t.getX r) ∧
      (∀ p, p < 24 → writesP i p = false → t.getP p = e.t.getP p) ∧
      { t with x := e.t.x, p := e.t.p } = e.t

/-- R9, R52, R56, R62, R63, R138: a step with a thread selected to issue runs the word that stands at the thread's
position. A word of its clause's class, read through the context's translation and decoded from its 32 bits (MOVX with
the 32 bits that follow), is run by exec in the state that the fetch left; where it would lead its thread to an address
that cannot be fetched, it takes the fault of that fetch instead of its effect (R146; DEDUCED, log 21). With nobody
selected to issue, a step runs the first event that is due, or that comes from outside now (log 4). -/
def Obligations.StepRunsDecoded : Prop :=
  (∀ (s : State) (e : Env) h l, s.oasisLost = false → s.issuing = h :: l → s.issuer = some e → e.t.run = .runnable →
    e.t.pos.pc.toNat = h.key →
    e.gr.st = .running ∨ e.gr.st = .dumping → e.t.rep = none →
    let runs := fun (i : Instr) (s' : State) =>
      ((s'.leadsOn e i).2 = none → step s = exec i s') ∧
      (∀ t, exec i s' = .next t → e.wentOn t = false → step s = .next t) ∧
      ∀ t code sub a, exec i s' = .next t → e.wentOn t = true → (s'.leadsOn e i).2 = some (code, sub, a) →
        step s = .next ((s'.pop.faultAt e code sub a).passed (some h))
    (∀ s' w i, s.fetch e.gr e.t.pos.pc = (s', .ok w) → w / 2 ^ 24 ≠ 0x04 → classSub e.t.pos.hdr w = none →
      decodeWords [w] = .ok i → runs i s') ∧
    (∀ s' s'' w x i, s.fetch e.gr e.t.pos.pc = (s', .ok w) → w / 2 ^ 24 = 0x04 → classSub e.t.pos.hdr w = none →
      1 < e.t.pos.left → s'.fetch e.gr (e.t.pos.pc + 4) = (s'', .ok x) → decodeWords [w, x] = .ok i → runs i s'')) ∧
  (∀ (s : State), s.oasisLost = false → s.issuing = [] →
    (∀ i l, s.due = i :: l → step s = exec i { s with due := l }) ∧
    (∀ i l, s.due = [] → s.agenda = (0, i) :: l → step s = exec i { s with agenda := l }))

/-- R60, R64 to R69: words written out from the encodings. -/
def Obligations.WordsDecode : Prop :=
  decodeWords [0b000000010000010000100000_00011111] = .ok (.mov 1 2 31) ∧
  decodeWords [0b00001000_000011_000100_000101_111111] = .ok (.add 3 4 5 63) ∧
  decodeWords [0b00000010_000111_000000000000000101] = .ok (.movi 7 5) ∧
  decodeWords [0b00000100_000010_111111111111111111, 0xDEADBEEF] = .ok (.movx 2 0x3FFFF 0xDEADBEEF) ∧
  decodeWords [0] = .ok .nop

/-- R60 to R69: every word's encoding, as its bytes stand in memory, decodes to that word, with every field at every
value. -/
def Obligations.DecodeEncode : Prop :=
  ∀ i : Instr, encode i ≠ [] →
    decodeWords (encode i) = .ok i ∧ decodeBytes ((encode i).flatMap (leBytes 4)) = .ok i

/-- R60 to R71: no bit of a word is dropped: what decodes to an instruction is that instruction's encoding. -/
def Obligations.EncodeDecode : Prop :=
  ∀ (w x : BitVec 32) (i : Instr), decodeWords [w.toNat, x.toNat] = .ok i →
    encode i = [w.toNat, x.toNat].take (wordsOf i)

/-- The memory keeps its canonical form in every step, of every state. The form is the model's own choice (log 1): the spec
gives memory's contents, not how they are listed. -/
def Obligations.StepKeepsInv : Prop :=
  ∀ (s t : State), s.Inv → step s = .next t → t.Inv

/-- The memory after reset is in canonical form, the model's own choice (log 1). -/
def Obligations.ResetInv : Prop :=
 State.reset.Inv

/-- R10, R106, R125, R271, R321, R324, R329, R341, R361, R368, R373, R375: the values the spec gives for reset. That no context is bound is the model's choice
(log 3). -/
def Obligations.ResetValues : Prop :=
  let s := State.reset
  s.time = 0 ∧ s.boot.st = .waiting ∧ s.boot.locked = false ∧ s.mgmt.tperiod = 1000 ∧ s.mgmt.gwdlim = 100000 ∧
  Tbl.get 0 s.mgmt.fwwb 0 = 0xFFFC000001 ∧ Tbl.get 0 s.mgmt.fwws 0 = 26 ∧ s.mirage.st = .idle ∧
  (∀ c, (s.core c).trim = 700 ∧ (s.core c).slip = .track) ∧
  (∀ d, (s.die d).vminv = 0xFFFF ∧ (s.die d).vmint = 0 ∧ (s.die d).failed = [] ∧ (s.die d).thn = 0) ∧
  (∀ l, (s.link l).st = .down ∧ (s.link l).rstr = 0 ∧ (s.link l).rply = 0 ∧ (s.link l).lost = 0) ∧
  (∀ p, (s.port p).prqctl = 4 ∧ (s.port p).evctl = 4 ∧ (s.port p).prqwr = 0 ∧ (s.port p).evwr = 0) ∧
  ∀ id, s.ctx? id = none

/-! ### Tile and engine words, and their operations (13_engines.md, 16_tile.md, 17_tile_instructions.md) -/

/-- R292, R293, R305: CVDECL fixes the set of a register that does not gather: the live threads of the group, or the
live lanes of the mask; an empty set is ILLEGAL_OP 0x07 and a gathering register CONV_FOREIGN 0x04. R292, R293: a
signature that leaves members unsigned: the register gathers the word, its PC and the signer, and the thread goes on,
or for ENQ and EVT is held at the word (R100, R110); while another member still signs or exits in the same cycle it is held,
since the cycle's signatures are taken together, and it goes on with the last of them. R293: what is no signature: an unset
register is CONV_FOREIGN 0x03, a thread outside the set 0x01, a word at another PC 0x02; a member that has signed waits
until the operation has issued; the other signatures of its cycle are then settled. -/
def Obligations.SignatureResult : Prop :=
  (∀ (c : BitVec 3) (l : BitVec 1) (a : BitVec 6) s e, s.Issues (.cvdecl c l a) e →
    let set := (if l = 1 then e.gr.live
      else (e.gr.liveIn (warpOf e.tid)).filter fun t => (e.t.getX2 a).getLsbD (laneOf t.tid)).map Thread.tid
    (set ≠ [] → (e.gr.cv c.toNat).st ≠ .gathering →
      exec (.cvdecl c l a) s = .next ((s.pop.modGroup e.g fun g =>
        g.setCv c.toNat ⟨.ready, decide (l = 1), set, [], 0, none, []⟩).retire e e.t 1)) ∧
    (set = [] → exec (.cvdecl c l a) s = .next (s.pop.faultAt e 0x01 0x07 0)) ∧
    (set ≠ [] → (e.gr.cv c.toNat).st = .gathering → exec (.cvdecl c l a) s = .next (s.pop.faultAt e 0x31 0x04 0))) ∧
  (∀ (i : Instr) n (s : State) (e : Env), cvOf i = some n → s.Issues i e →
    let cv := e.gr.cv n
    let later := ∃ x ∈ s.pop.issuing, x.grp = e.g ∧ x.tid ∈ cv.members ∧ (x.cv = some n ∨ x.exits = true)
    cv.st = .ready ∧ cv.signed = [] ∨ cv.st = .gathering ∧ e.tid ∉ cv.signed ∧ cv.pc = e.t.pos.pc →
    e.tid ∈ cv.members → (∃ t ∈ cv.members, t ≠ e.tid ∧ t ∉ cv.signed) →
    let s' := s.pop.modGroup e.g fun g => g.setCv n { cv with
      st := .gathering, signed := cv.signed ++ [e.tid], pc := e.t.pos.pc, word := some i
      waits := cv.waits ++ (s.accs.filter fun a => a.grp == e.g && a.tid == e.tid).map Access.id }
    (holdsSigners i = true ∨ later → exec i s = .next (s'.waitAt e (.engine n))) ∧
    (holdsSigners i = false → ¬later → exec i s = .next ((s'.retire e e.t 1).passHeld e n none))) ∧
  (∀ (i : Instr) n (s : State) (e : Env), cvOf i = some n → s.Issues i e →
    let cv := e.gr.cv n
    (cv.st = .unset → exec i s = .next (s.pop.faultAt e 0x31 0x03 0)) ∧
    (cv.st ≠ .unset → e.tid ∉ cv.members → exec i s = .next (s.pop.faultAt e 0x31 0x01 0)) ∧
    (cv.st = .gathering → e.tid ∈ cv.members → e.tid ∈ cv.signed →
      exec i s = .next ((s.pop.waitAt e (.sign n)).settleCv e.g e.tid n)) ∧
    (cv.st = .gathering → e.tid ∈ cv.members → e.tid ∉ cv.signed → cv.pc ≠ e.t.pos.pc →
      exec i s = .next ((s.pop.faultAt e 0x31 0x02 0).settleCv e.g e.tid n)))

/-- R287 to R291, R302, R303, R308 to R317: the last signature of a tile word whose tags, shapes and operands pass
issues the operation to the matrix queue with its operands as read then. -/
def Obligations.TileWordIssues : Prop :=
  ∀ (t u : BitVec 4) (a b k d : BitVec 6) (acc ap : BitVec 5) (c h : BitVec 3) (f : BitVec 2),
    let tc := fun (m : Env) (t : BitVec 4) => m.gr.tcs.word t.toNat
    let whole := fun (m : Env) (x : BitVec 6) (y : W32) (z : Nat) =>
      (m.t.getX2 x).toNat % z = 0 ∧ (y.signExtend 64).toNat % z = 0
    TileIssues (.tld t a b c) c.toNat
      (fun m => tcUsable (tc m t) ∧ whole m a (m.t.getX b) (rawSize (tc m t))) [t.toNat]
      (fun _ m => .tld t.toNat (m.t.getX2 a) ((m.t.getX b).signExtend 64)) ∧
    TileIssues (.tst t a b c) c.toNat
      (fun m => tcUsable (tc m t) ∧ whole m a (m.t.getX b) (rawSize (tc m t))) [t.toNat]
      (fun _ m => .tst t.toNat (m.t.getX2 a) ((m.t.getX b).signExtend 64)) ∧
    TileIssues (.tzero t c) c.toNat (fun m => tcUsable (tc m t)) [t.toNat] (fun _ _ => .tzero t.toNat) ∧
    TileIssues (.tchk d t c) c.toNat (fun m => tcUsable (tc m t)) [t.toNat]
      (fun e _ => .tchk d.toNat t.toNat ((e.gr.cv c.toNat).signed ++ [e.tid])) ∧
    TileIssues (.qnt t u h a c) c.toNat
      (fun m => tcUsable (tc m t) ∧ tcUsable (tc m u) ∧ bareNarrow (tc m t) = false ∧ tcTag (tc m u) = 0 ∧
        tcWide (tc m u) = true ∧ qntTarget (tc m t) = true ∧ tcCols (tc m t) % tagBlock (tcTag (tc m t)) = 0 ∧
        tcRows (tc m t) = tcRows (tc m u) ∧ tcCols (tc m t) = tcCols (tc m u) ∧ (m.t.getX a).toNat % 128 = 0 ∧
        (m.t.getX a).toNat + qntArea (tcCols (tc m u)) ≤ 256 * m.k.scru) [t.toNat, u.toNat]
      (fun _ m => .qnt t.toNat u.toNat h.toNat (m.t.getX a).toNat) ∧
    TileIssues (.tcvt t u c) c.toNat
      (fun m => tcUsable (tc m t) ∧ tcUsable (tc m u) ∧ tcRows (tc m t) = tcRows (tc m u) ∧
        tcCols (tc m t) = tcCols (tc m u) ∧
        (tcWide (tc m u) = true ∧ tcWide (tc m t) = true ∧ tcTag (tc m t) = tcTag (tc m u) ∨
         tcWide (tc m u) = true ∧ tcNarrow (tc m t) = true ∧ tcCode (tc m t) ≠ 11 ∧ tcTag (tc m u) = 0 ∧
           tcTag (tc m t) ≠ 0 ∧ tcCols (tc m u) % tagBlock (tcTag (tc m t)) = 0 ∨
         tcNarrow (tc m u) = true ∧ tcWide (tc m t) = true ∧ tcCode (tc m u) ≠ 11 ∧ tcTag (tc m t) = 0 ∧
           tcTag (tc m u) ≠ 0 ∧ tcCols (tc m u) % tagBlock (tcTag (tc m u)) = 0)) [t.toNat, u.toNat]
      (fun _ _ => .tcvt t.toNat u.toNat) ∧
    TileIssues (.scacc acc ap a c) c.toNat
      (fun m => 128 * (m.t.getX a).toNat % 2 ^ 23 + 128 ≤ 256 * m.k.scru ∧
        128 * ((m.t.getX a).toNat / 2 ^ 16) + 128 ≤ 256 * m.k.scru) []
      (fun _ m => .scacc acc.toNat ap.toNat (m.gr.scratch.bytes (128 * (m.t.getX a).toNat % 2 ^ 23) 128)
        (m.gr.scratch.bytes (128 * ((m.t.getX a).toNat / 2 ^ 16)) 128)) ∧
    TileIssues (.aclr acc c) c.toNat (fun _ => True) [] (fun _ _ => .aclr acc.toNat) ∧
    TileIssues (.amov acc t 0 c) c.toNat
      (fun m => tcUsable (tc m t) ∧ bareNarrow (tc m t) = false ∧ tcCode (tc m t) ≠ 11 ∧
        (16 ≤ tcTag (tc m t) → tcCols (tc m t) % tagBlock (tcTag (tc m t)) = 0)) [t.toNat]
      (fun _ _ => .amovIn acc.toNat t.toNat) ∧
    TileIssues (.amov acc t 1 c) c.toNat
      (fun m => tcUsable (tc m t) ∧ tcTag (tc m t) = 0 ∧ tcWide (tc m t) = true) [t.toNat]
      (fun _ _ => .amovOut acc.toNat t.toNat) ∧
    TileIssues (.ast acc a b c) c.toNat
      (fun m => (m.t.getX2 a).toNat % 4 = 0 ∧ (m.t.getX b).toNat % 4 = 0) []
      (fun _ m => .ast acc.toNat (m.t.getX2 a) (m.t.getX b)) ∧
    TileIssues (.ald acc a b c) c.toNat
      (fun m => (m.t.getX2 a).toNat % 4 = 0 ∧ (m.t.getX b).toNat % 4 = 0) []
      (fun _ m => .ald acc.toNat (m.t.getX2 a) (m.t.getX b)) ∧
    (∀ (fmt : Nat) (i : Instr),
      (fmt, i) ∈ [(1, Instr.mmaBf16 acc t u c f k), (2, .mmaF16 acc t u c f k), (3, .mmaE4m3 acc t u c f k),
        (4, .mmaE5m2 acc t u c f k), (5, .mmaE2m3 acc t u c f k), (6, .mmaE3m2 acc t u c f k), (7, .mmaE2m1 acc t u c f k),
        (8, .mmaDl8 acc t u c f k), (9, .mmaS8 acc t u c f k), (10, .mmaS4 acc t u c f k)] →
      let count := if f = 0 then 4 else 1
      let as := (List.range count).map fun j => t.toNat + j
      let bs := (List.range count).map fun j => u.toNat + j
      TileIssues i c.toNat
        (fun m =>
          let off := (m.t.getX k).toNat % 2 ^ 16
          let len := (m.t.getX k).toNat / 2 ^ 16
          (∀ x ∈ as ++ bs, tcUsable (m.gr.tcs.word x) ∧ tcCode (m.gr.tcs.word x) = fmt ∧
            (3 ≤ fmt → tcTag (m.gr.tcs.word x) ≠ 0) ∧ off + len ≤ tcCols (m.gr.tcs.word x)) ∧
          (∀ j < count, tcTag (m.gr.tcs.word (t.toNat + j)) = tcTag (m.gr.tcs.word (u.toNat + j))) ∧
          (∀ x ∈ as, (mmaRows f.toNat).1 ≤ tcRows (m.gr.tcs.word x)) ∧
          (∀ x ∈ bs, (mmaRows f.toNat).2 ≤ tcRows (m.gr.tcs.word x)) ∧
          0 < len ∧ len % 8 = 0 ∧ len ≤ chunk fmt ∧ off % 8 = 0)
        (as ++ bs)
        (fun _ m => .mma fmt acc.toNat t.toNat u.toNat f.toNat ((m.t.getX k).toNat % 2 ^ 16) ((m.t.getX k).toNat / 2 ^ 16)
          m.warp.mode (m.gr.retrymax.toNat % 8))
        (fun m => m.warp.mode == 2))

/-- R100, R110, R250 to R257, R344 to R346: the last signature of an engine word. -/
def Obligations.EngineWordIssues : Prop :=
  ∀ (x y : BitVec 6) (c : BitVec 3),
    CommandIssues (.copy x c) c.toNat .copy x none ∧ CommandIssues (.copyR x c) c.toNat .copyR x none ∧
    CommandIssues (.chain x c) c.toNat .chain x none ∧ CommandIssues (.gather x y c) c.toNat .gather x (some y) ∧
    CommandIssues (.scatter x y c) c.toNat .scatter x (some y) ∧ CommandIssues (.atomR x c) c.toNat .atomR x none ∧
    (∀ (s : State) (e m : Env), s.SignsLast (.commit c) c.toNat e m → m.warp.cannotClose = false →
      exec (.commit c) s = .next ((s.pop.free.2.closeBatch e.g (warpOf m.tid)).signed e c.toNat))

/-- R100: ENQ writes the packet's image, reads the tail link and puts the packet's address there and in the packet
that was last; an empty link is a fault of the lowest signer, with the link as ADDR; an image, a tail link or a NEXT in a
peer's memory is written or asked for there, and the signers wait until it is. R107, R110: EVT RELEASE posts a record of
kind 5 to its cluster and hands the packet to the cluster's SCC; ESTIMATE posts a record of kind 6 and gives the kernel's
estimated end. The model's choices: the position at which the lowest signer takes the fault (log 20), the link as its ADDR
(log 14), and the low 32 bits of the address as VAL of RELEASE's record (log 23). -/
def Obligations.EnqEvtResult : Prop :=
  (∀ (x y : BitVec 6) (c : BitVec 3) (s : State) (e m : Env) s1 s2 s3 s4 ppas pvas pn px tpas tvas tn tx opas ovas on ox r,
    s.SignsLast (.enq x y c) c.toNat e m →
    let off := (m.t.getX y).toNat
    let tl := m.t.getX2 x
    let image := m.gr.scratch.bytes off 64
    let p : W64 := BitVec.ofNat 64 (leNat (image.take 8))
    off % 64 = 0 → tl.toNat % 8 = 0 → off + 64 ≤ 256 * m.k.scru → p.toNat % 64 = 0 →
    s.pop.free.2.mapAccess m.gr.ctx m.gr.core p.toNat 64 needsWrite false = (s1, .ok ppas pvas pn px) →
    let bytes := List.replicate 8 0 ++ (image.drop 8).take 10 ++ List.replicate 6 0 ++ image.drop 24
    let waits := fun (s : State) => (s.modGroup e.g fun g => g.setCv c.toNat { e.gr.cv c.toNat with
      st := .gathering, signed := (e.gr.cv c.toNat).signed ++ [e.tid], pc := e.t.pos.pc, word := some (.enq x y c)
      waits := (e.gr.cv c.toNat).waits ++ (s.accs.filter fun a => a.grp == e.g && a.tid == e.tid).map Access.id }).waitAt
      e (.engine c.toNat)
    (pn ≠ 0 → isHostNode pn = false → s1.portBlocked pn (ppas.headD 0) = false →
      let f := (s1.setSwap m.g m.tid none).free
      f.2.sendReq (.enq m.g m.tid f.1) pn (ppas.headD 0) 64 (some (leNat bytes)) none
        (s1.viaOf m.gr.ctx m.gr.core needsWrite ppas pvas (ppas.headD 0)) = (s3, some r) →
      exec (.enq x y c) s = .next (waits (s3.setSwap m.g m.tid (some ⟨m.tid, e.t.pos.pc, tl, p, 0, 0, f.1, .image⟩)))) ∧
    let w := s1.enqWrite m 1 p ppas pvas bytes
    (pn = 0 → w.mapAccess m.gr.ctx m.gr.core tl.toNat 8 needsBoth false = (s2, .ok tpas tvas tn tx) →
      let old : W64 := BitVec.ofNat 64 (leNat (tpas.map s2.byte))
      (tn = 0 → s2.damageAt tpas = 0 → old = 0 → exec (.enq x y c) s = .next (
        let u := ((s2.modGroup e.g fun g => g.setCv c.toNat (e.gr.cv c.toNat).cleared).freeSigners e.g c.toNat).passHeld e
          c.toNat (some (e.gr.cv c.toNat).lowest)
        if (e.gr.cv c.toNat).lowest = e.tid then u.faultAt e 0x12 0x40 tl
        else (u.retire e e.t 1).signerFault e.g (e.gr.cv c.toNat).lowest c.toNat e.t.pos.pc u.fresh 0x12 0x40 tl)) ∧
      (tn = 0 → s2.damageAt tpas = 0 → old ≠ 0 →
        s2.mapAccess m.gr.ctx m.gr.core old.toNat 8 needsWrite false = (s3, .ok opas ovas on ox) →
        let u := (s3.enqWrite m 2 tl tpas tvas (leBytes 8 p.toNat)).setSwap m.g m.tid none
        (on = 0 → exec (.enq x y c) s = .next ((u.enqWrite m 1 old opas ovas (leBytes 8 p.toNat)).signed e c.toNat)) ∧
        (on ≠ 0 → isHostNode on = false → s3.portBlocked on (opas.headD 0) = false →
          let f := (u.setSwap m.g m.tid none).free
          f.2.sendReq (.enq m.g m.tid f.1) on (opas.headD 0) 8 (some p.toNat) none
            (u.viaOf m.gr.ctx m.gr.core needsWrite opas ovas (opas.headD 0)) = (s4, some r) →
          exec (.enq x y c) s = .next (waits (s4.setSwap m.g m.tid
            (some ⟨m.tid, e.t.pos.pc, tl, p, tpas.headD 0, 0, f.1, .link old⟩))))) ∧
      (tn ≠ 0 → isHostNode tn = false → s2.portBlocked tn (tpas.headD 0) = false →
        let f := (s2.setSwap m.g m.tid none).free
        f.2.sendReq (.enq m.g m.tid f.1) tn (tpas.headD 0) 8 none none
          (some ⟨m.gr.ctx, m.gr.core, tl, needsBoth, s2.time⟩) = (s3, some r) →
        exec (.enq x y c) s = .next (waits (s3.setSwap m.g m.tid
          (some ⟨m.tid, e.t.pos.pc, tl, p, tpas.headD 0, tn, f.1, .read⟩)))))) ∧
  (∀ (x : BitVec 6) (c : BitVec 3) (k : BitVec 8) (s : State) (e m : Env), s.SignsLast (.evt x c k) c.toNat e m →
    let cl := clusterOf m.gr.core
    let post := fun (s : State) (kind val : Nat) => s.complete cl ⟨e.t.pos.pc, val, false, 0, 0, kind, s.time, m.gr.ctx⟩
    (k = 0x21 → exec (.evt x c k) s = .next (((post s.pop.free.2 6 (m.t.getX x).toNat).modKernel m.gr.kern fun kr =>
      { kr with estimate := some (s.time + 1000 * (m.t.getX x).toNat) }).signed e c.toNat)) ∧
    (∀ s1 pas vas node z, k = 0x20 → (m.t.getX2 x).toNat % 64 = 0 →
      s.pop.free.2.mapAccess m.gr.ctx m.gr.core (m.t.getX2 x + 0x10).toNat 8 needsWrite false = (s1, .ok pas vas node z) →
      exec (.evt x c k) s = .next (
        let s2 := post s1 5 ((m.t.getX2 x).toNat % 2 ^ 32)
        (s2.setCluster cl { s2.cluster cl with
          releases := (s2.cluster cl).releases ++ [⟨m.gr.ctx, m.t.getX2 x, none⟩] }).signed e c.toNat)))

/-- R307, R314: TCFG writes a control register whose value passes its checks, and faults on another; SEGN gives the
next run of granules within one block of both operands. -/
def Obligations.TileControlResult : Prop :=
  (∀ (t : BitVec 4) (a : BitVec 6) (s : State) (e : Env), s.Issues (.tcfg t a) e →
    let v := e.t.getX a
    (tcUsable v → bareNarrow v = false →
      exec (.tcfg t a) s = .next ((s.pop.modGroup e.g fun g =>
        { g with tcs := g.tcs.setWord t.toNat (v &&& 0x1FFFFFF) }).retire e e.t 1)) ∧
    (bareNarrow v = true → exec (.tcfg t a) s = .next (s.pop.faultAt e 0x20 0x02 0)) ∧
    (bareNarrow v = false → tagReserved (tcTag v) = true → exec (.tcfg t a) s = .next (s.pop.faultAt e 0x20 0x03 0)) ∧
    (tagReserved (tcTag v) = false → bareNarrow v = false → tcFormed v = false →
      exec (.tcfg t a) s = .next (s.pop.faultAt e 0x21 0x01 0))) ∧
  (∀ (d a b : BitVec 6),
    let pos := fun (t : Thread) => (t.getX b).toNat % 2 ^ 16
    let lim := fun (t : Thread) => (t.getX b).toNat / 2 ^ 16
    let legal := fun t => pos t % 8 = 0 ∧ lim t % 8 = 0 ∧ lim t ≤ 512
    let start := fun (t : Thread) (op g : Nat) => g = 0 ∨ (t.getX a).getLsbD (8 * op + g)
    ThreadFault (fun t => ¬legal t) (.segn d a b) 0x01 0x07 ∧
    ThreadWordIf (fun t => legal t ∧ lim t ≤ pos t) (.segn d a b) (fun t =>
      (t.setX d (BitVec.ofNat 32 (pos t))).setX (d + 1) (BitVec.ofNat 32 (pos t))) ∧
    ∀ (s : State) (e : Env), s.Issues (.segn d a b) e → legal e.t → pos e.t < lim e.t →
      ∃ len oa ob, 0 < len ∧ len % 8 = 0 ∧ pos e.t + len ≤ lim e.t ∧ pos e.t % 64 + len ≤ 64 ∧
        (∀ g, pos e.t % 64 / 8 < g → 8 * g < pos e.t % 64 + len → ¬start e.t 0 g ∧ ¬start e.t 1 g) ∧
        (pos e.t + len = lim e.t ∨ pos e.t % 64 + len = 64 ∨
          start e.t 0 ((pos e.t % 64 + len) / 8) ∨ start e.t 1 ((pos e.t % 64 + len) / 8)) ∧
        oa = ((List.range (pos e.t % 64 / 8 + 1)).countP fun g => decide (start e.t 0 g)) - 1 ∧
        ob = ((List.range (pos e.t % 64 / 8 + 1)).countP fun g => decide (start e.t 1 g)) - 1 ∧
        exec (.segn d a b) s = .next (s.pop.retire e
          ((e.t.setX d (BitVec.ofNat 32 (pos e.t + len * 2 ^ 16))).setX (d + 1)
            (BitVec.ofNat 32 (pos e.t + len + oa * 2 ^ 16 + ob * 2 ^ 20 + pos e.t / 64 * 2 ^ 24))) 1))

/-- R286, R291, R302: an operation that is performed leaves its queue, changes no tile or accumulator but those it
writes, no register but TCHK's destination, and no byte of memory unless it is TST or AST. -/
def Obligations.TileFrame : Prop :=
  ∀ (c : Fin 1024) (s s' : State) (o : TileOp) gr, (s.core c).tileq.find? (fun x => x.id == o.id) = some o →
    s.tileReady c o = true → s.group? o.grp = some gr → s.performTile o gr 0 0 = (s', .done) →
    ∃ t gr', exec (.tileOpPerformed c ⟨o.id, 0, 0⟩) s = .next t ∧ t.group? o.grp = some gr' ∧
      (∀ x ∈ (t.core c).tileq, ¬(x.id = o.id ∧ x.grp = o.grp)) ∧
      (∀ n, n ∉ o.kind.writes → gr'.tile n = gr.tile n) ∧
      (∀ n, 16 + n ∉ o.kind.writes → gr'.acc n = gr.acc n) ∧
      ((∀ n a b, o.kind ≠ .tst n a b) → (∀ n a b, o.kind ≠ .ast n a b) → t.mem = s.mem) ∧
      ((∀ d n l, o.kind ≠ .tchk d n l) → ∀ tid, (t.thread? o.grp tid).map Thread.x = (s.thread? o.grp tid).map Thread.x)

/-- R51, R286, R308, R309, R315, R317: what TZERO, ACLR, SCACC, TCHK, TLD, ALD, TST and AST leave. R310, R311: QNT leaves the
rows, the boundaries and the scales that its tile quantizes to (R47 to R49). R312: TCVT leaves each row converted. R316:
AMOV.IN fills the accumulator's elements from the tile's first 128 columns and AMOV.OUT the tile's from the accumulator; no
other element changes. R40: the three that rotate set RNF where a block is not finite. -/
def Obligations.TileResult : Prop :=
  ∀ (c : Fin 1024) (s : State) (o : TileOp) gr, (s.core c).tileq.find? (fun x => x.id == o.id) = some o →
    s.tileReady c o = true → s.group? o.grp = some gr →
    let v := fun (n : Nat) => Tbl.get 0 o.tcs n
    let out := fun (q : State → Group → Prop) => ∃ t gr', exec (.tileOpPerformed c ⟨o.id, 0, 0⟩) s = .next t ∧
      t.group? o.grp = some gr' ∧ q t gr'
    (∀ n, o.kind = .tzero n → out fun _ g => ∀ i j, i < tcRows (v n) → j < tcCols (v n) * (tcFmt (v n)).width / 8 →
      (g.tile n).byte (256 * i + j) = 0) ∧
    (∀ a, o.kind = .aclr a → out fun _ g => ∀ i j, i < 128 → j < 128 → accWord (g.acc a) i j = 0) ∧
    (∀ d p sa sb, o.kind = .scacc d p sa sb → out fun _ g => ∀ i j, i < 128 → j < 128 →
      let a := (sa.getD i 0).toNat
      let b := (sb.getD j 0).toNat
      accWord (g.acc d) i j = if a = 255 ∨ b = 255 then 0x7FC00000
        else toF32 ((f32 (accWord (gr.acc d) i j)).add ((f32 (accWord (gr.acc p) i j)).scale ((a : Int) - 127 + ((b : Int) - 127))))) ∧
    (∀ d n l, o.kind = .tchk d n l → d < 64 → out fun t _ => ∀ tid ∈ l, ∀ th, s.thread? o.grp tid = some th → th.live = true →
      (t.thread? o.grp tid).map (fun th => th.getX (BitVec.ofNat 6 d))
        = some (tileCounts (v n) (tileRows (v n) (gr.tile n)))) ∧
    (∀ n addr stride s1 ps, o.kind = .tld n addr stride →
      s.placeElems gr.ctx gr.core needsRead (rawSize (v n)) .done (tileElems (v n) addr stride) = (s1, ps, .done) →
      (∀ p ∈ ps, p.node = 0) → (ps.map Placed.at_).Nodup → (∀ p ∈ ps, p.pas.length = rawSize (v n)) →
      (∀ p ∈ ps, p.at_ % rawSize (v n) = 0) →
      out fun _ g => ∀ p ∈ ps, (g.tile n).bytes p.at_ (rawSize (v n)) = p.pas.map s.byte) ∧
    (∀ a addr cfg s1 ps, o.kind = .ald a addr cfg →
      s.placeElems gr.ctx gr.core needsRead 4 .done (accElems addr cfg) = (s1, ps, .done) → (∀ p ∈ ps, p.node = 0) →
      (ps.map Placed.at_).Nodup →
      out fun _ g => ∀ p ∈ ps, (g.acc a).word p.at_ = BitVec.ofNat 32 (leNat (p.pas.map s.byte))) ∧
    (∀ n addr stride s1 ps, o.kind = .tst n addr stride → o.failed = none → o.wrote = 0 →
      s.placeElems gr.ctx gr.core needsWrite (rawSize (v n)) .done (tileElems (v n) addr stride) = (s1, ps, .done) →
      (∀ p ∈ ps, p.node = 0 ∧ p.pas.length = rawSize (v n)) → (ps.flatMap Placed.pas).Nodup →
      (∀ q ∈ ps.flatMap Placed.pas, q < 2 ^ 40) → s.mirage.st = .idle →
      out fun t _ => (∀ p ∈ ps, p.pas.map t.byte = (gr.tile n).bytes p.at_ (rawSize (v n))) ∧
        ∀ q, q ∉ ps.flatMap Placed.pas → t.byte q = s.byte q) ∧
    (∀ a addr cfg s1 ps, o.kind = .ast a addr cfg → o.failed = none → o.wrote = 0 →
      s.placeElems gr.ctx gr.core needsWrite 4 .done (accElems addr cfg) = (s1, ps, .done) →
      (∀ p ∈ ps, p.node = 0 ∧ p.pas.length = 4) → (ps.flatMap Placed.pas).Nodup →
      (∀ q ∈ ps.flatMap Placed.pas, q < 2 ^ 40) → s.mirage.st = .idle →
      out fun t _ => (∀ p ∈ ps, leNat (p.pas.map t.byte) = ((gr.acc a).word p.at_).toNat) ∧
        ∀ q, q ∉ ps.flatMap Placed.pas → t.byte q = s.byte q) ∧
    (let seed := fun (n : Nat) => Tbl.get 0 o.seeds n
     let row := fun (n i : Nat) => tileRow (tcFmt (v n)) (tcCols (v n)) (gr.tile n) i
     let holds := fun (g : Group) (d i : Nat) (codes : List Nat) =>
       let bs := rowBytes (tcFmt (v d)) codes
       (g.tile d).bytes (256 * i) bs.length = bs
     let fits := fun (d : Nat) (codes : List Nat) => codes.length * (tcFmt (v d)).width ≤ 2048
     let rnf := fun (g : Group) (b : Bool) => ∀ w, Tbl.find? gr.warps o.warp = some w →
       (Tbl.find? g.warps o.warp).map (fun w => bit w.chkstat.toNat 0) = some (bit w.chkstat.toNat 0 || b)
     (∀ d src thr off, o.kind = .qnt d src thr off →
       let q := quantize (v src) (v d) thr (seed (tcTag (v d) % 8)) (tileRows (v src) (gr.tile src))
       (∀ r ∈ q.1, fits d r) →
       out fun _ g => (∀ i < q.1.length, holds g d i (q.1.getD i [])) ∧ g.scratch.bytes off q.2.1.length = q.2.1 ∧ rnf g q.2.2) ∧
     (∀ d src, o.kind = .tcvt d src →
       let conv := fun i => tcvtRow (v src) (v d) seed (row src i)
       (∀ i < tcRows (v src), fits d (conv i).1) →
       out fun _ g => (∀ i < tcRows (v src), holds g d i (conv i).1) ∧
         rnf g ((List.range (tcRows (v src))).any fun i => (conv i).2)) ∧
     (∀ a n, o.kind = .amovIn a n →
       let conv := fun i => amovInRow (v n) seed (row n i)
       out fun _ g => (∀ i j, i < 128 → j < 128 → accWord (g.acc a) i j =
           if i < tcRows (v n) ∧ j < (conv i).1.length then (conv i).1.getD j 0 else accWord (gr.acc a) i j) ∧
         (bit (tcTag (v n)) 4 = false → ∀ i j, i < tcRows (v n) → j < 128 → j < tcCols (v n) →
           accWord (g.acc a) i j = toF32 ((tcFmt (v n)).decode ((row n i).getD j 0))) ∧
         rnf g ((List.range (tcRows (v n))).any fun i => (conv i).2)) ∧
     (∀ a n, o.kind = .amovOut a n → tcCols (v n) * (tcFmt (v n)).width ≤ 2048 →
       out fun _ g => ∀ i < tcRows (v n), holds g n i ((List.range (tcCols (v n))).map fun j =>
         if j < 128 then
           (if tcFmt (v n) = .f32 then (accWord (gr.acc a) i j).toNat else (tcFmt (v n)).encode (f32 (accWord (gr.acc a) i j)))
         else (row n i).getD j 0)))

/-- R33, R34, R290, R295, R296, R313: a product that has an operand or a value that is not finite is formed on the
guarded path: each element of each sub-array's region takes in its exact products, in one addition per group of four
under NBV 0 or one in all under NBV 1. R297, R298: of the other products each is formed, checked and resolved in turn; where
one ends as CHECK_HARD no accumulator changes, else each element takes in its product as the resolution leaves it. FUSE 0
takes four tiles of each operand and four accumulators. How far a product that VM formed is off is a free value (log 7). -/
def Obligations.MmaGuarded : Prop :=
  ∀ (c : Fin 1024) (s : State) (o : TileOp) gr fmt acc ta tb fuse off len mode retry,
    (s.core c).tileq.find? (fun x => x.id == o.id) = some o → s.tileReady c o = true → s.group? o.grp = some gr →
    o.kind = .mma fmt acc ta tb fuse off len mode retry → fuse ≤ 3 →
    let f := (Fmt.ofCode fmt).getD .e8m0
    let more := fun (i : Nat) => if fuse = 0 then i else 0
    let fromA := fun (i : Nat) => if fuse = 3 then 32 * i else if fuse = 2 then 32 * (i / 2) else 0
    let fromB := fun (i : Nat) => if fuse = 1 then 32 * i else if fuse = 2 then 32 * (i % 2) else 0
    let rowsA := fun i => operand f (Tbl.get 0 o.tcs (ta + more i)) (gr.tile (ta + more i)) (fromA i) off len
    let rowsB := fun i => operand f (Tbl.get 0 o.tcs (tb + more i)) (gr.tile (tb + more i)) (fromB i) off len
    let odd := fun i => special o.nbv (rowsA i) (rowsB i)
    let was := fun i x y => accWord (gr.acc (acc + more i)) (fromA i + x) (fromB i + y)
    ((∀ i < 4, odd i = true) →
      ∃ t gr', exec (.tileOpPerformed c ⟨o.id, 0, 0⟩) s = .next t ∧ t.group? o.grp = some gr' ∧
        ∀ i x y, i < 4 → x < 32 → y < 32 →
          let a := (rowsA i).getD x []
          let b := (rowsB i).getD y []
          accWord (gr'.acc (acc + more i)) (fromA i + x) (fromB i + y) = (if o.nbv = 1
            then accAdd (was i x y) (Fmt.f32.round (dot a b)) else (groupSums a b).foldl accAdd (was i x y))) ∧
    (let first := fun (i : Nat) => s.fresh + (retry + 2) * (List.range i).countP fun j => !odd j
     let res := fun (i : Nat) => if odd i then Resolved.guarded
       else (resolve (fun k => mismatches o.nbv (first i + k) (tolerance fmt) (rowsA i) (rowsB i)) (first i) mode retry).1
     let bad := fun (i : Nat) => match res i with | .hard _ _ _ _ => true | _ => false
     ∃ t gr', exec (.tileOpPerformed c ⟨o.id, 0, 0⟩) s = .next t ∧ t.group? o.grp = some gr' ∧
       ((∃ i < 4, bad i = true) → ∀ n r k, accWord (gr'.acc n) r k = accWord (gr.acc n) r k) ∧
       ((∀ i < 4, bad i = false) → ∀ i x y, i < 4 → x < 32 → y < 32 →
         accWord (gr'.acc (acc + more i)) (fromA i + x) (fromB i + y)
           = accEnter o.nbv (res i) ((rowsA i).getD x []) ((rowsB i).getD y []) x y (was i x y)))

/-- R253, R255, R259: an engine command that can run and whose rows are placed in the package moves them and ends; a COPY
of one FP32
row within scratch, its two sides apart, leaves the row at its destination and every other byte of scratch and memory
as it was. -/
def Obligations.CommandResult : Prop :=
  ∀ (s : State) (c : Cmd), s.cmds.find? (fun x => x.id == c.id) = some c → c.st = .waiting → s.cmdReady c = true →
    (∀ s1 plan, c.kind ≠ .copyR → c.kind ≠ .atomR →
      s.planRows c (true, true) .done (List.range (Block.rows c.block)) = (s1, plan, .done) → c.peers plan = ([], []) →
      exec (.commandComplete ⟨c.id, 0, 0⟩) s = .next ((s1.moveRows c 0 plan).moved c)) ∧
    (∀ g tid gr k, c.kind = .copy → c.owner = some (g, tid) → s.group? g = some gr → s.kernel? gr.kern = some k →
      let b : Block := c.block
      let n := 4 * b.cols
      b.rows = 1 → b.ssp = 1 → b.dsp = 1 → b.conv = false → b.scode = 0 → b.dcode = 0 →
      b.src + n ≤ 256 * k.scru → b.dst + n ≤ 256 * k.scru → b.src + n ≤ b.dst ∨ b.dst + n ≤ b.src → k.scru ≤ 2048 →
      (∀ r ∈ s.reqs, r.whose.ofCmd c.id = false) →
      ∃ t gr', exec (.commandComplete ⟨c.id, 0, 0⟩) s = .next t ∧ t.group? g = some gr' ∧ t.mem = s.mem ∧
        (∀ i < n, gr'.scratch.byte (b.dst + i) = gr.scratch.byte (b.src + i)) ∧
        ∀ q, q < b.dst ∨ b.dst + n ≤ q → gr'.scratch.byte q = gr.scratch.byte q)

/-! ### Contexts, queues, kernels, groups (03_context.md, 04_queue.md, 05_kernel.md, 06_group.md) -/

/-- R83, R84: the commands of CXCMD. BIND of a free identifier with a valid CCB makes a SAVED context from it; PREEMPT
quiesces a SAVED context and starts the halt of a RUNNING one; RESUME lets it go on; DESTROY discards its work. Each
leaves its OP, ID and RESULT, and one that does not apply changes nothing else. R84, R85, R91: the phases that follow.
A HALTING context whose cores are at a boundary is STAGING and its groups are being saved; when none holds a core it
is SAVED; a context whose destruction is complete is gone; a held record is written when the queue has room. The model's
choices: LHOR is 0 at BIND (log 15), and a DESTROYING context takes a further DESTROY (log 14). -/
def Obligations.ContextCommands : Prop :=
  (∀ (p : Fin 2) (id : BitVec 12) (s : State),
    let ccb := (s.port p).cxaddr.toNat
    (∀ op res, op < 16 → res < 8 →
      let v := ((s.answerCx p op id res).port p).cxcmd.toNat
      bits v 0 4 = op ∧ bits v 8 12 = id.toNat ∧ bits v 28 3 = res) ∧
    (id = 0 → exec (.bind p id) s = .next (s.answerCx p 1 id 4)) ∧
    (id ≠ 0 → (s.ctx? id.toNat).isSome → exec (.bind p id) s = .next (s.answerCx p 1 id 3)) ∧
    (id ≠ 0 → s.ctx? id.toNat = none → s.ccbValid ccb = false → exec (.bind p id) s = .next (s.answerCx p 1 id 1)) ∧
    (id ≠ 0 → s.ctx? id.toNat = none → s.ccbValid ccb = true → ∃ t c, exec (.bind p id) s = .next t ∧
      t.ctx? id.toNat = some c ∧ c.st = .saved ∧ c.pre = false ∧ c.port = p ∧ c.ccb = ccb ∧ c.lastop = 1 ∧
      c.tenant = s.readN ccb 8 % 2 ^ 12 ∧ c.ptroot = s.readN (ccb + 8) 8 ∧ c.accw = 0 ∧ c.spw = 0 ∧ c.fqwr = 0 ∧
      c.lhor = 0 ∧ c.tdies = 0 ∧ c.kernNext = 1 ∧ c.batchNext = 1 ∧ bits (t.port p).cxcmd.toNat 28 3 = 0) ∧
    (s.ctx? id.toNat = none → exec (.preempt p id) s = .next (s.answerCx p 2 id 4) ∧
      exec (.resume p id) s = .next (s.answerCx p 3 id 4) ∧ exec (.destroy p id) s = .next (s.answerCx p 4 id 4)) ∧
    (∀ c, s.ctx? id.toNat = some c →
      (c.st = .saved → c.pre = false → ∃ t, exec (.preempt p id) s = .next t ∧
        t.ctx? id.toNat = some { c with pre := true, lastop := 2 }) ∧
      (c.st = .running → ∃ t c', exec (.preempt p id) s = .next t ∧ t.ctx? id.toNat = some c' ∧ c'.st = .halting ∧
        c'.pre = true ∧ c'.lastop = 2) ∧
      (c.st ≠ .running → ¬(c.st = .saved ∧ c.pre = false) → exec (.preempt p id) s = .next (s.answerCx p 2 id 2)) ∧
      (c.st = .saved → c.pre = true → ∃ t c', exec (.resume p id) s = .next t ∧ t.ctx? id.toNat = some c' ∧
        c'.st = (if s.hasWork id.toNat then .running else .saved) ∧ c'.pre = false ∧ c'.lastop = 3) ∧
      (c.st = .stopped → ∃ t c', exec (.resume p id) s = .next t ∧ t.ctx? id.toNat = some c' ∧ c'.st = .running ∧
        c'.pre = false) ∧
      (c.st ≠ .stopped → ¬(c.st = .saved ∧ c.pre = true) → exec (.resume p id) s = .next (s.answerCx p 3 id 2)) ∧
      (∃ t c', exec (.destroy p id) s = .next t ∧ t.ctx? id.toNat = some c' ∧ c'.st = .destroying ∧
        c'.lastop = 4 ∧ (∀ g ∈ t.groups, g.2.ctx ≠ id.toNat) ∧ (∀ k ∈ t.cmds, k.ctx ≠ id.toNat) ∧
        (∀ q ∈ t.queues, q.2.ctx = id.toNat → q.2.detached = true)))) ∧
  (∀ (id : BitVec 12) (s : State) c, s.ctx? id.toNat = some c →
    (c.st = .halting → s.atBoundary id.toNat = true → ∃ t c', exec (.contextHalted id) s = .next t ∧
      t.ctx? id.toNat = some c' ∧ c'.st = .staging ∧
      ∀ g gr, s.group? g = some gr → gr.ctx = id.toNat → gr.st = .running ∨ gr.st = .dumping → gr.ending = none →
        ∃ gr', t.group? g = some gr' ∧ gr'.st = .saving ∧ gr'.ret = gr.st ∧ gr'.cause = 0 ∧ gr'.saveTime = s.time) ∧
    (c.st = .staging → s.allStaged id.toNat = true → ∃ t c', exec (.stagingComplete id) s = .next t ∧
      t.ctx? id.toNat = some c' ∧ c'.st = .saved ∧ c'.pre = c.pre) ∧
    (s.destroyed id.toNat c = true → ∃ t, exec (.destroyComplete id) s = .next t ∧ t.ctx? id.toNat = none ∧
      ∀ k ∈ t.kernels, k.2.ctx ≠ id.toNat) ∧
    (∀ r, c.held = [r] → s.fqFull c = false → exec (.fqRoomPoll id) s
      = .next ((s.writeRecord id.toNat r).modCtx id.toNat fun c => { c with held := [] })) ∧
    (c.held ≠ [] → s.fqFull c = true → ∃ t, exec (.fqRoomPoll id) s = .next t ∧ t.ctx? id.toNat = some c ∧ t.mem = s.mem))

/-- R93, R94: ATTACH of a valid QCB attaches its queue at the sentinel; RESULT is 6 for a QCB attached already and 1 for one
that is invalid. DETACH of a queue with no packet ends it; RESULT is 4 where no queue of that QCB is attached. The model's
choices: a queue that is detaching is not attached and not among its cluster's 64 (log 25), and RESULT 1 comes before 2
(log 14). -/
def Obligations.QueueCommands : Prop :=
  ∀ (p : Fin 2) (s : State), bit (s.port p).qcmd.toNat 31 = false → (s.port p).attach = none →
    let s0 := s.setPort p { s.port p with attach := none }
    let qcb := (s.port p).qaddr.toNat
    let w := fun i => s.readN (qcb + 8 * i) 8
    let ctx := w 2 % 2 ^ 12
    let clu := w 2 / 2 ^ 32 % 2 ^ 7
    (∀ s' ws, s.queueAt qcb = none → s.qcbBad qcb = false → (∃ c, s.ctx? ctx = some c ∧ c.st ≠ .destroying) →
      (s.queues.filter fun q => q.2.clu == clu && !q.2.detached).length < 64 →
      s0.readWords ctx (coreOfCluster clu) ((List.range 8).map fun i => w 3 + 8 * i) = (s', .ok [ws]) → w 3 % 64 = 0 →
      rcbBad ws = false →
      ∃ t n k, exec (.queueAttach p) s = .next t ∧ t.queue? n = some k ∧ k.qcb = qcb ∧ k.ctx = ctx ∧ k.clu = clu ∧
        k.last.toNat = w 0 ∧ k.detached = false ∧
          Tbl.find? t.regions k.region = some (regionOf ctx clu (BitVec.ofNat 64 (w 3)) none 0 ws) ∧
        (t.port p).qcmd = 1) ∧
    ((s.queueAt qcb).isSome → exec (.queueAttach p) s = .next (s0.answerQ p 1 6 false)) ∧
    (s.queueAt qcb = none → s.qcbBad qcb = true → exec (.queueAttach p) s = .next (s0.answerQ p 1 1 false)) ∧
    (s.queueAt qcb = none → exec (.queueDetach p) s = .next (s.answerQ p 2 4 false)) ∧
    (∀ q k, s.queueAt qcb = some (q, k) → (∀ x ∈ s.pkts, x.2.queue ≠ q) →
      ∃ t, exec (.queueDetach p) s = .next t ∧ t.queue? q = none ∧ (t.port p).qcmd = 2)

/-- R95 to R102, R108, R110, R262, R395: a packet's life. Consumption marks the packet's word and takes it into the
SCC's keeping, READY where it waits for nothing; a ready NOP, JOIN or MARK is done, a KERNEL or COPY packet is launched, a
SIGNAL stores or adds. R104: a REGION packet acts as it is consumed: it pops the current region, or pushes another and sets
its PARENT and DEPTH. The last dependence makes a packet ready; an ended packet whose status and successors are written is
gone. The model's choices: the low six bits of NEXT are ignored (log 14), and a link word in another package holds a free
value (log 19). -/
def Obligations.PacketLife : Prop :=
  ∀ (s : State),
    (∀ n q s1 s2 s3 pas vas node x ws v, s.queue? n = some q → s.mirage.queue ≠ some n → s.mirage.st = .idle →
      s.mayConsume q = true → s.regionPending n = false →
      let clu := s.substitute q.clu
      s.mapAccess q.ctx (coreOfCluster clu) q.last.toNat 8 needsRead false = (s1, .ok pas vas node x) →
      (node = 0 → s1.damageAt pas = 0) →
      let p : W64 := BitVec.ofNat 64 (leNat (s1.readMapped pas node) / 64 * 64)
      (leNat (s1.readMapped pas node) / 64 = 0 → exec (.packetConsume n) s = .next (s1.armQueue n pas node)) ∧
      (leNat (s1.readMapped pas node) / 64 ≠ 0 → leNat (s1.readMapped pas node) < 2 ^ 64 →
        s1.readWords q.ctx (coreOfCluster clu) ((List.range 8).map fun i => p.toNat + 8 * i) = (s2, .ok [ws]) →
        s2.rmw q.ctx (coreOfCluster clu) ((p + 0x10).toNat) (fun w => w % 2 ^ 31 + 2 ^ 31 + clu * 2 ^ 32 + w / 2 ^ 39 % 2 ^ 25 * 2 ^ 39)
          = (s3, .ok v) →
        let f := fun i => (ws.getD i 0).toNat
        (bits (f 1) 0 4 = 5 → s.rejects q f = false → ∃ u k kp, u.pkt? k = some kp ∧ kp.addr = p ∧ kp.queue = n ∧
          kp.owner = clu ∧ kp.img = ws ∧ kp.st = .ready ∧ exec (.packetConsume n) s = exec (.packetReady k) u) ∧
        (bits (f 1) 0 4 ≠ 5 ∨ s.rejects q f = true →
        ∃ t k kp, exec (.packetConsume n) s = .next t ∧ t.pkt? k = some kp ∧ kp.addr = p ∧ kp.queue = n ∧ kp.owner = clu ∧
          kp.img = ws ∧ (t.queue? n).map Queue.last = some p ∧
          (if s.rejects q f then kp.st = .finished ∧ kp.status = 4
           else if bit (f 2) 30 then kp.st = .finished ∧ kp.status = 3
           else if f 2 % 2 ^ 16 = 0 then kp.st = .ready else kp.st = .pending)))) ∧
    (∀ n k, s.pkt? n = some k → k.st = .ready → k.paged = none → s.sccFrozen k.owner = false →
      (k.ptype = 0 ∨ k.ptype = 2 ∨ k.ptype = 6 → exec (.packetReady n) s = .next (s.endPkt n 1 0 0 0)) ∧
      (∀ s1 pt, k.ptype = 1 ∨ k.ptype = 4 → s.choosePoint k = (s1, .ok pt) →
        ∃ t k', exec (.packetReady n) s = .next t ∧ t.pkt? n = some k' ∧ k'.st = .launching ∧ k'.point = pt) ∧
      (∀ s1 pas vas x, k.ptype = 3 → bits (k.w 1) 24 2 = 0 →
        s.mapAccess k.ctx k.core (k.w 6) 8 needsWrite false = (s1, .ok pas vas 0 x) →
        exec (.packetReady n) s = .next ((s1.localWrite k.ctx none 1 pas vas (leBytes 8 (k.w 7))).endPkt n 1 0 0 0)) ∧
      (∀ s1 pas vas x, k.ptype = 3 → bits (k.w 1) 24 2 = 1 →
        s.mapAccess k.ctx k.core (k.w 6) 8 needsBoth false = (s1, .ok pas vas 0 x) → s1.damageAt pas = 0 →
        pas.length = 8 → pas.Nodup → (∀ p ∈ pas, p < 2 ^ 40) → s.mirage.st = .idle →
        ∃ t, exec (.packetReady n) s = .next t ∧
          leNat (pas.map t.byte) = (leNat (pas.map s.byte) + k.w 7) % 2 ^ 64 ∧ (∀ p, p ∉ pas → t.byte p = s.byte p) ∧
          t.pkt? n = some { k with st := .finished, paged := none, status := 1, code := 0, sub := 0, val := 0 }) ∧
      (∀ q g, k.ptype = 5 → s.queue? k.queue = some q → Tbl.find? s.regions q.region = some g →
        (∀ p, k.w 6 = 0 → g.parent = some p → ∃ t k', exec (.packetReady n) s = .next t ∧
          (t.queue? k.queue).map Queue.region = some p ∧ t.pkt? n = some k' ∧ k'.st = .finished ∧ k'.status = 1) ∧
        (∀ s1 s2 ws v, k.w 6 ≠ 0 → k.w 6 % 64 = 0 → rcbBad ws = false →
          s.readWords k.ctx k.core ((List.range 8).map fun i => k.w 6 + 8 * i) = (s1, .ok [ws]) →
          s1.vwrite k.ctx k.core (k.w 6) 8 g.rcb.toNat 1 = (s2, .ok v) →
          ∃ t r k', exec (.packetReady n) s = .next t ∧ (t.queue? k.queue).map Queue.region = some r ∧
            Tbl.find? t.regions r
              = some (regionOf k.ctx k.owner (BitVec.ofNat 64 (k.w 6)) (some q.region) (g.depth + 1) ws) ∧
            t.pkt? n = some k' ∧ k'.st = .finished ∧ k'.status = 1))) ∧
    (∀ n k s1 bs, s.pkt? n = some k → k.st = .launching → k.paged = none → k.ptype = 4 →
      (1, k.owner) ∉ s.mgmt.frozen →
      s.readBlocks k.ctx (coreOfCluster k.owner) (k.w 6) (k.w 7 % 2 ^ 8) = (s1, .ok bs) → badBlock (k.w 6) bs = none →
      ∃ t k', exec (.copyPacketRun n) s = .next t ∧ t.pkt? n = some k' ∧ k'.st = .running ∧
        t.cmds.length = s.cmds.length + bs.length) ∧
    (∀ n k s1 s2, s.pkt? n = some k → k.st = .finished → k.paged = none → s.sccFrozen k.owner = false →
      s.pktHeld k = false → s.writeStatus n k = (s1, none) → s1.replayStops k = false →
      s1.successors n k (k.status != 1 && s1.propagates k.region) ((List.range k.nsucc).drop k.released) = (s2, none) →
      ∃ t, exec (.packetFinish n) s = .next t ∧ t.pkt? n = none) ∧
    (∀ (c : Fin 128) r rs s1 v, (s.cluster c).releases = r :: rs → r.paged = none → s.sccFrozen c = false →
      s.releaseDep r.ctx (coreOfCluster c) r.pkt = (s1, .ok v) →
      exec (.evtReleaseApply c) s = .next (s1.setCluster c { s1.cluster c with releases := rs })) ∧
    (∀ ctx core p s1 w, s.rmw ctx core ((p : W64) + 0x10).toNat (fun w => if w % 2 ^ 16 = 0 then w else w - 1) = (s1, .ok w) →
      w % 2 ^ 16 = 1 → bit w 31 = true → bit w 30 = false →
      ∀ k, (s1.complete (w / 2 ^ 32 % 2 ^ 7) (pktEvent s1 ctx p 3)).pendingPkt ctx p = some k →
        ∃ t v, s.releaseDep ctx core p = (t, .ok v) ∧ (t.pkt? k).map Pkt.st = some .ready)

/-- R111 to R119, R123 to R126: a valid descriptor makes a kernel; a group is placed on the core chosen, its threads
before ENTRY with the argument pair in X0 and X1; it ends when its threads have exited and its work is performed; a
saved group's state goes to a frame and comes back; the watchdog counts a group without progress and ends it at the
limit. -/
def Obligations.GroupLife : Prop :=
  ∀ (s : State),
    (∀ n k c s1 s2 ws h, s.pkt? n = some k → s.ctx? k.ctx = some c → k.st = .launching → k.paged = none → k.ptype = 1 →
      s.sccFrozen k.owner = false → k.w 6 % 64 = 0 → s.readWords k.ctx k.core ((List.range 8).map fun i => k.w 6 + 8 * i) = (s1, .ok [ws]) →
      let w := fun i => (ws.getD i 0).toNat
      s1.vread k.ctx k.core (w 0) 4 needsFetch = (s2, .ok h) → s2.descCheck k w = none → h / 2 ^ 24 = 0xC7 → w 0 % 4 = 0 →
      ∃ t kr, exec (.kernelLaunch n) s = .next t ∧ t.kernel? (k.ctx * 2 ^ 32 + c.kernNext) = some kr ∧ kr.st = .placing ∧
        kr.id = c.kernNext ∧ kr.entry.toNat = w 0 ∧ kr.trapv.toNat = w 1 ∧ kr.gdimx = w 2 % 2 ^ 32 ∧
        kr.gszx = w 4 % 2 ^ 10 + 1 ∧ kr.allot = 8 * (w 4 / 2 ^ 56 % 2 ^ 3 + 1) ∧ kr.scru = w 5 / 2 ^ 32 % 2 ^ 12 ∧
        kr.args.toNat = k.w 7 ∧ (t.pkt? n).map Pkt.st = some .running) ∧
    (∀ (id : BitVec 12) (kern lin : BitVec 32) k s1 core, s.kernel? (id.toNat * 2 ^ 32 + kern.toNat) = some k →
      s.dispatches id.toNat k = true → s.tenantReady (((s.ctx? id.toNat).map Ctx.tenant).getD 0) = (s1, true) →
      s1.savedGroup (id.toNat * 2 ^ 32 + kern.toNat) lin.toNat = none → k.st = .placing → k.next = lin.toNat →
      s1.chooseCore (id.toNat * 2 ^ 32 + kern.toNat) k none = some core →
      ∃ t g gr, exec (.groupPlace id kern lin) s = .next t ∧ t.group? g = some gr ∧ gr.st = .running ∧ gr.core = core ∧
        gr.lin = lin.toNat ∧ gr.kern = id.toNat * 2 ^ 32 + kern.toNat ∧ gr.gx = lin.toNat % k.gdimx ∧
        gr.gy = lin.toNat / k.gdimx % k.gdimy ∧ gr.gz = lin.toNat / (k.gdimx * k.gdimy) ∧ gr.retrymax = 2 ∧
        (∀ tid < k.gszx * k.gszy * k.gszz, ∃ th, t.thread? g tid = some th ∧ th.pos = ⟨k.entry, 0, 0⟩ ∧ th.run = .runnable ∧
          th.getX2 0 = k.args ∧ (∀ r : BitVec 6, r ≠ 0 → r ≠ 1 → th.getX r = 0) ∧ th.p = 0 ∧ th.stack = []) ∧
        (t.kernel? (id.toNat * 2 ^ 32 + kern.toNat)).map Kernel.next = some (lin.toNat + 1)) ∧
    (∀ g gr, s.group? g = some gr → gr.st = .running ∨ gr.st = .dumping → s.workDone g gr = true → gr.failing = none →
      gr.ending = none → gr.dirty = false → ∃ t, exec (.groupEnd g) s = .next t ∧ t.group? g = none) ∧
    (∀ g gr k c s1 s2, s.group? g = some gr → s.kernel? gr.kern = some k → s.ctx? gr.ctx = some c → gr.st = .saving →
      s.drained g gr = true →
      let size := 64 + Config.freeNat s.fresh % (2 ^ 22 - 63)
      let va := (c.saveb.toNat + c.freeFrame * 2 ^ 22) % 2 ^ 64
      let header := [k.id + gr.lin * 2 ^ 32, gr.saveTime, min gr.holds.length 7 + gr.returned.gst * 2 ^ 3 + gr.cause * 2 ^ 6,
        size, 0, 0, 0, 0]
      s.free.2.frameFault gr.ctx gr.core (s.free.2.frameVas gr.ctx size c.freeFrame) = (s1, none) →
      s1.vwords gr.ctx gr.core va header = (s2, .ok 0) →
      ∃ t gr', exec (.saveFrameWritten g) s = .next t ∧ t.group? g = some gr' ∧ gr'.st = .saved ∧
        gr'.frame = some c.freeFrame) ∧
    (∀ g gr c, s.group? g = some gr → s.ctx? gr.ctx = some c → c.st = .running → gr.st = .restoring → gr.holds = [] →
      gr.ret = .running → ∃ t gr', exec (.restoreComplete g) s = .next t ∧ t.group? g = some gr' ∧ gr'.st = .running ∧
        gr'.frame = none) ∧
    (∀ g gr, s.group? g = some gr → gr.runs = true →
      (gr.active = true → exec (.watchdogTick g) s = .next (s.modGroup g fun gr => { gr with active := false, count := 0 })) ∧
      (∀ why, gr.active = false → s.eligible g gr = some why → ∃ t, exec (.watchdogTick g) s = .next t ∧
        t.group? g = some { gr with count := gr.count + 1, why := why }) ∧
      (∀ k, s.kernel? gr.kern = some k → s.hangLimit ≠ 0 → s.hangLimit ≤ gr.count → k.st = .running →
        (∀ c, s.ctx? gr.ctx = some c → c.held = [] ∧ s.fqFull c = false) →
        ∃ t, exec (.watchdogExpiry g) s = .next t ∧ t.group? g = none ∧
          ∀ k', t.kernel? gr.kern = some k' → k'.fail = some (0x60, BitVec.ofNat 8 gr.why, gr.lin, dieOfCore gr.core)))

/-! ### Pages, debugger, registers, losses (14_page.md, 18_rail.md, 20_accounts_and_trace.md, 21_trust.md) -/

/-- R205, R268, R270 to R272, R301, R375: RESOLVE ends the wait for a page, RETIRE wakes the page's monitors with code
4, HORIZON gives the context's horizon; leases end; the first held page request and management event go to their
rings; damage is noted and told to the hosts; counted events go to telemetry. R218: of several events at one time a monitor
keeps the lowest code. -/
def Obligations.PageEvents : Prop :=
  ∀ (p : Fin 2) (id : BitVec 12) (s : State),
    let r := s.port p
    (∀ c base size, s.ctx? id.toNat = some c → pgPage r.pgaddr = some (base, size) →
      ∃ t, exec (.resolve p id) s = .next t ∧ bits (t.port p).pgcmd.toNat 28 3 = 0 ∧
        ((∀ q : Fin 2, (s.port q).attach = none) → (∀ x ∈ s.regions, x.2.owed = none) →
          (t.ctx? id.toNat).map Ctx.requests = some (c.requests.filter fun b =>
            !(decide (b.1.toNat < base + size) && decide (base < b.1.toNat + 2 ^ pageLog b.2)))) ∧
        ∀ g gr, s.group? g = some gr → gr.ctx = id.toNat → (t.group? g).map Group.pages
          = some (gr.pages.filter fun b => !(decide (base ≤ b.toNat) && decide (b.toNat < base + size)))) ∧
    (s.ctx? id.toNat = none → exec (.resolve p id) s = .next (s.answerPg p 1 id.toNat 4)) ∧
    (∀ base size, pgPage r.pgaddr = some (base, size) →
      ∃ t, exec (.retire p) s = .next t ∧ bits (t.port p).pgcmd.toNat 28 3 = 0 ∧ t.mem = s.mem ∧
        ∀ g tid th m, s.thread? g tid = some th → th.monitor = some m → ∃ m', (t.thread? g tid).bind Thread.monitor = some m' ∧
          m'.code = (if base / 64 ≤ m.sector ∧ m.sector < (base + size) / 64 ∧
              (m.code = none ∨ m.woken = s.time ∧ ∃ c, m.code = some c ∧ 4 < c) then some 4 else m.code)) ∧
    (pgPage r.pgaddr = none → exec (.retire p) s = .next (s.answerPg p 2 (bits r.pgcmd.toNat 8 12) 6)) ∧
    (∀ c, s.ctx? id.toNat = some c → ∃ t, exec (.horizon p id) s = .next t ∧ (t.port p).pgdata = BitVec.ofNat 64 c.lhor ∧
      bits (t.port p).pgcmd.toNat 28 3 = 0) ∧
    (∃ t, exec .leaseExpiry s = .next t ∧ t.mem = s.mem ∧ t.groups = s.groups ∧
      (∀ e, e ∈ t.tlb ↔ e ∈ s.tlb ∧ s.time < e.expiry) ∧ (∀ e, e ∈ t.views ↔ e ∈ s.views ∧ s.time < e.expiry) ∧
      ∀ n c, Tbl.find? s.cores n = some c →
        Tbl.find? t.cores n = some { c with l1 := c.l1.filter fun l => s.time < l.expiry }) ∧
    (∀ q qs, r.reqs = q :: qs → r.prqbase ≠ 0 → (r.prqwr - r.prqrd).toNat ≠ 2 ^ (r.prqctl.toNat % 2 ^ 5) →
      ∃ t, exec (.pageRequestWrite p) s = .next t ∧ (t.port p).reqs = qs ∧ (t.port p).prqwr = r.prqwr + 1 ∧
        t.mem = (s.deviceWords (r.prqbase.toNat / 4096 * 4096 + 32 * (r.prqwr.toNat % 2 ^ (r.prqctl.toNat % 2 ^ 5)))
          [q.va.toNat, q.kind + q.size * 2 ^ 4 + q.ctx * 2 ^ 8 + r.prqwr.toNat * 2 ^ 32, q.time, 0]).mem ∧
        t.output = s.output ++ (if bit r.prqctl.toNat 5 then [.msix p 1] else [])) ∧
    (∀ e es, r.evs = e :: es → r.evbase ≠ 0 → (r.evwr - r.evrd).toNat ≠ 2 ^ (r.evctl.toNat % 2 ^ 5) →
      ∃ t, exec (.eventRingWrite p) s = .next t ∧ (t.port p).evs = es ∧ (t.port p).evwr = r.evwr + 1 ∧
        t.mem = (s.deviceWords (r.evbase.toNat / 4096 * 4096 + 32 * (r.evwr.toNat % 2 ^ (r.evctl.toNat % 2 ^ 5)))
          [e.time, e.code, e.detail.toNat, e.addr.toNat]).mem ∧
        t.output = s.output ++ (if bit r.evctl.toNat 5 then [.msix p 2] else [])) ∧
    (∀ a (lv : BitVec 8), a < 2 ^ 40 → lv ≠ 0 → ∃ t, exec (.memScrubDamage a lv) s = .next t ∧ t.mem = s.mem ∧
      Tbl.find? t.damaged (a / 32) = some lv.toNat ∧
      ∀ q : Fin 2, (t.port q).evs = (s.port q).evs ++ [⟨s.time, 5, BitVec.ofNat 64 lv.toNat, BitVec.ofNat 64 a⟩]) ∧
    (∃ t, exec .telemetryAdd s = .next t ∧ t.telemetry = [] ∧ (s.mgmt.tlmbase = 0 → t.mem = s.mem) ∧
      ∀ tenant die field n, s.telemetry = [(tenant, die, field, n)] → s.mgmt.tlmbase ≠ 0 →
        let at_ := s.mgmt.tlmbase.toNat + 64 * (8 * tenant + die) + field
        t.mem = (s.deviceWrite at_ 8 ((s.readN at_ 8 + n) % 2 ^ 64)).mem)

/-- R123, R130, R357 to R359: ATTACH and DETACH of a context; HALT stops a thread or holds groups, a due failure taken first,
RESUME undoes it,
STEP lets a stopped thread take one word; each leaves its RESULT, and the SCOPE that it uses or that DBGCMD had. R361 to R365: CAPTURE starts a log for a SAVED
context; STOP ends it; REPLAY restores the snapshot and begins the log again. -/
def Obligations.DebugMirageCommands : Prop :=
  (∀ (p : Fin 2) (id : BitVec 12) (sc : BitVec 2) (s : State),
    let kept := (s.port p).dbgcmd.extractLsb' 10 2
    (s.ctx? id.toNat = none →
      exec (.dbgAttach p id sc) s = .next (s.answerDbg p 1 sc id 4) ∧
        exec (.dbgDetach p id) s = .next (s.answerDbg p 2 kept id 4) ∧
      exec (.dbgHalt p id sc) s = .next (s.answerDbg p 3 sc id 4) ∧
      exec (.dbgResume p id sc) s = .next (s.answerDbg p 4 sc id 4) ∧
      exec (.dbgStep p id) s = .next (s.answerDbg p 5 kept id 4)) ∧
    (∀ c, s.ctx? id.toNat = some c →
      (∃ t, exec (.dbgAttach p id sc) s = .next t ∧ t.ctx? id.toNat = some { c with debug := some sc.toNat } ∧
        bits (t.port p).dbgcmd.toNat 28 3 = 0) ∧
      (∃ t, exec (.dbgDetach p id) s = .next t ∧ t.ctx? id.toNat = some { c with debug := none } ∧
        bits (t.port p).dbgcmd.toNat 28 3 = 0 ∧
        ∀ g gr, s.group? g = some gr → gr.ctx = id.toNat → ∃ gr', t.group? g = some gr' ∧
          (∀ h ∈ gr'.holds, h.byDebugger = false) ∧
          ∀ x ∈ gr'.threads, x.2.isStopped = false ∧ x.2.stepping = false) ∧
      (s.dbgTarget p id sc = .missing → exec (.dbgHalt p id sc) s = .next (s.answerDbg p 3 sc id 6) ∧
        exec (.dbgResume p id sc) s = .next (s.answerDbg p 4 sc id 6)) ∧
      (∀ g th, s.dbgTarget p id sc = .thread g th → s.thread? g th.tid = some th → th.live = true →
        (th.dueLate = none → ∃ t th', exec (.dbgHalt p id sc) s = .next t ∧ t.thread? g th.tid = some th' ∧
          th'.isStopped = true ∧ th'.pos = th.pos ∧ th'.x = th.x) ∧
        (∀ l, th.dueLate = some l → exec (.dbgHalt p id sc) s = .next (
          ((s.deliverLate g th.tid th l).modThread g th.tid Thread.stop).answerDbg p 3 sc id 0)) ∧
        (th.isStopped = true → ∃ t th', exec (.dbgResume p id sc) s = .next t ∧ t.thread? g th.tid = some th' ∧
          th'.isStopped = false ∧ th'.pos = th.pos ∧ th'.x = th.x)) ∧
      (∀ g gr, s.dbgTarget p id sc = .groups [g] → s.group? g = some gr →
        (gr.st = .running → ∃ t gr', exec (.dbgHalt p id sc) s = .next t ∧ t.group? g = some gr' ∧ gr'.st = .halted false ∧
          .debugger sc.toNat ∈ gr'.holds) ∧
        (gr.st = .halted false → gr.holds = [.debugger sc.toNat] → ∃ t gr', exec (.dbgResume p id sc) s = .next t ∧
          t.group? g = some gr' ∧ gr'.st = .running ∧ gr'.holds = [])) ∧
      (∀ g th, s.dbgThread p id = some (g, th) → s.thread? g th.tid = some th →
        (th.isStopped = true → ∃ t th', exec (.dbgStep p id) s = .next t ∧ t.thread? g th.tid = some th' ∧
          th'.stepping = true ∧ th'.isStopped = false ∧ th'.pos = th.pos) ∧
        (th.isStopped = false → exec (.dbgStep p id) s = .next (s.answerDbg p 5 kept id 2))))) ∧
  (∀ (id : BitVec 12) (s : State),
    (s.ctx? id.toNat = none → exec (.capture id) s = .next (s.answerMir 1 id 4) ∧
      exec (.mirageStop id) s = .next (s.answerMir 2 id 4) ∧ exec (.replay id) s = .next (s.answerMir 3 id 4)) ∧
    (∀ c, s.ctx? id.toNat = some c →
      (s.mirage.st ≠ .capturing → s.mirage.st ≠ .replaying → s.mirage.queue = none → c.st = .saved →
        ∃ t, exec (.capture id) s = .next t ∧ t.mirage.st = .capturing ∧ t.mirage.ctx = id.toNat ∧ t.mirage.wr = 0 ∧
          t.mirage.copies = 0 ∧ bits t.mirage.cmd.toNat 28 3 = 0 ∧ t.mem = s.mem) ∧
      (c.st ≠ .saved → exec (.capture id) s = .next (s.answerMir 1 id 2) ∧ exec (.replay id) s = .next (s.answerMir 3 id 2)) ∧
      (s.mirage.ctx = id.toNat → s.mirage.st = .capturing → ∃ t, exec (.mirageStop id) s = .next t ∧ t.mirage.st = .idle ∧
        t.mirage.wr = s.mirage.wr ∧ bits t.mirage.cmd.toNat 28 3 = 0) ∧
      (s.mirage.st ≠ .capturing → s.mirage.st ≠ .replaying → exec (.mirageStop id) s = .next (s.answerMir 2 id 2)) ∧
      (s.mirage.st = .idle → s.mirage.queue = none → c.st = .saved → c.pre = true → s.mirage.wr ≠ 0 →
        s.mirage.ctx = id.toNat → ∃ t q k, exec (.replay id) s = .next t ∧ t.mirage.st = .replaying ∧ t.mirage.pos = 0 ∧
          t.mirage.logEnd = s.mirage.wr.toNat ∧ t.mirage.ndiff = 0 ∧ t.mirage.queue = some q ∧ t.queue? q = some k ∧
          k.ctx = id.toNat ∧ (s.mirage.copies = 0 → t.mem = s.mem))))

/-- R94, R271, R328, R335, R342, R368, R370 to R375: a host's write to a register leaves its value, a value a register
may not hold is ignored, and a master that may not write one is frozen and then writes nothing; an offset that is
not listed ignores the write. -/
def Obligations.RegisterWrites : Prop :=
  ∀ (h p : Fin 2) (s : State) (v : BitVec 64) (x : BitVec 32),
    let n1 : Fin 4 := 1
    (∃ t, exec (.registerWrite (.host h) p 0x00000 true v) s = .next t ∧ (t.port p).cxaddr = v) ∧
    (∃ t, exec (.registerWrite (.host h) p 0x02010 false v) s = .next t ∧ t.mgmt.gwdlim = v.setWidth 32) ∧
    (∃ t, exec (.registerWrite (.host h) p 0x02000 true v) s = .next t ∧ t.mgmt.tbbase = v &&& 0xFFFFFFFFFFFFFFC0) ∧
    (exec (.registerWrite (.host h) p 0x00070 true v) s = .next s) ∧
    (∀ (id : BitVec 12), id ≠ 0 → s.ctx? id.toNat = none → s.ccbValid (s.port p).cxaddr.toNat = false →
      exec (.registerWrite (.host h) p 0x00008 false (1 + BitVec.ofNat 64 (id.toNat * 2 ^ 8))) s = .next (s.answerCx p 1 id 1)) ∧
    (∀ (b : BitVec 64), b.toNat < 2 ^ 52 → b.toNat % 2 ^ (Tbl.get 0 s.mgmt.fwws 1).toNat = 0 →
      20 ≤ (Tbl.get 0 s.mgmt.fwws 1).toNat → (Tbl.get 0 s.mgmt.fwws 1).toNat ≤ 40 →
      ∃ t, exec (.fwwWrite (.host h) n1 false b) s = .next t ∧ Tbl.get 0 t.mgmt.fwwb 1 = b ∧ t.mem = s.mem) ∧
    (x.toNat % 2 ^ 6 = 19 → exec (.fwwWrite (.host h) n1 true (x.setWidth 64)) s = .next s) ∧
    (∀ (n : Fin 16), x.toNat % 2 ^ 6 = 16 → ∃ t, exec (.expsWrite (.host h) n x) s = .next t ∧ Tbl.get 0 t.mgmt.exps n = 16) ∧
    (∀ (n : Fin 16), x.toNat % 2 ^ 6 = 15 → exec (.expsWrite (.host h) n x) s = .next s) ∧
    (∀ (n : BitVec 9), 1 ≤ n.toNat → n.toNat ≤ 288 →
      ∃ t, exec (.routeWrite (.host h) n x) s = .next t ∧ Tbl.get 0 t.mgmt.route n.toNat = x) ∧
    (∀ c : Fin 1024, (∀ g ∈ s.groups, g.2.core ≠ c.val) → (0, Config.coreNumber c.val) ∉ s.mgmt.frozen →
      ∃ t, exec (.routeWrite (.core c) 1 x) s = .next t ∧
      t.mgmt.route = s.mgmt.route ∧ t.mgmt.frozen = s.mgmt.frozen ++ [(0, Config.coreNumber c.val)] ∧ t.groups = s.groups) ∧
    (4 ≤ x.toNat % 2 ^ 5 → x.toNat % 2 ^ 5 ≤ 16 →
      (∃ t, exec (.prqctlWrite p x) s = .next t ∧ (t.port p).prqctl = x &&& 0x3F) ∧
      (∃ t, exec (.evctlWrite p x) s = .next t ∧ (t.port p).evctl = x &&& 0x3F)) ∧
    (x.toNat % 2 ^ 5 < 4 ∨ 16 < x.toNat % 2 ^ 5 →
      exec (.prqctlWrite p x) s = .next s ∧ exec (.evctlWrite p x) s = .next s) ∧
    (∀ (d : Fin 8), ∃ t, exec (.vminvWrite d) s = .next t ∧ (t.die d).vminv = 0xFFFF ∧ (t.die d).vmint = 0 ∧ t.mem = s.mem) ∧
    (∀ m o w, s.mgmt.holdsBack m = true → exec (.registerWrite m p o w v) s = .next s) ∧
    (∀ k id, (k, id) ∈ s.mgmt.frozen → k = 3 → id < 2 ^ 14 → (s.link id).waiting = [] →
      ∃ t, exec (.frzrelWrite (BitVec.ofNat 32 (k * 2 ^ 30 + id * 2 ^ 16))) s = .next t ∧ (k, id) ∉ t.mgmt.frozen ∧
        t.groups = s.groups)

/-- R366 to R370: a boot's image is verified and, if it passes, measured, run and its window locked, else refused with
its RESULT and a management event; a report takes the nonce as ATTEST_GO found it, the measurement and the time. That
verification and the signing of a report end 1 ns after their GO is the model's choice (log 27). -/
def Obligations.BootAndAttest : Prop :=
  ∀ (p : Fin 2) (s : State),
    (s.boot.st = .waiting → ∃ t, exec (.bootGo p) s = .next t ∧ t.boot.st = .verifying ∧ t.boot.port = p ∧
      t.timers = s.timers ++ [(s.time + 1, .imageVerified)] ∧ t.mem = s.mem) ∧
    (s.boot.st = .verifying → exec (.bootGo p) s = .next s) ∧
    (s.boot.st = .running → ∃ t, exec (.bootGo p) s = .next t ∧ (t.port p).bootResult = 5 ∧ t.boot = s.boot) ∧
    (s.boot.st = .verifying → s.verifyImage = 0 → ∃ t, exec .imageVerified s = .next t ∧ t.boot.st = .running ∧
      t.boot.locked = true ∧ t.boot.svn.toNat = s.readN 0xFFFC000004 4 ∧
      t.boot.m0 = Config.sha256 (s.bytes 0xFFFC000000 (0x340 + s.readN 0xFFFC000008 4)) ∧
      (t.port s.boot.port).bootResult = 0 ∧ t.mem = s.mem) ∧
    (s.boot.st = .verifying → s.verifyImage ≠ 0 → ∃ t, exec .imageVerified s = .next t ∧ t.boot.st = .waiting ∧
      (t.port s.boot.port).bootResult = s.verifyImage ∧
      (t.port 0).evs = (s.port 0).evs ++ [⟨s.time, 7, BitVec.ofNat 64 s.verifyImage, 0⟩]) ∧
    ((s.port p).attBusy = false → s.boot.st = .running → ∃ t, exec (.attestGo p) s = .next t ∧
      (t.port p).attBusy = true ∧ (t.port p).attDone = false ∧ (t.port p).attNonce = (s.port p).nonceBytes ∧
      t.timers = s.timers ++ [(s.time + 1, .attestReport p)]) ∧
    ((s.port p).attBusy = true → exec (.attestGo p) s = .next s) ∧
    ((s.port p).attBusy = false → s.boot.st ≠ .running → ∃ t, exec (.attestGo p) s = .next t ∧
      (t.port p).attResult = 5 ∧ (t.port p).attDone = true) ∧
    ((s.port p).attBusy = true → (s.port p).attNonce.length = 32 → ∃ t, exec (.attestReport p) s = .next t ∧
      (t.port p).attDone = true ∧ (t.port p).attBusy = false ∧ (t.port p).attResult = 0 ∧ (t.port p).report.length = 640 ∧
      (t.port p).report.take 32 = (s.port p).attNonce ∧
      leNat (((t.port p).report.drop 0x20).take 32).reverse = s.boot.m0.toNat ∧
      leNat (((t.port p).report.drop 0x80).take 4) = s.boot.svn.toNat ∧
      leNat (((t.port p).report.drop 0x88).take 8) = s.time % 2 ^ 64)

/-- R6, R10, R321, R330, R366: a cold reset puts the package to its reset values; a warm reset of a die its trims,
phases and clusters. R4, R88: the Oasis lost, every context ends; a die lost, a context that had not touched it goes
on. R202, R319, R329, R330: sensors, boost and phases. That memory lists no byte after a cold reset, the model's form of
contents the spec leaves undefined, is the model's choice (log 1). -/
def Obligations.ResetsAndLosses : Prop :=
  ∀ (s : State) (d : Fin 8),
    (∃ t, exec .packageColdReset s = .next t ∧ t.time = 0 ∧ t.mem = [] ∧ t.ctxs = [] ∧ t.groups = [] ∧ t.boot = Boot.reset ∧
      t.mgmt = Mgmt.reset ∧ t.cores = [] ∧ t.oasisLost = false) ∧
    (∃ t, exec (.dieWarmReset d) s = .next t ∧ t.time = s.time ∧ t.mem = s.mem ∧ (t.die d).failed = [] ∧
      (∀ c, c / 128 = d.val → (t.core c).trim = 700) ∧ (∀ c, c / 128 ≠ d.val → t.core c = s.core c) ∧
      ∀ k, k / 16 = d.val → (t.cluster k).dark = false) ∧
    (∃ t, exec .oasisLoss s = .next t ∧ t.oasisLost = true ∧ t.ctxs = [] ∧ t.groups = [] ∧ t.mem = s.mem) ∧
    ((s.die d).lost = false → ∃ t, exec (.dieLoss d) s = .next t ∧ (t.die d).lost = true ∧
      (∀ id c, s.ctxs = [(id, c)] → c.tdies.getLsbD d = true → c.st ≠ .destroying →
        ∃ c', t.ctx? id = some c' ∧ c'.st = .stopped ∧ c'.dlost = c.dlost ||| BitVec.ofNat 8 (2 ^ d.val)) ∧
      ((∀ c ∈ s.ctxs, c.2.tdies.getLsbD d = false) → t.ctxs = s.ctxs ∧ t.groups = s.groups)) ∧
    (∀ (g : Fin 12) (f : Fin 8), (g.val, f.val) ∉ (s.die d).failed →
      ((∀ x ∈ (s.die d).failed, x.1 ≠ g.val) → ∃ t, exec (.phaseFail d g f) s = .next t ∧
        (t.die d).failed = (s.die d).failed ++ [(g.val, f.val)] ∧ t.clusters = s.clusters ∧
        (t.port 0).evs = (s.port 0).evs ++ [⟨s.time, 1, BitVec.ofNat 64 (d.val + g.val * 2 ^ 4 + f.val * 2 ^ 8), 0⟩]) ∧
      (((s.die d).failed.filter fun x => x.1 == g.val).length = 1 → s.groups = [] → s.cmds = [] →
        ∃ t, exec (.phaseFail d g f) s = .next t ∧ ∀ c ∈ fedBy d g, (t.cluster c).dark = true)) ∧
    (∃ t, exec (.calicheThermal d true) s = .next t ∧ (t.die d).therm = true ∧
      (t.die d).thn = (if (s.die d).therm then (s.die d).thn else (s.die d).thn + 1)) ∧
    (∃ t, exec (.calicheThermal d false) s = .next t ∧ (t.die d).therm = false ∧ (t.die d).thn = (s.die d).thn) ∧
    (∀ mv, ∃ t, exec (.vminSample d mv) s = .next t ∧ (t.die d).vminv = (if mv < (s.die d).vminv then mv else (s.die d).vminv) ∧
      (t.die d).vmint = (if mv < (s.die d).vminv then s.time else (s.die d).vmint)) ∧
    (∃ t, exec (.boostWithdraw d) s = .next t ∧ t.mem = s.mem ∧
      ∀ g gr k, s.group? g = some gr → gr.st = .running → gr.core / 128 = d.val → s.kernel? gr.kern = some k → k.point = 3 →
        (t.kernel? gr.kern).map Kernel.point = some 2)

/-- R213, R214, R218, R235, R342, R343, R367: a host's write leaves its bytes and nothing else, but for the locked
firmware window and beyond the memory; one with Relaxed Ordering waits at its port; its read answers with the bytes; its
atomic acts in one piece; a write of more than 512 bytes, a read of more than 4,096 and a compare-and-swap of 128 bits are
unsupported. A peer's request whose flit is whole and in sequence (R337) acts inside an export window with its right, is
answered as damaged where its data is, and is refused outside; the answer joins the port's egress queue as a flit (R332); a
flit that is neither, or held already, does nothing. The model's choices: at a frozen port the request waits until the port
is released (log 26), and a host reads damaged data as it is stored (log 14). -/
def Obligations.OutsideAccess : Prop :=
  ∀ (p : Fin 2) (l : Fin 32) (n : BitVec 9) (s : State) (a : Nat),
    (∀ bs, bs.length ≤ 512 → (s.port p).posted = [] → s.mirage.st ≠ .capturing → (∀ i < bs.length, s.hostMay (a + i) = true) →
      ∃ t, exec (.hostWrite p a ⟨bs, false⟩) s = .next t ∧ t.bytes a bs.length = bs ∧
        ∀ q, q < a ∨ a + bs.length ≤ q → t.byte q = s.byte q) ∧
    (∀ bs, bs.length ≤ 512 → (s.port p).posted = [] → s.boot.locked = true → 0xFFFC000000 ≤ a → a + bs.length ≤ 2 ^ 40 →
      ∃ t, exec (.hostWrite p a ⟨bs, false⟩) s = .next t ∧ t.mem = s.mem) ∧
    (∀ bs, bs.length ≤ 512 → ∃ t, exec (.hostWrite p a ⟨bs, true⟩) s = .next t ∧ t.mem = s.mem ∧
      (t.port p).posted = (s.port p).posted ++ [(a, bs)]) ∧
    (∀ bs o, 512 < bs.length → exec (.hostWrite p a ⟨bs, o⟩) s = .next (s.emit (.unsupported p))) ∧
    (∀ k, a + k ≤ 2 ^ 40 → k ≤ 4096 → exec (.hostRead p a k) s = .next (s.emit (.readData p (s.bytes a k)))) ∧
    (∀ k, 2 ^ 40 < a + k ∨ 4096 < k → exec (.hostRead p a k) s = .next (s.emit (.unsupported p))) ∧
    (∀ (x y : BitVec 64), a % 8 = 0 → (∀ i < 8, s.hostMay (a + i) = true) → s.mirage.st = .idle →
      (∃ t, exec (.hostAtomicop p .fetchAdd true a x y) s = .next t ∧
        t.readN a 8 = (s.readN a 8 + x.toNat) % 2 ^ 64 ∧ t.output = s.output ++ [.readData p (s.bytes a 8)] ∧
        ∀ q, q < a ∨ a + 8 ≤ q → t.byte q = s.byte q) ∧
      (∃ t, exec (.hostAtomicop p .swap true a x y) s = .next t ∧ t.readN a 8 = x.toNat) ∧
      (∃ t, exec (.hostAtomicop p .cas true a x y) s = .next t ∧
        t.readN a 8 = (if s.readN a 8 = x.toNat then y.toNat else s.readN a 8))) ∧
    (∀ (o : PcieOp) x y, a % 8 ≠ 0 ∨ o = .cas128 → exec (.hostAtomicop p o true a x y) s = .next (s.emit (.unsupported p))) ∧
    (∀ r, r.whole = false ∨ r.seq ≠ (s.link l).rx + 1 → exec (.peerRequest l n r) s = .next s) ∧
    ((s.link l).st ∈ [.up, .degraded, .spilling, .replay] →
      let u := (s.setLink l { s.link l with rx := (s.link l).rx + 1 }).emit (.acked l ((s.link l).rx + 1))
      let asks := fun (q : Nat) (o : PeerOp) => Instr.peerRequest l n ⟨(s.link l).rx + 1, true, q, o⟩
      let told := fun (s : State) (q : Nat) (x : PeerAnswer) =>
        s.enqueue l ⟨q, n.toNat, 0, 0, none, none, some x, none⟩
      ((3, l.val) ∈ s.mgmt.frozen → ∀ q o, exec (asks q o) s = .next (
        u.setLink l { u.link l with waiting := (u.link l).waiting ++ [(n, ⟨(s.link l).rx + 1, true, q, o⟩)] })) ∧
      ((3, l.val) ∉ s.mgmt.frozen → ∀ q,
        (∀ k, s.exported a k 0 = true → a + k ≤ 2 ^ 40 → k ∈ [1, 2, 4, 8, 16, 32, 64, 128, 256] → a % k = 0 →
          exec (asks q (.read a k)) s
            = .next (told u q (if s.damageAt (span a k) = 0 then .data (s.bytes a k) else .damaged))) ∧
        (∀ bs, s.mirage.st ≠ .capturing → s.exported a bs.length 1 = true → a + bs.length ≤ 2 ^ 40 →
          bs.length ∈ [1, 2, 4, 8, 16, 32, 64, 128, 256] → a % bs.length = 0 →
          ∃ v t, exec (asks q (.write a bs)) s = .next t ∧ t = told v q (.data []) ∧ t.bytes a bs.length = bs ∧
            ∀ q, q < a ∨ a + bs.length ≤ q → t.byte q = s.byte q) ∧
        (∀ k, s.exported a k 0 = false → exec (asks q (.read a k)) s = .next (told u q .refused)) ∧
        (∀ bs, s.exported a bs.length 1 = false → exec (asks q (.write a bs)) s = .next (told u q .refused)) ∧
        (∀ o x y, s.exported a (atomBytes o) 2 = false → exec (asks q (.atomic o a x y)) s = .next (told u q .refused))))

/-! ### Links, power, cycles (18_rail.md, 19_link.md, 20_accounts_and_trace.md) -/

/-- R333, R334, R336 to R341, R347: a port's states. A host's EN starts its training and clearing it stops the port;
16 locked wavelengths bring it UP, at least 4 agreed UP_DEGRADED; a lost wavelength narrows the mask or fails the
port; a re-stripe that ends within 20 µs is followed by a replay, at most eight times; light that holds for 100 µs widens
the mask; a stalled port spills to the wadi and is up again when it has drained, or fails after 10 ms; the oldest flit of
the egress queue leaves over the active waves under the next sequence number and is kept until it is acknowledged, and a full
replay buffer stops it; a request with no response for 1 ms fails; a response that is whole and in sequence reaches its
reader, once, and any other is discarded. -/
def Obligations.LinkStates : Prop :=
  ∀ (h : Fin 2) (l : Fin 32) (w : Fin 16) (s : State),
    let k := s.link l
    let next := fun (i : Instr) (st : LinkState) => ∃ t, exec i s = .next t ∧ (t.link l).st = st ∧ t.mem = s.mem
    (k.st = .down → s.mgmt.nodeid.toNat % 512 ≠ 0 → next (.lctlEnSet (.host h) l) .training) ∧
    (k.st = .down → s.mgmt.nodeid = 0 → next (.lctlEnSet (.host h) l) .down) ∧
    (k.st ≠ .down → s.reqs = [] → next (.lctlEnClear (.host h) l) .down) ∧
    (k.st = .training → k.dark = 0 → s.time ≤ k.since + 1000000 → next (.trainingLocked l) .up ∧
      ∀ t, exec (.trainingLocked l) s = .next t → (t.link l).act = 0xFFFF) ∧
    (∀ m, k.st = .training → k.since + 1000000 ≤ s.time → m &&& k.dark = 0 →
      (countWaves m = 16 → next (.trainingTimeout l m true) .up) ∧
      (4 ≤ countWaves m → countWaves m < 16 → next (.trainingTimeout l m true) .degraded ∧
        ∀ t, exec (.trainingTimeout l m true) s = .next t → (t.link l).act = m) ∧
      (s.reqs = [] → countWaves m < 4 → next (.trainingTimeout l m true) .failed) ∧
      (s.reqs = [] → next (.trainingTimeout l m false) .failed)) ∧
    (k.act.getLsbD w = true → k.dark.getLsbD w = false → k.st = .up →
      let act := k.act &&& ~~~BitVec.ofNat 16 (2 ^ w.val)
      (4 ≤ countWaves act → ∃ t, exec (.lossOfLight l w) s = .next t ∧ (t.link l).st = .restripe ∧ (t.link l).act = act ∧
        (t.link l).lost = k.lost ||| BitVec.ofNat 16 (2 ^ w.val) ∧ (t.link l).rstr = k.rstr + 1) ∧
      (countWaves act < 4 → s.reqs = [] → next (.lossOfLight l w) .failed)) ∧
    (k.st = .restripe → s.time ≤ k.since + 20000 → next (.restripeAgreed l) .replay ∧
      ∀ t, exec (.restripeAgreed l) s = .next t → (t.link l).rply = k.rply + 1 ∧
        t.timers = s.timers ++ [(s.time + 10000, .replayAckTimeout l)] ∧ t.output = s.output ++ [.acked l k.rx]) ∧
    (k.st = .replay → k.since + 10000 ≤ s.time → (k.fails < 7 → next (.replayAckTimeout l) .replay) ∧
      (7 ≤ k.fails → s.reqs = [] → next (.replayAckTimeout l) .failed)) ∧
    (∀ n, k.st = .replay → (∀ f ∈ k.buffer, f.1 ≤ n) → k.wadi = [] →
      next (.flitReceive l (.ack n)) (if countWaves k.act = 16 then .up else .degraded)) ∧
    (∀ n, k.st = .replay → (∀ f ∈ k.buffer, f.1 ≤ n) → k.wadi ≠ [] → next (.flitReceive l (.ack n)) .spilling) ∧
    (∀ n f fs, k.st = .replay → k.named = false → (k.buffer.filter fun x => n < x.1) = f :: fs →
      ∃ t, exec (.flitReceive l (.ack n)) s = .next t ∧ (t.link l).buffer = f :: fs ∧ (t.link l).st = .replay ∧
        t.output = s.output ++ (f :: fs).map fun x => .flit l x.1 (beatWaves k.act) x.2) ∧
    (∀ f fs, k.st = .up ∨ k.st = .degraded → k.egress = f :: fs → f.via = none → (3, l.val) ∉ s.mgmt.frozen →
      (k.buffer.length < 1024 → ∃ t, exec (.flitReceive l .sent) s = .next t ∧ (t.link l).egress = fs ∧
        (t.link l).seq = k.seq + 1 ∧ (t.link l).buffer = k.buffer ++ [(k.seq + 1, f)] ∧
        t.output = s.output ++ [.flit l (k.seq + 1) (beatWaves k.act) f]) ∧
      (1024 ≤ k.buffer.length → exec (.flitReceive l .sent) s = .next s)) ∧
    (∀ q whole r bs, whole = false ∨ q ≠ k.rx + 1 → exec (.flitReceive l (.response q whole r bs)) s = .next s) ∧
    (k.st = .degraded → k.act.getLsbD w = false → Tbl.find? k.lit w = none → ∃ t, exec (.lightRestored l w) s = .next t ∧
      Tbl.find? (t.link l).lit w = some s.time) ∧
    (∀ t0, k.st = .degraded → Tbl.find? k.lit w = some t0 → t0 + 100000 ≤ s.time →
      ∃ t, exec (.lightHoldExpiry l w) s = .next t ∧ (t.link l).st = .restripe ∧ (t.link l).act.getLsbD w = true) ∧
    (k.st = .up → k.egress ≠ [] → s.wadiUsed l + k.egress.length ≤ wadiFlits → k.lastOut + 50000 ≤ s.time →
      ∃ t, exec (.egressStallExpiry l) s = .next t ∧
      (t.link l).st = .spilling ∧ (t.link l).wadi = k.wadi ++ k.egress ∧ (t.link l).egress = []) ∧
    (k.st = .spilling → k.wadi = [] → next (.wadiDrained l) (if countWaves k.act = 16 then .up else .degraded)) ∧
    (k.st = .spilling → k.lastOut + 10000000 ≤ s.time → s.reqs = [] → next (.spillTimeout l) .failed) ∧
    (∀ r, s.reqs = [r] → r.whose = .device → r.time + 1000000 ≤ s.time →
      ∃ t, exec (.linkRequestTimeout r.id) s = .next t ∧ t.reqs = [] ∧ t.mem = s.mem) ∧
    (∀ r c part bs, s.reqs = [r] → r.whose = .cmd c.id part → s.cmds = [c] → bs.length = r.size → k.st = .up →
      ∃ t, exec (.flitReceive l (.response (k.rx + 1) true r.id bs)) s = .next t ∧ t.reqs = [] ∧ (t.link l).rx = k.rx + 1 ∧
        t.cmds = [{ c with got := c.got ++ [(part, bs)] }])

/-- R120, R319, R326, R328, R330, R331: an idle cluster offers to gate after 64 cycles and is gated when its work is
none; a waking one has its soft start, in four steps of 500 ns, at once, when its neighbour's draw falls, or after 20
µs; throttling and the recharging of a boost bank end. R106, R350, R351: a µs' tokens leave a tenant's balance; at a
period's end a debt is repaid by a quarter of the refill and the balance refilled, at most to the refill; accumulators
spill. What a tenant draws at the boundary leaves the new period's pool. -/
def Obligations.PowerAndTokens : Prop :=
  (∀ (c : Fin 128) (d : Fin 8) (s : State),
    let k := s.cluster c
    let after := fun (i : Instr) (k' : Cluster) => ∃ t, exec i s = .next t ∧ t.cluster c = k' ∧ t.mem = s.mem
    (k.gate = .idle → k.idleCount = 64 → after (.gatingIdleExpiry c) { k with gate := .handshake }) ∧
    (k.gate = .handshake → s.clusterBusy c = false → after (.gatingConfirm c) { k with gate := .gated, idleCount := 0 }) ∧
    (k.gate = .handshake → s.clusterBusy c = true → after (.gatingConfirm c) { k with gate := .awake, idleCount := 0 }) ∧
    (∀ w, k.gate = .waking → k.waitUntil = some w → w ≤ s.time →
      after (.wakeWaitExpiry c) { k with step := 1, waitUntil := none }) ∧
    (∀ w, k.gate = .waking → k.waitUntil = some w → after (.neighbourDrawFall c) { k with step := 1, waitUntil := none } ∧
      ∀ t, exec (.neighbourDrawFall c) s = .next t → (s.time + 500, .softStartStep c) ∈ t.timers) ∧
    (k.gate = .waking → 0 < k.step → k.step < 4 → after (.softStartStep c) { k with step := k.step + 1 } ∧
      ∀ t, exec (.softStartStep c) s = .next t → (s.time + 500, .softStartStep c) ∈ t.timers) ∧
    (k.gate = .waking → k.step = 4 → after (.softStartStep c) { k with gate := .awake, step := 0 }) ∧
    after (.throttleExpiry c) { k with throttled := false } ∧
    after (.boostBankRecharged c) { k with bankFull := true } ∧
    (s.mgmt.curbase = 0 → exec (.currentRecord d) s = .next (s.setDie d { s.die d with thrus := 0 })) ∧
    (s.mgmt.curbase ≠ 0 → (s.die d).lost = false → (s.die d).thrus ≤ 1000 → ∃ w, w.length = 8 ∧
      w.getD 0 0 = 1000000 * (s.time / 1000000 - 1) ∧
      bits (w.getD 2 0) 0 16 = (s.die d).thrus ∧
        bits (w.getD 2 0) 16 16 = ((List.range 16).map fun i => if (s.cluster (16 * d.val + i)).dark then 2 ^ i else 0).sum ∧
      w.getD 3 0 = (s.die d).failed.length * 2 ^ 56 ∧
      exec (.currentRecord d) s = .next ((s.setDie d { s.die d with thrus := 0 }).deviceWords
        (s.mgmt.curbase.toNat + 65536 * d.val + 64 * ((s.time / 1000000 - 1) % 1024)) w))) ∧
  (∀ (s : State),
    (∃ t, exec .tokenCharge s = .next t ∧ (s.cores = [] → s.mgmt.tbbase = 0 → t.mem = s.mem) ∧
      (s.cores = [] → s.mgmt.tbbase ≠ 0 → ∀ tenant x, s.shares = [(tenant, x)] → x.num / x.den ≠ 0 →
        t.mem = (s.setBal tenant (s.bal tenant - ((x.num / x.den : Nat) : Int))).drawAll.mem)) ∧
    (∀ tenant, s.refill tenant ≠ 0 →
      let r := s.refill tenant
      let repay := min (s.debt tenant) (r / 4)
      s.refillTenant tenant = (s.setBal tenant (min (s.bal tenant + r - repay) r)).setDebt tenant (s.debt tenant - repay)) ∧
    (∃ t, exec .tokenRefill s = .next t ∧ (∀ r ∈ t.regions, r.2.spent = ⟨0, 1⟩) ∧ (s.queues = [] → s.pkts = [] →
      (s.mgmt.tbbase = 0 → t.mem = s.mem ∧ t.borrowed = 0) ∧
      (s.mgmt.tbbase ≠ 0 → let u := ({ s.refillTenants (List.range 4096) with borrowed := 0 } : State).drawAll
        t.mem = u.mem ∧ t.borrowed = u.borrowed))) ∧
    (∃ t, exec .accountSpill s = .next t ∧ (∀ n, (t.core n).accums = []) ∧
      ∀ n a c, s.cores = [(n, { Core.reset with accums := [a] })] → s.ctx? a.ctx = some c → c.accn ≠ 0 →
        t.mem = ((s.deviceWords (c.accb + 16 * (c.accw.toNat % c.accn))
          [a.pc.toNat, a.cause + a.kern * 2 ^ 16 + a.count * 2 ^ 32]).deviceWrite (c.ccb + 0x24) 4 (c.accw + 1).toNat).mem))

/-- R134: a slot selects the first of its entries in its order: priority, then for due entries their turn, for others
age, then warp position, PC and call depth; nobody's slot selects nothing. R133, R136: regrouping leaves one entry per
key of a warp's live threads: two threads share an entry just when they share PC, call depth, handler flag and
iteration, and neither is stepped alone. The model's reading of R136's merged ages (logs 14, 21): an entry's age is exactly
the greatest age among the entries of its own key that hold a thread of it, and 0, that of an entry just created, where no
entry of its key did. -/
def Obligations.SelectionRegroup : Prop :=
  (∀ (l : List Cand), (bestCand l = none ↔ l = []) ∧
    ∀ c, bestCand l = some c → c ∈ l ∧ ∀ d ∈ l, lexLe c.order d.order = true) ∧
  (∀ (c : Fin 1024) (s : State) g gr n w, s.group? g = some gr → gr.core = c.val → gr.st = .running →
    Tbl.find? gr.warps n = some w →
    ∃ t gr' w', exec (.regroup c) s = .next t ∧ t.group? g = some gr' ∧ gr'.threads = gr.threads ∧
      Tbl.find? gr'.warps n = some w' ∧ t.mem = s.mem ∧
      (∀ a ∈ gr.liveIn n, ∃ x ∈ w'.entries, a.tid ∈ x.tids) ∧
      (∀ x ∈ w'.entries, ∀ i ∈ x.tids, ∃ a ∈ gr.liveIn n, a.tid = i) ∧
      (∀ x ∈ w'.entries, ∃ key : (W64 × Nat × Bool × Nat) × Option Nat,
        x.tids = ((gr.liveIn n).filter fun a =>
          ((a.pos.pc, a.stack.length, a.handler.isSome, (a.rep.map Rep.iter).getD 0), if a.stepping then some a.tid else none)
            == key).map Thread.tid) ∧
      (∀ x ∈ w'.entries, ∀ y ∈ w.entries, (∃ i, i ∈ x.tids ∧ i ∈ y.tids) → x.key = y.key → y.age ≤ x.age) ∧
      (((gr.liveIn n).map Thread.tid).Nodup → ∀ x ∈ w'.entries,
        (∃ y ∈ w.entries, x.key = y.key ∧ (∃ i, i ∈ x.tids ∧ i ∈ y.tids) ∧ x.age = y.age) ∨
        (x.age = 0 ∧ ∀ y ∈ w.entries, x.key = y.key → ∀ i ∈ x.tids, i ∉ y.tids)))

/-- R55, R131, R134, R141, R143, R144, R211, R218, R220, R248, R348, R394: the other events of a core's cycle. A core
without a group charges its four slots to nobody; a notice ends, but not while its group is held, and so do a YIELD and an
MWAIT, whose limit is over whether or not the group is held; a late failure is taken; threads that can never be joined at a
convergent word, and barriers in deadlock, fault, and with no trap vector the group ends, or halts while its record is held
(R91); the lanes of a later pass issue. -/
def Obligations.CycleEvents : Prop :=
  ∀ (s : State) (g tid n : Nat),
    (∀ (c : Fin 1024), (s.die (c.val / 128)).lost = false → s.oasisLost = false → s.groups = [] → (s.core c).charges = [] →
      (s.core c).accums = [] → (s.core c).busy = [] → s.samples = [] → (s.cluster (c.val / 8)).gate = .gated →
      ∃ t, exec (.slotCycle c) s = .next t ∧ (t.core c).charges = List.replicate 4 ⟨0, 0, 0, 1⟩ ∧ t.issuing = s.issuing ∧
        t.mem = s.mem) ∧
    (∀ (c : Fin 1024), (s.die (c.val / 128)).lost = true → exec (.slotCycle c) s = .next s) ∧
    (∀ gr th, s.group? g = some gr → s.thread? g tid = some th →
      (gr.runs = true → th.run = .waiting .notice → ∃ t, exec (.noticeExpiry g tid) s = .next t ∧
        t.thread? g tid = some { th with run := .runnable, noticeLeft := 0 }) ∧
      (gr.runs = true → th.run = .runnable → ∃ t, exec (.noticeExpiry g tid) s = .next t ∧
        t.thread? g tid = some { th with noticeLeft := 0 }) ∧
      (gr.runs = false → exec (.noticeExpiry g tid) s = .next s) ∧
      (∃ t, exec (.yieldExpiry g tid) s = .next t ∧ t.thread? g tid = some { th with yieldLeft := 0 }) ∧
      (∀ lim m, th.run = .waiting (.monitor (some lim)) → lim ≤ s.time → th.monitor = some m → m.code = none →
        ∃ t, exec (.mwaitTimeout g tid) s = .next t ∧
          t.thread? g tid = some { th with
            run := if gr.runs then .runnable else th.run, monitor := some { m with code := some 7, woken := s.time } }) ∧
      (∀ lim, th.run = .waiting (.monitor (some lim)) → s.time < lim → exec (.mwaitTimeout g tid) s = .next s) ∧
      (∀ l, th.dueLate = some l → exec (.deferredFaultDelivery g tid) s = .next (
        (s.modThread g tid fun t => { t with again := none, late := (t.late.filter (· != l)).map fun x =>
          if th.handler.isNone && x.needs.isNone then { x with held := true } else x }).deliver g tid
            ⟨l.code, l.sub, l.addr, l.word, th.pos, l.recorded⟩)) ∧
      (∀ k, s.kernel? gr.kern = some k → k.trapv = 0 → k.st = .running → gr.runs = true →
        let ends := fun (t : State) (code sub : Byte) =>
          (t.group? g = none ∧ ∀ k', t.kernel? gr.kern = some k' → ∃ d, k'.fail = some (code, sub, gr.lin, d)) ∨
          ∃ gr' r, t.group? g = some gr' ∧ gr'.ending = some r ∧ r.code = code ∧ r.sub = sub ∧ r.fin = true
        (∀ x ∈ gr.threads, x.2.handler = none ∧ x.2.tid = x.1 ∧ Tbl.find? gr.threads x.1 = some x.2) →
        (gr.mismatched n = true → ∃ t sub, exec (.convergeMismatch g n) s = .next t ∧ ends t 0x32 sub) ∧
        (gr.deadlocked = true → ∃ t, exec (.barrierDeadlock g) s = .next t ∧ ends t 0x33 1))) ∧
    (∀ gr th ts e s' i, s.group? g = some gr → s.issues gr = true → (∀ b ∈ s.selected, b.grp ≠ g) →
      (∀ x ∈ gr.threads, x.2.tid = x.1 ∧ Tbl.find? gr.threads x.1 = some x.2) →
      ((gr.liveIn n).filter fun t => t.ready && t.again.isSome) = th :: ts → s.envAt g th.tid 0 = some e →
      s.look e = (s', .word i) →
      ∃ t b, exec (.laneReplay g n) s = .next t ∧ t.selected = s.selected ++ [b] ∧ t.mem = s.mem ∧ t.groups = s.groups ∧
        b.grp = g ∧ b.warp = n ∧ b.word = some i ∧ b.pc = th.pos.pc ∧
        b.tids = ((th :: ts).filter fun u => u.entryKey == th.entryKey).map Thread.tid)

/-! ### Completion of the device's own steps and of what comes from outside -/

/-- Every command, register write and event of the device completes: a state of its own kind and its operands alone are
asked for, and what it is for has then happened. Context and debugger commands (R84, R85, R91, R359), Mirage (R363, R365),
boot and registers (R367, R371, R374), losses and sensors (R88, R330), link ports (R336), power (R120, R331), hosts and
peers (R342, R343), the cycle's events (R55, R143, R220), packets, kernels, groups and rings (R101, R115, R124, R271). The
link word of a queue may be 0, so that its SCC waits; a packet may end with no kernel of its own. The model's choices: memory
lists no byte after a cold reset (log 1), the bytes of a save frame in use are a free value (log 6), and DESTROY is accepted
in any bound state (log 14). -/
def Obligations.DeviceCompletes : Prop :=
  ∀ (s : State),
    let ends := fun (i : Instr) (q : State → Prop) => ∃ t, exec i s = .next t ∧ q t
    (∀ (p : Fin 2) (id : BitVec 12) (sc : BitVec 2),
      let bound := fun (q : Ctx → Prop) (t : State) => ∃ c, t.ctx? id.toNat = some c ∧ q c
      (id ≠ 0 → s.ctx? id.toNat = none → s.ccbValid (s.port p).cxaddr.toNat = true →
        ends (.bind p id) (bound fun c => c.st = .saved ∧ c.pre = false ∧ c.lastop = 1)) ∧
      (∀ c, s.ctx? id.toNat = some c →
        (c.st = .running → ends (.preempt p id) (bound fun c => c.st = .halting ∧ c.pre = true ∧ c.lastop = 2)) ∧
        (c.st = .saved → c.pre = false → ends (.preempt p id) (bound fun c => c.st = .saved ∧ c.pre = true ∧
          c.lastop = 2)) ∧
        (c.st = .stopped ∨ c.st = .saved ∧ c.pre = true →
          ends (.resume p id) (bound fun c => c.pre = false ∧ c.lastop = 3)) ∧
        ends (.destroy p id) (bound fun c => c.st = .destroying ∧ c.lastop = 4) ∧
        ends (.dbgAttach p id sc) (bound fun c => c.debug = some sc.toNat) ∧
        ends (.dbgDetach p id) (bound fun c => c.debug = none) ∧
        (c.st = .halting → s.atBoundary id.toNat = true → ends (.contextHalted id) (bound fun c => c.st = .staging)) ∧
        (c.st = .staging → s.allStaged id.toNat = true → ends (.stagingComplete id) (bound fun c => c.st = .saved)) ∧
        (s.destroyed id.toNat c = true → ends (.destroyComplete id) fun t => t.ctx? id.toNat = none) ∧
        (∀ r, c.held = [r] → s.fqFull c = false →
          ends (.fqRoomPoll id) (bound fun d => d.held = [] ∧ d.fqwr = c.fqwr + 1)))) ∧
    (∀ (p : Fin 2) (id : BitVec 12) (sc : BitVec 2) c, s.ctx? id.toNat = some c →
      (∀ gs, s.dbgTarget p id sc = .groups gs →
        ends (.dbgHalt p id sc) (fun t => ∀ g ∈ gs, ∀ gr, t.group? g = some gr → .debugger sc.toNat ∈ gr.holds) ∧
        ends (.dbgResume p id sc) (fun t => ∀ g ∈ gs, ∀ gr, t.group? g = some gr → .debugger sc.toNat ∉ gr.holds)) ∧
      (∀ g th, s.dbgTarget p id sc = .thread g th → s.thread? g th.tid = some th →
        (th.live = true → th.dueLate = none →
          ends (.dbgHalt p id sc) fun t => (t.thread? g th.tid).map Thread.isStopped = some true) ∧
        ends (.dbgResume p id sc) fun t => (t.thread? g th.tid).map Thread.isStopped = some false) ∧
      (∀ g th, s.dbgThread p id = some (g, th) → s.thread? g th.tid = some th → th.isStopped = true →
        ends (.dbgStep p id) fun t => (t.thread? g th.tid).map (fun u => (u.stepping, u.isStopped)) = some (true, false)) ∧
      (s.mirage.st ≠ .capturing → s.mirage.st ≠ .replaying → s.mirage.queue = none → c.st = .saved →
        ends (.capture id) fun t => t.mirage.st = .capturing ∧ t.mirage.ctx = id.toNat) ∧
      (s.mirage.ctx = id.toNat → s.mirage.st = .capturing → ends (.mirageStop id) fun t => t.mirage.st = .idle) ∧
      (s.mirage.st ≠ .capturing → s.mirage.st ≠ .replaying → s.mirage.queue = none → c.st = .saved → c.pre = true →
        s.mirage.wr ≠ 0 → s.mirage.ctx = id.toNat → ends (.replay id) fun t => t.mirage.st = .replaying ∧
          t.mirage.pos = 0)) ∧
    (∀ (h p : Fin 2) (d : Fin 8) (v : BitVec 64) (x : BitVec 32),
      (s.boot.st = .waiting → ends (.bootGo p) fun t => t.boot.st = .verifying ∧ t.boot.port = p) ∧
      (s.boot.st = .verifying → s.verifyImage = 0 → ends .imageVerified fun t => t.boot.st = .running ∧
        t.boot.locked = true) ∧
      ((s.port p).attBusy = false → s.boot.st = .running → ends (.attestGo p) fun t => (t.port p).attBusy = true) ∧
      ((s.port p).attBusy = true → ends (.attestReport p) fun t =>
        (t.port p).attDone = true ∧ (t.port p).attBusy = false ∧ (t.port p).attResult = 0) ∧
      ((x.toNat / 2 ^ 30 = 3 → (s.link (x.toNat / 2 ^ 16 % 2 ^ 14)).waiting = []) →
        (x.toNat / 2 ^ 30 = 1 → (s.cluster (x.toNat / 2 ^ 16 % 2 ^ 14 - 0x2000)).unposted = []) →
        ends (.frzrelWrite x) fun t => (x.toNat / 2 ^ 30, x.toNat / 2 ^ 16 % 2 ^ 14) ∉ t.mgmt.frozen) ∧
      ends (.vminvWrite d) (fun t => (t.die d).vminv = 0xFFFF ∧ (t.die d).vmint = 0) ∧
      (∀ (n : Fin 4), fwwOk (v &&& 0x000FFFFFFFF00001) (Tbl.get 0 s.mgmt.fwws n) = true →
        ends (.fwwWrite (.host h) n false v) fun t => Tbl.get 0 t.mgmt.fwwb n = v &&& 0x000FFFFFFFF00001) ∧
      (∀ (n : Fin 4), fwwOk (Tbl.get 0 s.mgmt.fwwb n) (v.setWidth 32 &&& 0x3F) = true →
        ends (.fwwWrite (.host h) n true v) fun t => Tbl.get 0 t.mgmt.fwws n = v.setWidth 32 &&& 0x3F) ∧
      (∀ (n : Fin 16), x.toNat % 2 ^ 6 = 0 ∨ 16 ≤ x.toNat % 2 ^ 6 ∧ x.toNat % 2 ^ 6 ≤ 40 →
        ends (.expsWrite (.host h) n x) fun t => (Tbl.get 0 t.mgmt.exps n).toNat = x.toNat % 2 ^ 6) ∧
      (∀ (n : BitVec 9), 1 ≤ n.toNat → n.toNat ≤ 288 →
        ends (.routeWrite (.host h) n x) fun t => Tbl.get 0 t.mgmt.route n.toNat = x) ∧
      (4 ≤ x.toNat % 2 ^ 5 → x.toNat % 2 ^ 5 ≤ 16 →
        ends (.prqctlWrite p x) (fun t => (t.port p).prqctl = x &&& 0x3F) ∧
        ends (.evctlWrite p x) (fun t => (t.port p).evctl = x &&& 0x3F)) ∧
      ends (.registerWrite (.host h) p 0x00000 true v) (fun t => (t.port p).cxaddr = v) ∧
      ends .packageColdReset (fun t => t.time = 0 ∧ t.mem = [] ∧ t.ctxs = [] ∧ t.groups = [] ∧ t.boot = Boot.reset) ∧
      ends (.dieWarmReset d) (fun t => (t.die d).failed = []) ∧
      ends (.dieLoss d) (fun t => (∀ x ∈ s.ctxs, x.2.tdies.getLsbD d = false) →
        (t.die d).lost = true ∧ t.ctxs = s.ctxs ∧ t.groups = s.groups) ∧
      ends .oasisLoss (fun t => t.oasisLost = true ∧ t.ctxs = [] ∧ t.groups = []) ∧
      (∀ (g : Fin 12) (f : Fin 8), (∀ x ∈ (s.die d).failed, x.1 ≠ g.val) → ends (.phaseFail d g f) fun t =>
          (t.die d).failed = (s.die d).failed ++ [(g.val, f.val)]) ∧
      (∀ hot, ends (.calicheThermal d hot) fun t => (t.die d).therm = hot) ∧
      (∀ mv, ends (.vminSample d mv) fun t => (t.die d).vminv = if mv < (s.die d).vminv then mv else (s.die d).vminv)) ∧
    (∀ (h : Fin 2) (l : Fin 32) (w : Fin 16) (c : Fin 128) (d : Fin 8),
      let k := s.link l
      let u := s.cluster c
      let act := k.act &&& ~~~BitVec.ofNat 16 (2 ^ w.val)
      (k.st = .down → s.mgmt.nodeid.toNat % 512 ≠ 0 → ends (.lctlEnSet (.host h) l) fun t =>
        (t.link l).en = true ∧ (t.link l).st = .training) ∧
      (k.st ≠ .down → (∀ r ∈ s.reqs, r.port ≠ some l.val) → ends (.lctlEnClear (.host h) l) fun t =>
        (t.link l).en = false ∧ (t.link l).st = .down) ∧
      (k.st = .training → k.dark = 0 → s.time ≤ k.since + 1000000 → ends (.trainingLocked l) fun t =>
        (t.link l).st = .up ∧ (t.link l).act = 0xFFFF) ∧
      (∀ m, k.st = .training → k.since + 1000000 ≤ s.time → m &&& k.dark = 0 → 4 ≤ countWaves m →
        ends (.trainingTimeout l m true) fun t => (t.link l).act = m) ∧
      (k.st = .up → k.act.getLsbD w = true → k.dark.getLsbD w = false → 4 ≤ countWaves act →
        ends (.lossOfLight l w) fun t =>
        (t.link l).st = .restripe ∧ (t.link l).act = act) ∧
      (k.st = .degraded → k.act.getLsbD w = false → Tbl.find? k.lit w = none → ends (.lightRestored l w) fun t =>
        Tbl.find? (t.link l).lit w = some s.time) ∧
      (k.st = .degraded → Link.held k s.time w = true → ends (.lightHoldExpiry l w) fun t => (t.link l).st = .restripe) ∧
      (k.st = .restripe → s.time ≤ k.since + 20000 → ends (.restripeAgreed l) fun t => (t.link l).st = .replay ∧ (t.link l).rply = k.rply + 1) ∧
      (k.st = .replay → k.since + 10000 ≤ s.time → k.fails < 7 → ends (.replayAckTimeout l) fun t =>
        (t.link l).st = .replay ∧ (t.link l).fails = k.fails + 1) ∧
      (∀ n, k.st = .up → ends (.flitReceive l (.ack n)) fun t => (t.link l).buffer = k.buffer.filter fun f => n < f.1) ∧
      (k.st = .up → k.egress ≠ [] → k.lastOut + 50000 ≤ s.time → ends (.egressStallExpiry l) fun t =>
        (t.link l).st = .spilling) ∧
      (k.st = .spilling → k.wadi = [] → ends (.wadiDrained l) fun t =>
        (t.link l).st = if countWaves k.act = 16 then .up else .degraded) ∧
      (k.st = .spilling → k.lastOut + 10000000 ≤ s.time → (∀ r ∈ s.reqs, r.port ≠ some l.val) →
        ends (.spillTimeout l) fun t =>
        (t.link l).st = .failed) ∧
      (∀ r, s.reqs = [r] → r.whose = .device → r.time + 1000000 ≤ s.time →
        ends (.linkRequestTimeout r.id) fun t => t.reqs = []) ∧
      (u.gate = .idle → u.idleCount = 64 → ends (.gatingIdleExpiry c) fun t => (t.cluster c).gate = .handshake) ∧
      (u.gate = .handshake → ends (.gatingConfirm c) fun t =>
        (t.cluster c).gate = if s.clusterBusy c then .awake else .gated) ∧
      (∀ lim, u.gate = .waking → u.waitUntil = some lim → ends (.neighbourDrawFall c) (fun t => (t.cluster c).step = 1) ∧
        (lim ≤ s.time → ends (.wakeWaitExpiry c) fun t => (t.cluster c).step = 1)) ∧
      (u.gate = .waking → 0 < u.step → u.step < 4 → ends (.softStartStep c) fun t => (t.cluster c).step = u.step + 1) ∧
      ends (.throttleExpiry c) (fun t => (t.cluster c).throttled = false) ∧
      ends (.boostBankRecharged c) (fun t => (t.cluster c).bankFull = true) ∧
      ends (.boostWithdraw d) (fun t => ∀ x ∈ t.pkts, x.2.owner / 16 = d.val → x.2.point ≠ 3)) ∧
    (∀ (p : Fin 2) (l : Fin 32) (nd : BitVec 9) (a m g tid n : Nat) (bs : List (BitVec 8)) (x y : BitVec 64) (d : Fin 8),
      (bs.length ≤ 512 → ends (.hostWrite p a ⟨bs, true⟩) (fun t => (t.port p).posted = (s.port p).posted ++ [(a, bs)]) ∧
        ends (.hostWrite p a ⟨bs, false⟩) fun t => t = (s.performAll p (s.port p).posted.length).hostStore a bs) ∧
      (a + m ≤ 2 ^ 40 → m ≤ 4096 → ends (.hostRead p a m) fun t => t.output = s.output ++ [.readData p (s.bytes a m)]) ∧
      (a % 8 = 0 → (∀ i < 8, s.hostMay (a + i) = true) → ends (.hostAtomicop p .swap true a x y) fun t =>
        t = (s.outsideAtomic 3 (PcieOp.op .swap true) a x y).1.emit (.readData p (s.outsideAtomic 3
          (PcieOp.op .swap true) a x y).2)) ∧
      ((s.link l).st = .up → (3, l.val) ∉ s.mgmt.frozen → s.exported a m 0 = true → a + m ≤ 2 ^ 40 → peerSized a m = true →
        s.damageAt (span a m) = 0 → ends (.peerRequest l nd ⟨(s.link l).rx + 1, true, n, .read a m⟩) fun t =>
          (t.link l).egress = (s.link l).egress ++ [⟨n, nd.toNat, 0, 0, none, none, some (.data (s.bytes a m)), none⟩]) ∧
      (∀ th, s.thread? g tid = some th →
        (((s.group? g).map Group.runs).getD false = true →
          ends (.noticeExpiry g tid) fun t => (t.thread? g tid).map Thread.noticeLeft = some 0) ∧
        ends (.yieldExpiry g tid) (fun t => (t.thread? g tid).map Thread.yieldLeft = some 0) ∧
        (∀ lim, th.run = .waiting (.monitor (some lim)) → lim ≤ s.time → ends (.mwaitTimeout g tid) fun t =>
          (t.thread? g tid).map Thread.run
            = some (if ((s.group? g).map Group.runs).getD false then .runnable else th.run)) ∧
        (∀ f, th.dueLate = some f → ends (.deferredFaultDelivery g tid) fun t => t = (
          (s.modThread g tid fun t => { t with again := none, late := (t.late.filter (· != f)).map fun x =>
            if th.handler.isNone && x.needs.isNone then { x with held := true } else x }).deliver g tid
              ⟨f.code, f.sub, f.addr, f.word, th.pos, f.recorded⟩))) ∧
      (∀ gr, s.group? g = some gr → gr.runs = true → gr.mismatched n = true → ends (.convergeMismatch g n) fun t =>
        t = s.deliverAll g (((gr.liveIn n).filter Thread.atConverge).filterMap fun t =>
            (((gr.liveIn n).filter fun u => u.tid != t.tid).filterMap (mismatchSub t.key)).head?.map fun sub =>
              (t.tid, ⟨0x32, sub, 0, t.pos.pc, t.pos, false⟩))) ∧
      (∀ gr, s.group? g = some gr → gr.deadlocked = true → ends (.barrierDeadlock g) fun t =>
        let ws := gr.live.filterMap fun t => t.atBarrier.map fun b => (t, b)
        t = (s.modGroup g fun g => ws.foldl (fun g w => g.withdraw w.1.tid w.2) g).deliverAll g (ws.map fun w =>
            (w.1.tid, ⟨0x33, 1, BitVec.ofNat 64 w.2, w.1.pos.pc, w.1.pos, false⟩))) ∧
      (s.mgmt.curbase = 0 → ends (.currentRecord d) fun t => (t.die d).thrus = 0) ∧
      (s.mgmt.tbbase = 0 → s.cores = [] → ends .tokenCharge fun t => t.mem = s.mem ∧ t.shares = []) ∧
      ends .tokenRefill (fun t => (∀ r ∈ t.regions, r.2.spent = ⟨0, 1⟩) ∧
        (s.mgmt.tbbase = 0 → s.queues = [] → s.pkts = [] → t.borrowed = 0)) ∧
      (∀ (c : Fin 1024) gr, s.group? g = some gr → gr.core = c.val → gr.st.resident = true → ends (.regroup c) fun t =>
        t.group? g = some gr.regroup)) ∧
    (∀ (c : Fin 1024) (g n : Nat),
      ends .accountSpill (fun t => ∀ n, (t.core n).accums = []) ∧
      ((s.die (c.val / 128)).lost = false → s.oasisLost = false → s.groups = [] → (s.core c).charges = [] →
        (s.core c).busy = [] → (s.core c).slipDue = [] → s.samples = [] → (s.cluster (c.val / 8)).gate = .gated →
          ends (.slotCycle c) fun t =>
          (t.core c).charges = List.replicate 4 ⟨0, 0, 0, 1⟩ ∧ t.issuing = s.issuing) ∧
      (∀ gr th ts e, s.group? g = some gr → s.issues gr = true → (∀ b ∈ s.selected, b.grp ≠ g) →
        (∀ x ∈ gr.threads, x.2.tid = x.1 ∧ Tbl.find? gr.threads x.1 = some x.2) →
        ((gr.liveIn n).filter fun t => t.ready && t.again.isSome) = th :: ts → s.envAt g th.tid 0 = some e →
        ends (.laneReplay g n) fun t => ∃ b : Bundle, t.selected = s.selected ++ [b] ∧ b.grp = g ∧ b.warp = n ∧
          b.tids = ((th :: ts).filter fun u => u.entryKey == th.entryKey).map Thread.tid) ∧
      (∀ k, s.pkt? n = some k → k.st = .ready → k.paged = none → s.sccFrozen k.owner = false →
        k.ptype = 0 ∨ k.ptype = 2 ∨ k.ptype = 6 → ends (.packetReady n) fun t => t = s.endPkt n 1 0 0 0) ∧
      (∀ k s1 bs, s.pkt? n = some k → k.st = .launching → k.paged = none → k.ptype = 4 → (1, k.owner) ∉ s.mgmt.frozen →
        s.readBlocks k.ctx (coreOfCluster k.owner) (k.w 6) (k.w 7 % 2 ^ 8) = (s1, .ok bs) → badBlock (k.w 6) bs = none →
        ends (.copyPacketRun n) fun t => t.cmds.length = s1.cmds.length + bs.length) ∧
      (∀ (d : Fin 128) r rs s1 v, (s.cluster d).releases = r :: rs → r.paged = none → s.sccFrozen d = false →
        s.releaseDep r.ctx (coreOfCluster d) r.pkt = (s1, .ok v) →
        ends (.evtReleaseApply d) fun t => (t.cluster d).releases = rs) ∧
      (∀ gr, s.group? g = some gr → gr.st.issues = true → s.workDone g gr = true → gr.failing = none → gr.ending = none →
        gr.dirty = false → ends (.groupEnd g) fun t => t = ((s.dropGroup g).kernelCheck gr.kern).replayIdle gr.ctx) ∧
      (∀ gr, s.group? g = some gr → gr.runs = true → gr.active = true → ends (.watchdogTick g) fun t =>
        t.group? g = some { gr with active := false, count := 0 }) ∧
      (∀ gr k, s.group? g = some gr → s.kernel? gr.kern = some k → gr.runs = true → s.hangLimit ≠ 0 →
        s.hangLimit ≤ gr.count →
        ends (.watchdogExpiry g) fun t => ∃ r : FaultRec, r.code = 0x60 ∧
          t = s.endGroup g (some r) 0x60 (BitVec.ofNat 8 gr.why)) ∧
      (∀ gr x, s.group? g = some gr → s.ctx? gr.ctx = some x → x.st = .running → gr.st = .restoring →
        ends (.restoreComplete g) fun t => (t.group? g).map Group.st = some gr.returned ∧
          (t.group? g).map Group.frame = some none)) ∧
    (∀ (p : Fin 2) (g n : Nat) (id : BitVec 12) (kern lin : BitVec 32),
      let kn := id.toNat * 2 ^ 32 + kern.toNat
      (∀ q s1 pas vas x, s.queue? n = some q → s.mirage.queue ≠ some n → s.mayConsume q = true → s.regionPending n = false →
        s.mapAccess q.ctx (coreOfCluster (s.substitute q.clu)) q.last.toNat 8 needsRead false = (s1, .ok pas vas 0 x) →
        s1.damageAt pas = 0 → leNat (s1.readMapped pas 0) / 64 = 0 →
          ends (.packetConsume n) fun t => t = s1.armQueue n pas 0) ∧
      (∀ k s1 s2, s.pkt? n = some k → k.st = .finished → k.paged = none → s.sccFrozen k.owner = false →
        s.pktHeld k = false → s.writeStatus n k = (s1, none) → s1.replayStops k = false →
        s1.successors n k (k.status != 1 && s1.propagates k.region) ((List.range k.nsucc).drop k.released) = (s2, none) →
        s2.kernels = [] → s2.mirage.queue = none → ends (.packetFinish n) fun t => t.pkt? n = none) ∧
      (∀ k s1 core, s.kernel? kn = some k → s.dispatches id.toNat k = true →
        s.tenantReady (((s.ctx? id.toNat).map Ctx.tenant).getD 0) = (s1, true) → s1.savedGroup kn lin.toNat = none →
        k.st = .placing → k.next = lin.toNat → s1.chooseCore kn k none = some core →
        ends (.groupPlace id kern lin) fun t => t = s1.placeNew kn k core) ∧
      (∀ k c s1 s2 ws h, s.pkt? n = some k → s.ctx? k.ctx = some c → k.st = .launching → k.paged = none → k.ptype = 1 →
        s.sccFrozen k.owner = false → k.w 6 % 64 = 0 → s.readWords k.ctx k.core ((List.range 8).map fun i => k.w 6 + 8 * i) = (s1, .ok [ws]) →
        s1.vread k.ctx k.core (ws.getD 0 0).toNat 4 needsFetch = (s2, .ok h) →
        s2.descCheck k (fun i => (ws.getD i 0).toNat) = none → isHeader h = true → (ws.getD 0 0).toNat % 4 = 0 →
        (s2.ctx? k.ctx).isSome = true → ends (.kernelLaunch n) fun t => ∃ m kr, t.kernel? m = some kr ∧ kr.st = .placing) ∧
      (∀ gr k c s1 s2, s.group? g = some gr → s.kernel? gr.kern = some k → s.ctx? gr.ctx = some c → gr.st = .saving →
        s.drained g gr = true →
        s.free.2.frameFault gr.ctx gr.core (s.free.2.frameVas gr.ctx (frameSize s.free.1) c.freeFrame) =
          (s1, none) →
        s1.vwords gr.ctx gr.core (c.frameAt c.freeFrame) (frameHeader gr k (frameSize s.free.1)) = (s2, .ok 0) →
        ends (.saveFrameWritten g) fun t => t = s2.saved g gr c.freeFrame (frameSize s.free.1)) ∧
      ends .leaseExpiry (fun t => ∀ e ∈ t.tlb, s.time < e.expiry) ∧
      (∀ (lv : BitVec 8), n < 2 ^ 40 → ends (.memScrubDamage n lv) fun t => Tbl.find? t.damaged (n / 32) = some lv.toNat) ∧
      ends .telemetryAdd (fun t => t.telemetry = []) ∧
      (∀ q qs, (s.port p).reqs = q :: qs →
        ringRoom (s.port p).prqbase (s.port p).prqctl (s.port p).prqwr (s.port p).prqrd = true →
        ends (.pageRequestWrite p) fun t => (t.port p).reqs = qs) ∧
      (∀ e es, (s.port p).evs = e :: es →
        ringRoom (s.port p).evbase (s.port p).evctl (s.port p).evwr (s.port p).evrd = true →
        ends (.eventRingWrite p) fun t => (t.port p).evs = es))
end

