-- ==== Sys2Proof/Laws/PerInstr.lean ====
section
/-! SUPPORT. Per instruction: each word of an encoding is a 32-bit number; what is no word has no encoding (R9, R60). -/

namespace Sys2Proof.Laws

set_option Elab.async false

/-- Fields fit below bit `m`: each below the one before it. -/
theorem fit {v p n m : Nat} {l : List (Nat × Nat)} (hv : v < 2 ^ n) (hr : (l.map fun f => f.2 * 2 ^ f.1).sum < 2 ^ p)
    (h : p + n ≤ m) : (((p, v) :: l).map fun f => f.2 * 2 ^ f.1).sum < 2 ^ m := by
  have h1 : (v + 1) * 2 ^ p ≤ 2 ^ n * 2 ^ p := Nat.mul_le_mul_right _ hv
  have h2 : 2 ^ n * 2 ^ p ≤ 2 ^ m := by
    rw [← Nat.pow_add, Nat.add_comm]
    exact Nat.pow_le_pow_right (by decide) h
  rw [Nat.add_mul, Nat.one_mul] at h1
  simp only [List.map_cons, List.sum_cons]
  omega

theorem fit_nil (m : Nat) : (([] : List (Nat × Nat)).map fun f => f.2 * 2 ^ f.1).sum < 2 ^ m := Nat.two_pow_pos m

/-- A word whose fields fit below its primary opcode. -/
theorem wordOf_lt {op : Nat} {l : List (Nat × Nat)} (ho : op < 256) (h : (l.map fun f => f.2 * 2 ^ f.1).sum < 2 ^ 24) :
    wordOf op l < 2 ^ 32 := by
  unfold wordOf
  omega

theorem lt_of_eq {w x : Nat} (h : w = x) (hx : x < 2 ^ 32) : w < 2 ^ 32 := h ▸ hx

/-- The words of the instruction's encoding are 32-bit numbers. -/
def Wf.Statement (i : Instr) : Prop := ∀ w ∈ encode i, w < 2 ^ 32

theorem Wf.nop : Wf.Statement (.nop) := fun _ h =>
  lt_of_eq (List.mem_singleton.1 h) (wordOf_lt (op := 0x00) (l := []) (by decide) (fit_nil _))
theorem Wf.mov a b c : Wf.Statement (.mov a b c) := fun _ h =>
  lt_of_eq (List.mem_singleton.1 h) (wordOf_lt (op := 0x01) (l := [(18, a.toNat), (12, b.toNat), (0, c.toNat)]) (by decide) (fit a.isLt (fit b.isLt (fit c.isLt (fit_nil _) (by decide)) (by decide)) (by decide)))
theorem Wf.movi a b : Wf.Statement (.movi a b) := fun _ h =>
  lt_of_eq (List.mem_singleton.1 h) (wordOf_lt (op := 0x02) (l := [(18, a.toNat), (0, b.toNat)]) (by decide) (fit a.isLt (fit b.isLt (fit_nil _) (by decide)) (by decide)))
theorem Wf.movhi a b : Wf.Statement (.movhi a b) := fun _ h =>
  lt_of_eq (List.mem_singleton.1 h) (wordOf_lt (op := 0x03) (l := [(18, a.toNat), (0, b.toNat)]) (by decide) (fit a.isLt (fit b.isLt (fit_nil _) (by decide)) (by decide)))
theorem Wf.movx a b c : Wf.Statement (.movx a b c) := fun _ h => by
  rcases List.mem_cons.1 h with h | h
  · rw [h]
    exact wordOf_lt (op := 0x04) (l := [(18, a.toNat), (0, b.toNat)]) (by decide) (fit a.isLt (fit b.isLt (fit_nil _) (by decide)) (by decide))
  · rw [List.mem_singleton.1 h]
    exact c.isLt
theorem Wf.sel a b c d : Wf.Statement (.sel a b c d) := fun _ h =>
  lt_of_eq (List.mem_singleton.1 h) (wordOf_lt (op := 0x05) (l := [(18, a.toNat), (12, b.toNat), (6, c.toNat), (0, d.toNat)]) (by decide) (fit a.isLt (fit b.isLt (fit c.isLt (fit d.isLt (fit_nil _) (by decide)) (by decide)) (by decide)) (by decide)))
theorem Wf.srd a b : Wf.Statement (.srd a b) := fun _ h =>
  lt_of_eq (List.mem_singleton.1 h) (wordOf_lt (op := 0x06) (l := [(18, a.toNat), (0, b.toNat)]) (by decide) (fit a.isLt (fit b.isLt (fit_nil _) (by decide)) (by decide)))
theorem Wf.swr a b : Wf.Statement (.swr a b) := fun _ h =>
  lt_of_eq (List.mem_singleton.1 h) (wordOf_lt (op := 0x07) (l := [(12, a.toNat), (0, b.toNat)]) (by decide) (fit a.isLt (fit b.isLt (fit_nil _) (by decide)) (by decide)))
theorem Wf.add a b c d : Wf.Statement (.add a b c d) := fun _ h =>
  lt_of_eq (List.mem_singleton.1 h) (wordOf_lt (op := 0x08) (l := [(18, a.toNat), (12, b.toNat), (6, c.toNat), (0, d.toNat)]) (by decide) (fit a.isLt (fit b.isLt (fit c.isLt (fit d.isLt (fit_nil _) (by decide)) (by decide)) (by decide)) (by decide)))
theorem Wf.sub a b c d : Wf.Statement (.sub a b c d) := fun _ h =>
  lt_of_eq (List.mem_singleton.1 h) (wordOf_lt (op := 0x09) (l := [(18, a.toNat), (12, b.toNat), (6, c.toNat), (0, d.toNat)]) (by decide) (fit a.isLt (fit b.isLt (fit c.isLt (fit d.isLt (fit_nil _) (by decide)) (by decide)) (by decide)) (by decide)))
theorem Wf.addi a b c : Wf.Statement (.addi a b c) := fun _ h =>
  lt_of_eq (List.mem_singleton.1 h) (wordOf_lt (op := 0x0A) (l := [(18, a.toNat), (12, b.toNat), (0, c.toNat)]) (by decide) (fit a.isLt (fit b.isLt (fit c.isLt (fit_nil _) (by decide)) (by decide)) (by decide)))
theorem Wf.addc a b c d : Wf.Statement (.addc a b c d) := fun _ h =>
  lt_of_eq (List.mem_singleton.1 h) (wordOf_lt (op := 0x0B) (l := [(18, a.toNat), (12, b.toNat), (6, c.toNat), (0, d.toNat)]) (by decide) (fit a.isLt (fit b.isLt (fit c.isLt (fit d.isLt (fit_nil _) (by decide)) (by decide)) (by decide)) (by decide)))
theorem Wf.addSatS32 a b c d : Wf.Statement (.addSatS32 a b c d) := fun _ h =>
  lt_of_eq (List.mem_singleton.1 h) (wordOf_lt (op := 0x0C) (l := [(18, a.toNat), (12, b.toNat), (6, c.toNat), (0, d.toNat)]) (by decide) (fit a.isLt (fit b.isLt (fit c.isLt (fit d.isLt (fit_nil _) (by decide)) (by decide)) (by decide)) (by decide)))
theorem Wf.addSatZ32 a b c d : Wf.Statement (.addSatZ32 a b c d) := fun _ h =>
  lt_of_eq (List.mem_singleton.1 h) (wordOf_lt (op := 0x0D) (l := [(18, a.toNat), (12, b.toNat), (6, c.toNat), (0, d.toNat)]) (by decide) (fit a.isLt (fit b.isLt (fit c.isLt (fit d.isLt (fit_nil _) (by decide)) (by decide)) (by decide)) (by decide)))
theorem Wf.subSatS32 a b c d : Wf.Statement (.subSatS32 a b c d) := fun _ h =>
  lt_of_eq (List.mem_singleton.1 h) (wordOf_lt (op := 0x0E) (l := [(18, a.toNat), (12, b.toNat), (6, c.toNat), (0, d.toNat)]) (by decide) (fit a.isLt (fit b.isLt (fit c.isLt (fit d.isLt (fit_nil _) (by decide)) (by decide)) (by decide)) (by decide)))
theorem Wf.subSatZ32 a b c d : Wf.Statement (.subSatZ32 a b c d) := fun _ h =>
  lt_of_eq (List.mem_singleton.1 h) (wordOf_lt (op := 0x0F) (l := [(18, a.toNat), (12, b.toNat), (6, c.toNat), (0, d.toNat)]) (by decide) (fit a.isLt (fit b.isLt (fit c.isLt (fit d.isLt (fit_nil _) (by decide)) (by decide)) (by decide)) (by decide)))
theorem Wf.mul a b c d : Wf.Statement (.mul a b c d) := fun _ h =>
  lt_of_eq (List.mem_singleton.1 h) (wordOf_lt (op := 0x10) (l := [(18, a.toNat), (12, b.toNat), (6, c.toNat), (0, d.toNat)]) (by decide) (fit a.isLt (fit b.isLt (fit c.isLt (fit d.isLt (fit_nil _) (by decide)) (by decide)) (by decide)) (by decide)))
theorem Wf.mulhS32 a b c d : Wf.Statement (.mulhS32 a b c d) := fun _ h =>
  lt_of_eq (List.mem_singleton.1 h) (wordOf_lt (op := 0x11) (l := [(18, a.toNat), (12, b.toNat), (6, c.toNat), (0, d.toNat)]) (by decide) (fit a.isLt (fit b.isLt (fit c.isLt (fit d.isLt (fit_nil _) (by decide)) (by decide)) (by decide)) (by decide)))
theorem Wf.mulhZ32 a b c d : Wf.Statement (.mulhZ32 a b c d) := fun _ h =>
  lt_of_eq (List.mem_singleton.1 h) (wordOf_lt (op := 0x12) (l := [(18, a.toNat), (12, b.toNat), (6, c.toNat), (0, d.toNat)]) (by decide) (fit a.isLt (fit b.isLt (fit c.isLt (fit d.isLt (fit_nil _) (by decide)) (by decide)) (by decide)) (by decide)))
theorem Wf.mad a b c d : Wf.Statement (.mad a b c d) := fun _ h =>
  lt_of_eq (List.mem_singleton.1 h) (wordOf_lt (op := 0x13) (l := [(18, a.toNat), (12, b.toNat), (6, c.toNat), (0, d.toNat)]) (by decide) (fit a.isLt (fit b.isLt (fit c.isLt (fit d.isLt (fit_nil _) (by decide)) (by decide)) (by decide)) (by decide)))
theorem Wf.mulwS32 a b c d : Wf.Statement (.mulwS32 a b c d) := fun _ h =>
  lt_of_eq (List.mem_singleton.1 h) (wordOf_lt (op := 0x14) (l := [(18, a.toNat), (12, b.toNat), (6, c.toNat), (0, d.toNat)]) (by decide) (fit a.isLt (fit b.isLt (fit c.isLt (fit d.isLt (fit_nil _) (by decide)) (by decide)) (by decide)) (by decide)))
theorem Wf.mulwZ32 a b c d : Wf.Statement (.mulwZ32 a b c d) := fun _ h =>
  lt_of_eq (List.mem_singleton.1 h) (wordOf_lt (op := 0x15) (l := [(18, a.toNat), (12, b.toNat), (6, c.toNat), (0, d.toNat)]) (by decide) (fit a.isLt (fit b.isLt (fit c.isLt (fit d.isLt (fit_nil _) (by decide)) (by decide)) (by decide)) (by decide)))
theorem Wf.divS32 a b c d : Wf.Statement (.divS32 a b c d) := fun _ h =>
  lt_of_eq (List.mem_singleton.1 h) (wordOf_lt (op := 0x16) (l := [(18, a.toNat), (12, b.toNat), (6, c.toNat), (0, d.toNat)]) (by decide) (fit a.isLt (fit b.isLt (fit c.isLt (fit d.isLt (fit_nil _) (by decide)) (by decide)) (by decide)) (by decide)))
theorem Wf.divZ32 a b c d : Wf.Statement (.divZ32 a b c d) := fun _ h =>
  lt_of_eq (List.mem_singleton.1 h) (wordOf_lt (op := 0x17) (l := [(18, a.toNat), (12, b.toNat), (6, c.toNat), (0, d.toNat)]) (by decide) (fit a.isLt (fit b.isLt (fit c.isLt (fit d.isLt (fit_nil _) (by decide)) (by decide)) (by decide)) (by decide)))
theorem Wf.remS32 a b c d : Wf.Statement (.remS32 a b c d) := fun _ h =>
  lt_of_eq (List.mem_singleton.1 h) (wordOf_lt (op := 0x18) (l := [(18, a.toNat), (12, b.toNat), (6, c.toNat), (0, d.toNat)]) (by decide) (fit a.isLt (fit b.isLt (fit c.isLt (fit d.isLt (fit_nil _) (by decide)) (by decide)) (by decide)) (by decide)))
theorem Wf.remZ32 a b c d : Wf.Statement (.remZ32 a b c d) := fun _ h =>
  lt_of_eq (List.mem_singleton.1 h) (wordOf_lt (op := 0x19) (l := [(18, a.toNat), (12, b.toNat), (6, c.toNat), (0, d.toNat)]) (by decide) (fit a.isLt (fit b.isLt (fit c.isLt (fit d.isLt (fit_nil _) (by decide)) (by decide)) (by decide)) (by decide)))
theorem Wf.minS32 a b c d : Wf.Statement (.minS32 a b c d) := fun _ h =>
  lt_of_eq (List.mem_singleton.1 h) (wordOf_lt (op := 0x1A) (l := [(18, a.toNat), (12, b.toNat), (6, c.toNat), (0, d.toNat)]) (by decide) (fit a.isLt (fit b.isLt (fit c.isLt (fit d.isLt (fit_nil _) (by decide)) (by decide)) (by decide)) (by decide)))
theorem Wf.minZ32 a b c d : Wf.Statement (.minZ32 a b c d) := fun _ h =>
  lt_of_eq (List.mem_singleton.1 h) (wordOf_lt (op := 0x1B) (l := [(18, a.toNat), (12, b.toNat), (6, c.toNat), (0, d.toNat)]) (by decide) (fit a.isLt (fit b.isLt (fit c.isLt (fit d.isLt (fit_nil _) (by decide)) (by decide)) (by decide)) (by decide)))
theorem Wf.maxS32 a b c d : Wf.Statement (.maxS32 a b c d) := fun _ h =>
  lt_of_eq (List.mem_singleton.1 h) (wordOf_lt (op := 0x1C) (l := [(18, a.toNat), (12, b.toNat), (6, c.toNat), (0, d.toNat)]) (by decide) (fit a.isLt (fit b.isLt (fit c.isLt (fit d.isLt (fit_nil _) (by decide)) (by decide)) (by decide)) (by decide)))
theorem Wf.maxZ32 a b c d : Wf.Statement (.maxZ32 a b c d) := fun _ h =>
  lt_of_eq (List.mem_singleton.1 h) (wordOf_lt (op := 0x1D) (l := [(18, a.toNat), (12, b.toNat), (6, c.toNat), (0, d.toNat)]) (by decide) (fit a.isLt (fit b.isLt (fit c.isLt (fit d.isLt (fit_nil _) (by decide)) (by decide)) (by decide)) (by decide)))
theorem Wf.absS32 a b c : Wf.Statement (.absS32 a b c) := fun _ h =>
  lt_of_eq (List.mem_singleton.1 h) (wordOf_lt (op := 0x1E) (l := [(18, a.toNat), (12, b.toNat), (0, c.toNat)]) (by decide) (fit a.isLt (fit b.isLt (fit c.isLt (fit_nil _) (by decide)) (by decide)) (by decide)))
theorem Wf.neg a b c : Wf.Statement (.neg a b c) := fun _ h =>
  lt_of_eq (List.mem_singleton.1 h) (wordOf_lt (op := 0x1F) (l := [(18, a.toNat), (12, b.toNat), (0, c.toNat)]) (by decide) (fit a.isLt (fit b.isLt (fit c.isLt (fit_nil _) (by decide)) (by decide)) (by decide)))
theorem Wf.and a b c d : Wf.Statement (.and a b c d) := fun _ h =>
  lt_of_eq (List.mem_singleton.1 h) (wordOf_lt (op := 0x20) (l := [(18, a.toNat), (12, b.toNat), (6, c.toNat), (0, d.toNat)]) (by decide) (fit a.isLt (fit b.isLt (fit c.isLt (fit d.isLt (fit_nil _) (by decide)) (by decide)) (by decide)) (by decide)))
theorem Wf.or a b c d : Wf.Statement (.or a b c d) := fun _ h =>
  lt_of_eq (List.mem_singleton.1 h) (wordOf_lt (op := 0x21) (l := [(18, a.toNat), (12, b.toNat), (6, c.toNat), (0, d.toNat)]) (by decide) (fit a.isLt (fit b.isLt (fit c.isLt (fit d.isLt (fit_nil _) (by decide)) (by decide)) (by decide)) (by decide)))
theorem Wf.xor a b c d : Wf.Statement (.xor a b c d) := fun _ h =>
  lt_of_eq (List.mem_singleton.1 h) (wordOf_lt (op := 0x22) (l := [(18, a.toNat), (12, b.toNat), (6, c.toNat), (0, d.toNat)]) (by decide) (fit a.isLt (fit b.isLt (fit c.isLt (fit d.isLt (fit_nil _) (by decide)) (by decide)) (by decide)) (by decide)))
theorem Wf.andn a b c d : Wf.Statement (.andn a b c d) := fun _ h =>
  lt_of_eq (List.mem_singleton.1 h) (wordOf_lt (op := 0x23) (l := [(18, a.toNat), (12, b.toNat), (6, c.toNat), (0, d.toNat)]) (by decide) (fit a.isLt (fit b.isLt (fit c.isLt (fit d.isLt (fit_nil _) (by decide)) (by decide)) (by decide)) (by decide)))
theorem Wf.not a b c : Wf.Statement (.not a b c) := fun _ h =>
  lt_of_eq (List.mem_singleton.1 h) (wordOf_lt (op := 0x24) (l := [(18, a.toNat), (12, b.toNat), (0, c.toNat)]) (by decide) (fit a.isLt (fit b.isLt (fit c.isLt (fit_nil _) (by decide)) (by decide)) (by decide)))
theorem Wf.andi a b c : Wf.Statement (.andi a b c) := fun _ h =>
  lt_of_eq (List.mem_singleton.1 h) (wordOf_lt (op := 0x25) (l := [(18, a.toNat), (12, b.toNat), (0, c.toNat)]) (by decide) (fit a.isLt (fit b.isLt (fit c.isLt (fit_nil _) (by decide)) (by decide)) (by decide)))
theorem Wf.ori a b c : Wf.Statement (.ori a b c) := fun _ h =>
  lt_of_eq (List.mem_singleton.1 h) (wordOf_lt (op := 0x26) (l := [(18, a.toNat), (12, b.toNat), (0, c.toNat)]) (by decide) (fit a.isLt (fit b.isLt (fit c.isLt (fit_nil _) (by decide)) (by decide)) (by decide)))
theorem Wf.xori a b c : Wf.Statement (.xori a b c) := fun _ h =>
  lt_of_eq (List.mem_singleton.1 h) (wordOf_lt (op := 0x27) (l := [(18, a.toNat), (12, b.toNat), (0, c.toNat)]) (by decide) (fit a.isLt (fit b.isLt (fit c.isLt (fit_nil _) (by decide)) (by decide)) (by decide)))
theorem Wf.shl a b c d : Wf.Statement (.shl a b c d) := fun _ h =>
  lt_of_eq (List.mem_singleton.1 h) (wordOf_lt (op := 0x28) (l := [(18, a.toNat), (12, b.toNat), (6, c.toNat), (0, d.toNat)]) (by decide) (fit a.isLt (fit b.isLt (fit c.isLt (fit d.isLt (fit_nil _) (by decide)) (by decide)) (by decide)) (by decide)))
theorem Wf.shr a b c d : Wf.Statement (.shr a b c d) := fun _ h =>
  lt_of_eq (List.mem_singleton.1 h) (wordOf_lt (op := 0x29) (l := [(18, a.toNat), (12, b.toNat), (6, c.toNat), (0, d.toNat)]) (by decide) (fit a.isLt (fit b.isLt (fit c.isLt (fit d.isLt (fit_nil _) (by decide)) (by decide)) (by decide)) (by decide)))
theorem Wf.sra a b c d : Wf.Statement (.sra a b c d) := fun _ h =>
  lt_of_eq (List.mem_singleton.1 h) (wordOf_lt (op := 0x2A) (l := [(18, a.toNat), (12, b.toNat), (6, c.toNat), (0, d.toNat)]) (by decide) (fit a.isLt (fit b.isLt (fit c.isLt (fit d.isLt (fit_nil _) (by decide)) (by decide)) (by decide)) (by decide)))
theorem Wf.shli a b c : Wf.Statement (.shli a b c) := fun _ h =>
  lt_of_eq (List.mem_singleton.1 h) (wordOf_lt (op := 0x2B) (l := [(18, a.toNat), (12, b.toNat), (0, c.toNat)]) (by decide) (fit a.isLt (fit b.isLt (fit c.isLt (fit_nil _) (by decide)) (by decide)) (by decide)))
theorem Wf.shri a b c : Wf.Statement (.shri a b c) := fun _ h =>
  lt_of_eq (List.mem_singleton.1 h) (wordOf_lt (op := 0x2C) (l := [(18, a.toNat), (12, b.toNat), (0, c.toNat)]) (by decide) (fit a.isLt (fit b.isLt (fit c.isLt (fit_nil _) (by decide)) (by decide)) (by decide)))
theorem Wf.srai a b c : Wf.Statement (.srai a b c) := fun _ h =>
  lt_of_eq (List.mem_singleton.1 h) (wordOf_lt (op := 0x2D) (l := [(18, a.toNat), (12, b.toNat), (0, c.toNat)]) (by decide) (fit a.isLt (fit b.isLt (fit c.isLt (fit_nil _) (by decide)) (by decide)) (by decide)))
theorem Wf.rotl a b c d : Wf.Statement (.rotl a b c d) := fun _ h =>
  lt_of_eq (List.mem_singleton.1 h) (wordOf_lt (op := 0x2E) (l := [(18, a.toNat), (12, b.toNat), (6, c.toNat), (0, d.toNat)]) (by decide) (fit a.isLt (fit b.isLt (fit c.isLt (fit d.isLt (fit_nil _) (by decide)) (by decide)) (by decide)) (by decide)))
theorem Wf.rotli a b c : Wf.Statement (.rotli a b c) := fun _ h =>
  lt_of_eq (List.mem_singleton.1 h) (wordOf_lt (op := 0x2F) (l := [(18, a.toNat), (12, b.toNat), (0, c.toNat)]) (by decide) (fit a.isLt (fit b.isLt (fit c.isLt (fit_nil _) (by decide)) (by decide)) (by decide)))
theorem Wf.popc a b c : Wf.Statement (.popc a b c) := fun _ h =>
  lt_of_eq (List.mem_singleton.1 h) (wordOf_lt (op := 0x30) (l := [(18, a.toNat), (12, b.toNat), (0, c.toNat)]) (by decide) (fit a.isLt (fit b.isLt (fit c.isLt (fit_nil _) (by decide)) (by decide)) (by decide)))
theorem Wf.clz a b c : Wf.Statement (.clz a b c) := fun _ h =>
  lt_of_eq (List.mem_singleton.1 h) (wordOf_lt (op := 0x31) (l := [(18, a.toNat), (12, b.toNat), (0, c.toNat)]) (by decide) (fit a.isLt (fit b.isLt (fit c.isLt (fit_nil _) (by decide)) (by decide)) (by decide)))
theorem Wf.brev a b c : Wf.Statement (.brev a b c) := fun _ h =>
  lt_of_eq (List.mem_singleton.1 h) (wordOf_lt (op := 0x32) (l := [(18, a.toNat), (12, b.toNat), (0, c.toNat)]) (by decide) (fit a.isLt (fit b.isLt (fit c.isLt (fit_nil _) (by decide)) (by decide)) (by decide)))
theorem Wf.bfxS a b c d : Wf.Statement (.bfxS a b c d) := fun _ h =>
  lt_of_eq (List.mem_singleton.1 h) (wordOf_lt (op := 0x33) (l := [(18, a.toNat), (12, b.toNat), (5, c.toNat), (0, d.toNat)]) (by decide) (fit a.isLt (fit b.isLt (fit c.isLt (fit d.isLt (fit_nil _) (by decide)) (by decide)) (by decide)) (by decide)))
theorem Wf.bfxZ a b c d : Wf.Statement (.bfxZ a b c d) := fun _ h =>
  lt_of_eq (List.mem_singleton.1 h) (wordOf_lt (op := 0x34) (l := [(18, a.toNat), (12, b.toNat), (5, c.toNat), (0, d.toNat)]) (by decide) (fit a.isLt (fit b.isLt (fit c.isLt (fit d.isLt (fit_nil _) (by decide)) (by decide)) (by decide)) (by decide)))
theorem Wf.bfi a b c d : Wf.Statement (.bfi a b c d) := fun _ h =>
  lt_of_eq (List.mem_singleton.1 h) (wordOf_lt (op := 0x35) (l := [(18, a.toNat), (12, b.toNat), (5, c.toNat), (0, d.toNat)]) (by decide) (fit a.isLt (fit b.isLt (fit c.isLt (fit d.isLt (fit_nil _) (by decide)) (by decide)) (by decide)) (by decide)))
theorem Wf.lea a b c d : Wf.Statement (.lea a b c d) := fun _ h =>
  lt_of_eq (List.mem_singleton.1 h) (wordOf_lt (op := 0x36) (l := [(18, a.toNat), (12, b.toNat), (6, c.toNat), (0, d.toNat)]) (by decide) (fit a.isLt (fit b.isLt (fit c.isLt (fit d.isLt (fit_nil _) (by decide)) (by decide)) (by decide)) (by decide)))
theorem Wf.add64 a b c d : Wf.Statement (.add64 a b c d) := fun _ h =>
  lt_of_eq (List.mem_singleton.1 h) (wordOf_lt (op := 0x37) (l := [(18, a.toNat), (12, b.toNat), (6, c.toNat), (0, d.toNat)]) (by decide) (fit a.isLt (fit b.isLt (fit c.isLt (fit d.isLt (fit_nil _) (by decide)) (by decide)) (by decide)) (by decide)))
theorem Wf.sub64 a b c d : Wf.Statement (.sub64 a b c d) := fun _ h =>
  lt_of_eq (List.mem_singleton.1 h) (wordOf_lt (op := 0x38) (l := [(18, a.toNat), (12, b.toNat), (6, c.toNat), (0, d.toNat)]) (by decide) (fit a.isLt (fit b.isLt (fit c.isLt (fit d.isLt (fit_nil _) (by decide)) (by decide)) (by decide)) (by decide)))
theorem Wf.addi64 a b c : Wf.Statement (.addi64 a b c) := fun _ h =>
  lt_of_eq (List.mem_singleton.1 h) (wordOf_lt (op := 0x39) (l := [(18, a.toNat), (12, b.toNat), (0, c.toNat)]) (by decide) (fit a.isLt (fit b.isLt (fit c.isLt (fit_nil _) (by decide)) (by decide)) (by decide)))
theorem Wf.shl64i a b c : Wf.Statement (.shl64i a b c) := fun _ h =>
  lt_of_eq (List.mem_singleton.1 h) (wordOf_lt (op := 0x3A) (l := [(18, a.toNat), (12, b.toNat), (0, c.toNat)]) (by decide) (fit a.isLt (fit b.isLt (fit c.isLt (fit_nil _) (by decide)) (by decide)) (by decide)))
theorem Wf.shr64i a b c : Wf.Statement (.shr64i a b c) := fun _ h =>
  lt_of_eq (List.mem_singleton.1 h) (wordOf_lt (op := 0x3B) (l := [(18, a.toNat), (12, b.toNat), (0, c.toNat)]) (by decide) (fit a.isLt (fit b.isLt (fit c.isLt (fit_nil _) (by decide)) (by decide)) (by decide)))
theorem Wf.fkeyF16 a b c : Wf.Statement (.fkeyF16 a b c) := fun _ h =>
  lt_of_eq (List.mem_singleton.1 h) (wordOf_lt (op := 0x3C) (l := [(18, a.toNat), (12, b.toNat), (0, c.toNat)]) (by decide) (fit a.isLt (fit b.isLt (fit c.isLt (fit_nil _) (by decide)) (by decide)) (by decide)))
theorem Wf.fkeyF32 a b c : Wf.Statement (.fkeyF32 a b c) := fun _ h =>
  lt_of_eq (List.mem_singleton.1 h) (wordOf_lt (op := 0x3D) (l := [(18, a.toNat), (12, b.toNat), (0, c.toNat)]) (by decide) (fit a.isLt (fit b.isLt (fit c.isLt (fit_nil _) (by decide)) (by decide)) (by decide)))
theorem Wf.cmpS32 a b c d : Wf.Statement (.cmpS32 a b c d) := fun _ h =>
  lt_of_eq (List.mem_singleton.1 h) (wordOf_lt (op := 0x40) (l := [(18, a.toNat), (12, b.toNat), (6, c.toNat), (3, d.toNat)]) (by decide) (fit a.isLt (fit b.isLt (fit c.isLt (fit d.isLt (fit_nil _) (by decide)) (by decide)) (by decide)) (by decide)))
theorem Wf.cmpZ32 a b c d : Wf.Statement (.cmpZ32 a b c d) := fun _ h =>
  lt_of_eq (List.mem_singleton.1 h) (wordOf_lt (op := 0x41) (l := [(18, a.toNat), (12, b.toNat), (6, c.toNat), (3, d.toNat)]) (by decide) (fit a.isLt (fit b.isLt (fit c.isLt (fit d.isLt (fit_nil _) (by decide)) (by decide)) (by decide)) (by decide)))
theorem Wf.cmpS64 a b c d : Wf.Statement (.cmpS64 a b c d) := fun _ h =>
  lt_of_eq (List.mem_singleton.1 h) (wordOf_lt (op := 0x42) (l := [(18, a.toNat), (12, b.toNat), (6, c.toNat), (3, d.toNat)]) (by decide) (fit a.isLt (fit b.isLt (fit c.isLt (fit d.isLt (fit_nil _) (by decide)) (by decide)) (by decide)) (by decide)))
theorem Wf.cmpZ64 a b c d : Wf.Statement (.cmpZ64 a b c d) := fun _ h =>
  lt_of_eq (List.mem_singleton.1 h) (wordOf_lt (op := 0x43) (l := [(18, a.toNat), (12, b.toNat), (6, c.toNat), (3, d.toNat)]) (by decide) (fit a.isLt (fit b.isLt (fit c.isLt (fit d.isLt (fit_nil _) (by decide)) (by decide)) (by decide)) (by decide)))
theorem Wf.cmpiS32 a b c d : Wf.Statement (.cmpiS32 a b c d) := fun _ h =>
  lt_of_eq (List.mem_singleton.1 h) (wordOf_lt (op := 0x44) (l := [(18, a.toNat), (12, b.toNat), (6, c.toNat), (3, d.toNat)]) (by decide) (fit a.isLt (fit b.isLt (fit c.isLt (fit d.isLt (fit_nil _) (by decide)) (by decide)) (by decide)) (by decide)))
theorem Wf.cmpiZ32 a b c d : Wf.Statement (.cmpiZ32 a b c d) := fun _ h =>
  lt_of_eq (List.mem_singleton.1 h) (wordOf_lt (op := 0x45) (l := [(18, a.toNat), (12, b.toNat), (6, c.toNat), (3, d.toNat)]) (by decide) (fit a.isLt (fit b.isLt (fit c.isLt (fit d.isLt (fit_nil _) (by decide)) (by decide)) (by decide)) (by decide)))
theorem Wf.fcmpF32 a b c d : Wf.Statement (.fcmpF32 a b c d) := fun _ h =>
  lt_of_eq (List.mem_singleton.1 h) (wordOf_lt (op := 0x46) (l := [(18, a.toNat), (12, b.toNat), (6, c.toNat), (3, d.toNat)]) (by decide) (fit a.isLt (fit b.isLt (fit c.isLt (fit d.isLt (fit_nil _) (by decide)) (by decide)) (by decide)) (by decide)))
theorem Wf.fcmpF16 a b c d : Wf.Statement (.fcmpF16 a b c d) := fun _ h =>
  lt_of_eq (List.mem_singleton.1 h) (wordOf_lt (op := 0x47) (l := [(18, a.toNat), (12, b.toNat), (6, c.toNat), (3, d.toNat)]) (by decide) (fit a.isLt (fit b.isLt (fit c.isLt (fit d.isLt (fit_nil _) (by decide)) (by decide)) (by decide)) (by decide)))
theorem Wf.plog a b c d : Wf.Statement (.plog a b c d) := fun _ h =>
  lt_of_eq (List.mem_singleton.1 h) (wordOf_lt (op := 0x48) (l := [(19, a.toNat), (14, b.toNat), (9, c.toNat), (0, d.toNat)]) (by decide) (fit a.isLt (fit b.isLt (fit c.isLt (fit d.isLt (fit_nil _) (by decide)) (by decide)) (by decide)) (by decide)))
theorem Wf.pmov a b : Wf.Statement (.pmov a b) := fun _ h =>
  lt_of_eq (List.mem_singleton.1 h) (wordOf_lt (op := 0x49) (l := [(18, a.toNat), (17, b.toNat)]) (by decide) (fit a.isLt (fit b.isLt (fit_nil _) (by decide)) (by decide)))
theorem Wf.vote a b c : Wf.Statement (.vote a b c) := fun _ h =>
  lt_of_eq (List.mem_singleton.1 h) (wordOf_lt (op := 0x4A) (l := [(18, a.toNat), (12, b.toNat), (10, c.toNat)]) (by decide) (fit a.isLt (fit b.isLt (fit c.isLt (fit_nil _) (by decide)) (by decide)) (by decide)))
theorem Wf.faddF32 a b c d : Wf.Statement (.faddF32 a b c d) := fun _ h =>
  lt_of_eq (List.mem_singleton.1 h) (wordOf_lt (op := 0x50) (l := [(18, a.toNat), (12, b.toNat), (6, c.toNat), (0, d.toNat)]) (by decide) (fit a.isLt (fit b.isLt (fit c.isLt (fit d.isLt (fit_nil _) (by decide)) (by decide)) (by decide)) (by decide)))
theorem Wf.fsubF32 a b c d : Wf.Statement (.fsubF32 a b c d) := fun _ h =>
  lt_of_eq (List.mem_singleton.1 h) (wordOf_lt (op := 0x51) (l := [(18, a.toNat), (12, b.toNat), (6, c.toNat), (0, d.toNat)]) (by decide) (fit a.isLt (fit b.isLt (fit c.isLt (fit d.isLt (fit_nil _) (by decide)) (by decide)) (by decide)) (by decide)))
theorem Wf.fmulF32 a b c d : Wf.Statement (.fmulF32 a b c d) := fun _ h =>
  lt_of_eq (List.mem_singleton.1 h) (wordOf_lt (op := 0x52) (l := [(18, a.toNat), (12, b.toNat), (6, c.toNat), (0, d.toNat)]) (by decide) (fit a.isLt (fit b.isLt (fit c.isLt (fit d.isLt (fit_nil _) (by decide)) (by decide)) (by decide)) (by decide)))
theorem Wf.ffmaF32 a b c d : Wf.Statement (.ffmaF32 a b c d) := fun _ h =>
  lt_of_eq (List.mem_singleton.1 h) (wordOf_lt (op := 0x53) (l := [(18, a.toNat), (12, b.toNat), (6, c.toNat), (0, d.toNat)]) (by decide) (fit a.isLt (fit b.isLt (fit c.isLt (fit d.isLt (fit_nil _) (by decide)) (by decide)) (by decide)) (by decide)))
theorem Wf.fminF32 a b c d : Wf.Statement (.fminF32 a b c d) := fun _ h =>
  lt_of_eq (List.mem_singleton.1 h) (wordOf_lt (op := 0x54) (l := [(18, a.toNat), (12, b.toNat), (6, c.toNat), (0, d.toNat)]) (by decide) (fit a.isLt (fit b.isLt (fit c.isLt (fit d.isLt (fit_nil _) (by decide)) (by decide)) (by decide)) (by decide)))
theorem Wf.fmaxF32 a b c d : Wf.Statement (.fmaxF32 a b c d) := fun _ h =>
  lt_of_eq (List.mem_singleton.1 h) (wordOf_lt (op := 0x55) (l := [(18, a.toNat), (12, b.toNat), (6, c.toNat), (0, d.toNat)]) (by decide) (fit a.isLt (fit b.isLt (fit c.isLt (fit d.isLt (fit_nil _) (by decide)) (by decide)) (by decide)) (by decide)))
theorem Wf.fabsF32 a b c : Wf.Statement (.fabsF32 a b c) := fun _ h =>
  lt_of_eq (List.mem_singleton.1 h) (wordOf_lt (op := 0x56) (l := [(18, a.toNat), (12, b.toNat), (0, c.toNat)]) (by decide) (fit a.isLt (fit b.isLt (fit c.isLt (fit_nil _) (by decide)) (by decide)) (by decide)))
theorem Wf.fnegF32 a b c : Wf.Statement (.fnegF32 a b c) := fun _ h =>
  lt_of_eq (List.mem_singleton.1 h) (wordOf_lt (op := 0x57) (l := [(18, a.toNat), (12, b.toNat), (0, c.toNat)]) (by decide) (fit a.isLt (fit b.isLt (fit c.isLt (fit_nil _) (by decide)) (by decide)) (by decide)))
theorem Wf.frcpF32 a b c : Wf.Statement (.frcpF32 a b c) := fun _ h =>
  lt_of_eq (List.mem_singleton.1 h) (wordOf_lt (op := 0x58) (l := [(18, a.toNat), (12, b.toNat), (0, c.toNat)]) (by decide) (fit a.isLt (fit b.isLt (fit c.isLt (fit_nil _) (by decide)) (by decide)) (by decide)))
theorem Wf.frsqF32 a b c : Wf.Statement (.frsqF32 a b c) := fun _ h =>
  lt_of_eq (List.mem_singleton.1 h) (wordOf_lt (op := 0x59) (l := [(18, a.toNat), (12, b.toNat), (0, c.toNat)]) (by decide) (fit a.isLt (fit b.isLt (fit c.isLt (fit_nil _) (by decide)) (by decide)) (by decide)))
theorem Wf.fsqrtF32 a b c : Wf.Statement (.fsqrtF32 a b c) := fun _ h =>
  lt_of_eq (List.mem_singleton.1 h) (wordOf_lt (op := 0x5A) (l := [(18, a.toNat), (12, b.toNat), (0, c.toNat)]) (by decide) (fit a.isLt (fit b.isLt (fit c.isLt (fit_nil _) (by decide)) (by decide)) (by decide)))
theorem Wf.fexp2F32 a b c : Wf.Statement (.fexp2F32 a b c) := fun _ h =>
  lt_of_eq (List.mem_singleton.1 h) (wordOf_lt (op := 0x5B) (l := [(18, a.toNat), (12, b.toNat), (0, c.toNat)]) (by decide) (fit a.isLt (fit b.isLt (fit c.isLt (fit_nil _) (by decide)) (by decide)) (by decide)))
theorem Wf.flog2F32 a b c : Wf.Statement (.flog2F32 a b c) := fun _ h =>
  lt_of_eq (List.mem_singleton.1 h) (wordOf_lt (op := 0x5C) (l := [(18, a.toNat), (12, b.toNat), (0, c.toNat)]) (by decide) (fit a.isLt (fit b.isLt (fit c.isLt (fit_nil _) (by decide)) (by decide)) (by decide)))
theorem Wf.fdivF32 a b c d : Wf.Statement (.fdivF32 a b c d) := fun _ h =>
  lt_of_eq (List.mem_singleton.1 h) (wordOf_lt (op := 0x5D) (l := [(18, a.toNat), (12, b.toNat), (6, c.toNat), (0, d.toNat)]) (by decide) (fit a.isLt (fit b.isLt (fit c.isLt (fit d.isLt (fit_nil _) (by decide)) (by decide)) (by decide)) (by decide)))
theorem Wf.faddRzF32 a b c d : Wf.Statement (.faddRzF32 a b c d) := fun _ h =>
  lt_of_eq (List.mem_singleton.1 h) (wordOf_lt (op := 0x5E) (l := [(18, a.toNat), (12, b.toNat), (6, c.toNat), (0, d.toNat)]) (by decide) (fit a.isLt (fit b.isLt (fit c.isLt (fit d.isLt (fit_nil _) (by decide)) (by decide)) (by decide)) (by decide)))
theorem Wf.ffmaRzF32 a b c d : Wf.Statement (.ffmaRzF32 a b c d) := fun _ h =>
  lt_of_eq (List.mem_singleton.1 h) (wordOf_lt (op := 0x5F) (l := [(18, a.toNat), (12, b.toNat), (6, c.toNat), (0, d.toNat)]) (by decide) (fit a.isLt (fit b.isLt (fit c.isLt (fit d.isLt (fit_nil _) (by decide)) (by decide)) (by decide)) (by decide)))
theorem Wf.hadd2 a b c d : Wf.Statement (.hadd2 a b c d) := fun _ h =>
  lt_of_eq (List.mem_singleton.1 h) (wordOf_lt (op := 0x60) (l := [(18, a.toNat), (12, b.toNat), (6, c.toNat), (0, d.toNat)]) (by decide) (fit a.isLt (fit b.isLt (fit c.isLt (fit d.isLt (fit_nil _) (by decide)) (by decide)) (by decide)) (by decide)))
theorem Wf.hmul2 a b c d : Wf.Statement (.hmul2 a b c d) := fun _ h =>
  lt_of_eq (List.mem_singleton.1 h) (wordOf_lt (op := 0x61) (l := [(18, a.toNat), (12, b.toNat), (6, c.toNat), (0, d.toNat)]) (by decide) (fit a.isLt (fit b.isLt (fit c.isLt (fit d.isLt (fit_nil _) (by decide)) (by decide)) (by decide)) (by decide)))
theorem Wf.hfma2 a b c d : Wf.Statement (.hfma2 a b c d) := fun _ h =>
  lt_of_eq (List.mem_singleton.1 h) (wordOf_lt (op := 0x62) (l := [(18, a.toNat), (12, b.toNat), (6, c.toNat), (0, d.toNat)]) (by decide) (fit a.isLt (fit b.isLt (fit c.isLt (fit d.isLt (fit_nil _) (by decide)) (by decide)) (by decide)) (by decide)))
theorem Wf.hmin2 a b c d : Wf.Statement (.hmin2 a b c d) := fun _ h =>
  lt_of_eq (List.mem_singleton.1 h) (wordOf_lt (op := 0x63) (l := [(18, a.toNat), (12, b.toNat), (6, c.toNat), (0, d.toNat)]) (by decide) (fit a.isLt (fit b.isLt (fit c.isLt (fit d.isLt (fit_nil _) (by decide)) (by decide)) (by decide)) (by decide)))
theorem Wf.hmax2 a b c d : Wf.Statement (.hmax2 a b c d) := fun _ h =>
  lt_of_eq (List.mem_singleton.1 h) (wordOf_lt (op := 0x64) (l := [(18, a.toNat), (12, b.toNat), (6, c.toNat), (0, d.toNat)]) (by decide) (fit a.isLt (fit b.isLt (fit c.isLt (fit d.isLt (fit_nil _) (by decide)) (by decide)) (by decide)) (by decide)))
theorem Wf.badd2 a b c d : Wf.Statement (.badd2 a b c d) := fun _ h =>
  lt_of_eq (List.mem_singleton.1 h) (wordOf_lt (op := 0x65) (l := [(18, a.toNat), (12, b.toNat), (6, c.toNat), (0, d.toNat)]) (by decide) (fit a.isLt (fit b.isLt (fit c.isLt (fit d.isLt (fit_nil _) (by decide)) (by decide)) (by decide)) (by decide)))
theorem Wf.bmul2 a b c d : Wf.Statement (.bmul2 a b c d) := fun _ h =>
  lt_of_eq (List.mem_singleton.1 h) (wordOf_lt (op := 0x66) (l := [(18, a.toNat), (12, b.toNat), (6, c.toNat), (0, d.toNat)]) (by decide) (fit a.isLt (fit b.isLt (fit c.isLt (fit d.isLt (fit_nil _) (by decide)) (by decide)) (by decide)) (by decide)))
theorem Wf.bfma2 a b c d : Wf.Statement (.bfma2 a b c d) := fun _ h =>
  lt_of_eq (List.mem_singleton.1 h) (wordOf_lt (op := 0x67) (l := [(18, a.toNat), (12, b.toNat), (6, c.toNat), (0, d.toNat)]) (by decide) (fit a.isLt (fit b.isLt (fit c.isLt (fit d.isLt (fit_nil _) (by decide)) (by decide)) (by decide)) (by decide)))
theorem Wf.bmin2 a b c d : Wf.Statement (.bmin2 a b c d) := fun _ h =>
  lt_of_eq (List.mem_singleton.1 h) (wordOf_lt (op := 0x68) (l := [(18, a.toNat), (12, b.toNat), (6, c.toNat), (0, d.toNat)]) (by decide) (fit a.isLt (fit b.isLt (fit c.isLt (fit d.isLt (fit_nil _) (by decide)) (by decide)) (by decide)) (by decide)))
theorem Wf.bmax2 a b c d : Wf.Statement (.bmax2 a b c d) := fun _ h =>
  lt_of_eq (List.mem_singleton.1 h) (wordOf_lt (op := 0x69) (l := [(18, a.toNat), (12, b.toNat), (6, c.toNat), (0, d.toNat)]) (by decide) (fit a.isLt (fit b.isLt (fit c.isLt (fit d.isLt (fit_nil _) (by decide)) (by decide)) (by decide)) (by decide)))
theorem Wf.cvtF32S32 a b c : Wf.Statement (.cvtF32S32 a b c) := fun _ h =>
  lt_of_eq (List.mem_singleton.1 h) (wordOf_lt (op := 0x70) (l := [(18, a.toNat), (12, b.toNat), (0, c.toNat)]) (by decide) (fit a.isLt (fit b.isLt (fit c.isLt (fit_nil _) (by decide)) (by decide)) (by decide)))
theorem Wf.cvtF32Z32 a b c : Wf.Statement (.cvtF32Z32 a b c) := fun _ h =>
  lt_of_eq (List.mem_singleton.1 h) (wordOf_lt (op := 0x71) (l := [(18, a.toNat), (12, b.toNat), (0, c.toNat)]) (by decide) (fit a.isLt (fit b.isLt (fit c.isLt (fit_nil _) (by decide)) (by decide)) (by decide)))
theorem Wf.cvtS32F32Rz a b c : Wf.Statement (.cvtS32F32Rz a b c) := fun _ h =>
  lt_of_eq (List.mem_singleton.1 h) (wordOf_lt (op := 0x72) (l := [(18, a.toNat), (12, b.toNat), (0, c.toNat)]) (by decide) (fit a.isLt (fit b.isLt (fit c.isLt (fit_nil _) (by decide)) (by decide)) (by decide)))
theorem Wf.cvtS32F32Rn a b c : Wf.Statement (.cvtS32F32Rn a b c) := fun _ h =>
  lt_of_eq (List.mem_singleton.1 h) (wordOf_lt (op := 0x73) (l := [(18, a.toNat), (12, b.toNat), (0, c.toNat)]) (by decide) (fit a.isLt (fit b.isLt (fit c.isLt (fit_nil _) (by decide)) (by decide)) (by decide)))
theorem Wf.cvtZ32F32Rz a b c : Wf.Statement (.cvtZ32F32Rz a b c) := fun _ h =>
  lt_of_eq (List.mem_singleton.1 h) (wordOf_lt (op := 0x74) (l := [(18, a.toNat), (12, b.toNat), (0, c.toNat)]) (by decide) (fit a.isLt (fit b.isLt (fit c.isLt (fit_nil _) (by decide)) (by decide)) (by decide)))
theorem Wf.cvtF16F32 a b c : Wf.Statement (.cvtF16F32 a b c) := fun _ h =>
  lt_of_eq (List.mem_singleton.1 h) (wordOf_lt (op := 0x75) (l := [(18, a.toNat), (12, b.toNat), (0, c.toNat)]) (by decide) (fit a.isLt (fit b.isLt (fit c.isLt (fit_nil _) (by decide)) (by decide)) (by decide)))
theorem Wf.cvtF16F32Sat a b c : Wf.Statement (.cvtF16F32Sat a b c) := fun _ h =>
  lt_of_eq (List.mem_singleton.1 h) (wordOf_lt (op := 0x76) (l := [(18, a.toNat), (12, b.toNat), (0, c.toNat)]) (by decide) (fit a.isLt (fit b.isLt (fit c.isLt (fit_nil _) (by decide)) (by decide)) (by decide)))
theorem Wf.cvtBf16F32 a b c : Wf.Statement (.cvtBf16F32 a b c) := fun _ h =>
  lt_of_eq (List.mem_singleton.1 h) (wordOf_lt (op := 0x77) (l := [(18, a.toNat), (12, b.toNat), (0, c.toNat)]) (by decide) (fit a.isLt (fit b.isLt (fit c.isLt (fit_nil _) (by decide)) (by decide)) (by decide)))
theorem Wf.cvtF32F16 a b c : Wf.Statement (.cvtF32F16 a b c) := fun _ h =>
  lt_of_eq (List.mem_singleton.1 h) (wordOf_lt (op := 0x78) (l := [(18, a.toNat), (12, b.toNat), (0, c.toNat)]) (by decide) (fit a.isLt (fit b.isLt (fit c.isLt (fit_nil _) (by decide)) (by decide)) (by decide)))
theorem Wf.cvtF32Bf16 a b c : Wf.Statement (.cvtF32Bf16 a b c) := fun _ h =>
  lt_of_eq (List.mem_singleton.1 h) (wordOf_lt (op := 0x79) (l := [(18, a.toNat), (12, b.toNat), (0, c.toNat)]) (by decide) (fit a.isLt (fit b.isLt (fit c.isLt (fit_nil _) (by decide)) (by decide)) (by decide)))
theorem Wf.cvtb a b c d : Wf.Statement (.cvtb a b c d) := fun _ h =>
  lt_of_eq (List.mem_singleton.1 h) (wordOf_lt (op := 0x7A) (l := [(18, a.toNat), (12, b.toNat), (8, c.toNat), (3, d.toNat)]) (by decide) (fit a.isLt (fit b.isLt (fit c.isLt (fit d.isLt (fit_nil _) (by decide)) (by decide)) (by decide)) (by decide)))
theorem Wf.widb a b c d : Wf.Statement (.widb a b c d) := fun _ h =>
  lt_of_eq (List.mem_singleton.1 h) (wordOf_lt (op := 0x7B) (l := [(18, a.toNat), (12, b.toNat), (8, c.toNat), (3, d.toNat)]) (by decide) (fit a.isLt (fit b.isLt (fit c.isLt (fit d.isLt (fit_nil _) (by decide)) (by decide)) (by decide)) (by decide)))
theorem Wf.cvtw a b c : Wf.Statement (.cvtw a b c) := fun _ h =>
  lt_of_eq (List.mem_singleton.1 h) (wordOf_lt (op := 0x7C) (l := [(18, a.toNat), (12, b.toNat), (8, c.toNat)]) (by decide) (fit a.isLt (fit b.isLt (fit c.isLt (fit_nil _) (by decide)) (by decide)) (by decide)))
theorem Wf.xshf a b c : Wf.Statement (.xshf a b c) := fun _ h =>
  lt_of_eq (List.mem_singleton.1 h) (wordOf_lt (op := 0x80) (l := [(18, a.toNat), (12, b.toNat), (5, c.toNat)]) (by decide) (fit a.isLt (fit b.isLt (fit c.isLt (fit_nil _) (by decide)) (by decide)) (by decide)))
theorem Wf.xshfw a b c : Wf.Statement (.xshfw a b c) := fun _ h =>
  lt_of_eq (List.mem_singleton.1 h) (wordOf_lt (op := 0x81) (l := [(18, a.toNat), (12, b.toNat), (9, c.toNat)]) (by decide) (fit a.isLt (fit b.isLt (fit c.isLt (fit_nil _) (by decide)) (by decide)) (by decide)))
theorem Wf.red a b c : Wf.Statement (.red a b c) := fun _ h =>
  lt_of_eq (List.mem_singleton.1 h) (wordOf_lt (op := 0x82) (l := [(18, a.toNat), (12, b.toNat), (7, c.toNat)]) (by decide) (fit a.isLt (fit b.isLt (fit c.isLt (fit_nil _) (by decide)) (by decide)) (by decide)))
theorem Wf.scan a b c d : Wf.Statement (.scan a b c d) := fun _ h =>
  lt_of_eq (List.mem_singleton.1 h) (wordOf_lt (op := 0x83) (l := [(18, a.toNat), (12, b.toNat), (7, c.toNat), (6, d.toNat)]) (by decide) (fit a.isLt (fit b.isLt (fit c.isLt (fit d.isLt (fit_nil _) (by decide)) (by decide)) (by decide)) (by decide)))
theorem Wf.permb a b c d : Wf.Statement (.permb a b c d) := fun _ h =>
  lt_of_eq (List.mem_singleton.1 h) (wordOf_lt (op := 0x84) (l := [(18, a.toNat), (12, b.toNat), (6, c.toNat), (5, d.toNat)]) (by decide) (fit a.isLt (fit b.isLt (fit c.isLt (fit d.isLt (fit_nil _) (by decide)) (by decide)) (by decide)) (by decide)))
theorem Wf.ldG a b c d e : Wf.Statement (.ldG a b c d e) := fun _ h =>
  lt_of_eq (List.mem_singleton.1 h) (wordOf_lt (op := 0x90) (l := [(18, a.toNat), (12, b.toNat), (8, c.toNat), (6, d.toNat), (0, e.toNat)]) (by decide) (fit a.isLt (fit b.isLt (fit c.isLt (fit d.isLt (fit e.isLt (fit_nil _) (by decide)) (by decide)) (by decide)) (by decide)) (by decide)))
theorem Wf.stG a b c d e : Wf.Statement (.stG a b c d e) := fun _ h =>
  lt_of_eq (List.mem_singleton.1 h) (wordOf_lt (op := 0x91) (l := [(18, a.toNat), (12, b.toNat), (8, c.toNat), (6, d.toNat), (0, e.toNat)]) (by decide) (fit a.isLt (fit b.isLt (fit c.isLt (fit d.isLt (fit e.isLt (fit_nil _) (by decide)) (by decide)) (by decide)) (by decide)) (by decide)))
theorem Wf.ldS a b c d : Wf.Statement (.ldS a b c d) := fun _ h =>
  lt_of_eq (List.mem_singleton.1 h) (wordOf_lt (op := 0x92) (l := [(18, a.toNat), (12, b.toNat), (8, c.toNat), (0, d.toNat)]) (by decide) (fit a.isLt (fit b.isLt (fit c.isLt (fit d.isLt (fit_nil _) (by decide)) (by decide)) (by decide)) (by decide)))
theorem Wf.stS a b c d : Wf.Statement (.stS a b c d) := fun _ h =>
  lt_of_eq (List.mem_singleton.1 h) (wordOf_lt (op := 0x93) (l := [(18, a.toNat), (12, b.toNat), (8, c.toNat), (0, d.toNat)]) (by decide) (fit a.isLt (fit b.isLt (fit c.isLt (fit d.isLt (fit_nil _) (by decide)) (by decide)) (by decide)) (by decide)))
theorem Wf.ldD a b c d : Wf.Statement (.ldD a b c d) := fun _ h =>
  lt_of_eq (List.mem_singleton.1 h) (wordOf_lt (op := 0x94) (l := [(18, a.toNat), (12, b.toNat), (8, c.toNat), (0, d.toNat)]) (by decide) (fit a.isLt (fit b.isLt (fit c.isLt (fit d.isLt (fit_nil _) (by decide)) (by decide)) (by decide)) (by decide)))
theorem Wf.stD a b c d : Wf.Statement (.stD a b c d) := fun _ h =>
  lt_of_eq (List.mem_singleton.1 h) (wordOf_lt (op := 0x95) (l := [(18, a.toNat), (12, b.toNat), (8, c.toNat), (0, d.toNat)]) (by decide) (fit a.isLt (fit b.isLt (fit c.isLt (fit d.isLt (fit_nil _) (by decide)) (by decide)) (by decide)) (by decide)))
theorem Wf.ldaCore a b c d e : Wf.Statement (.ldaCore a b c d e) := fun _ h =>
  lt_of_eq (List.mem_singleton.1 h) (wordOf_lt (op := 0x96) (l := [(18, a.toNat), (12, b.toNat), (8, c.toNat), (6, d.toNat), (0, e.toNat)]) (by decide) (fit a.isLt (fit b.isLt (fit c.isLt (fit d.isLt (fit e.isLt (fit_nil _) (by decide)) (by decide)) (by decide)) (by decide)) (by decide)))
theorem Wf.ldaDev a b c d e : Wf.Statement (.ldaDev a b c d e) := fun _ h =>
  lt_of_eq (List.mem_singleton.1 h) (wordOf_lt (op := 0x97) (l := [(18, a.toNat), (12, b.toNat), (8, c.toNat), (6, d.toNat), (0, e.toNat)]) (by decide) (fit a.isLt (fit b.isLt (fit c.isLt (fit d.isLt (fit e.isLt (fit_nil _) (by decide)) (by decide)) (by decide)) (by decide)) (by decide)))
theorem Wf.ldaSys a b c d e : Wf.Statement (.ldaSys a b c d e) := fun _ h =>
  lt_of_eq (List.mem_singleton.1 h) (wordOf_lt (op := 0x98) (l := [(18, a.toNat), (12, b.toNat), (8, c.toNat), (6, d.toNat), (0, e.toNat)]) (by decide) (fit a.isLt (fit b.isLt (fit c.isLt (fit d.isLt (fit e.isLt (fit_nil _) (by decide)) (by decide)) (by decide)) (by decide)) (by decide)))
theorem Wf.stlCore a b c d e : Wf.Statement (.stlCore a b c d e) := fun _ h =>
  lt_of_eq (List.mem_singleton.1 h) (wordOf_lt (op := 0x99) (l := [(18, a.toNat), (12, b.toNat), (8, c.toNat), (6, d.toNat), (0, e.toNat)]) (by decide) (fit a.isLt (fit b.isLt (fit c.isLt (fit d.isLt (fit e.isLt (fit_nil _) (by decide)) (by decide)) (by decide)) (by decide)) (by decide)))
theorem Wf.stlDev a b c d e : Wf.Statement (.stlDev a b c d e) := fun _ h =>
  lt_of_eq (List.mem_singleton.1 h) (wordOf_lt (op := 0x9A) (l := [(18, a.toNat), (12, b.toNat), (8, c.toNat), (6, d.toNat), (0, e.toNat)]) (by decide) (fit a.isLt (fit b.isLt (fit c.isLt (fit d.isLt (fit e.isLt (fit_nil _) (by decide)) (by decide)) (by decide)) (by decide)) (by decide)))
theorem Wf.stlSys a b c d e : Wf.Statement (.stlSys a b c d e) := fun _ h =>
  lt_of_eq (List.mem_singleton.1 h) (wordOf_lt (op := 0x9B) (l := [(18, a.toNat), (12, b.toNat), (8, c.toNat), (6, d.toNat), (0, e.toNat)]) (by decide) (fit a.isLt (fit b.isLt (fit c.isLt (fit d.isLt (fit e.isLt (fit_nil _) (by decide)) (by decide)) (by decide)) (by decide)) (by decide)))
theorem Wf.atomCore a b c d e : Wf.Statement (.atomCore a b c d e) := fun _ h =>
  lt_of_eq (List.mem_singleton.1 h) (wordOf_lt (op := 0x9C) (l := [(18, a.toNat), (12, b.toNat), (6, c.toNat), (4, d.toNat), (0, e.toNat)]) (by decide) (fit a.isLt (fit b.isLt (fit c.isLt (fit d.isLt (fit e.isLt (fit_nil _) (by decide)) (by decide)) (by decide)) (by decide)) (by decide)))
theorem Wf.atomDev a b c d e : Wf.Statement (.atomDev a b c d e) := fun _ h =>
  lt_of_eq (List.mem_singleton.1 h) (wordOf_lt (op := 0x9D) (l := [(18, a.toNat), (12, b.toNat), (6, c.toNat), (4, d.toNat), (0, e.toNat)]) (by decide) (fit a.isLt (fit b.isLt (fit c.isLt (fit d.isLt (fit e.isLt (fit_nil _) (by decide)) (by decide)) (by decide)) (by decide)) (by decide)))
theorem Wf.atomSys a b c d e : Wf.Statement (.atomSys a b c d e) := fun _ h =>
  lt_of_eq (List.mem_singleton.1 h) (wordOf_lt (op := 0x9E) (l := [(18, a.toNat), (12, b.toNat), (6, c.toNat), (4, d.toNat), (0, e.toNat)]) (by decide) (fit a.isLt (fit b.isLt (fit c.isLt (fit d.isLt (fit e.isLt (fit_nil _) (by decide)) (by decide)) (by decide)) (by decide)) (by decide)))
theorem Wf.redaDev a b c d : Wf.Statement (.redaDev a b c d) := fun _ h =>
  lt_of_eq (List.mem_singleton.1 h) (wordOf_lt (op := 0x9F) (l := [(12, a.toNat), (6, b.toNat), (4, c.toNat), (0, d.toNat)]) (by decide) (fit a.isLt (fit b.isLt (fit c.isLt (fit d.isLt (fit_nil _) (by decide)) (by decide)) (by decide)) (by decide)))
theorem Wf.redaSys a b c d : Wf.Statement (.redaSys a b c d) := fun _ h =>
  lt_of_eq (List.mem_singleton.1 h) (wordOf_lt (op := 0xA0) (l := [(12, a.toNat), (6, b.toNat), (4, c.toNat), (0, d.toNat)]) (by decide) (fit a.isLt (fit b.isLt (fit c.isLt (fit d.isLt (fit_nil _) (by decide)) (by decide)) (by decide)) (by decide)))
theorem Wf.fence a : Wf.Statement (.fence a) := fun _ h =>
  lt_of_eq (List.mem_singleton.1 h) (wordOf_lt (op := 0xA1) (l := [(22, a.toNat)]) (by decide) (fit a.isLt (fit_nil _) (by decide)))
theorem Wf.fenceAlias a : Wf.Statement (.fenceAlias a) := fun _ h =>
  lt_of_eq (List.mem_singleton.1 h) (wordOf_lt (op := 0xA2) (l := [(12, a.toNat)]) (by decide) (fit a.isLt (fit_nil _) (by decide)))
theorem Wf.pref a b c : Wf.Statement (.pref a b c) := fun _ h =>
  lt_of_eq (List.mem_singleton.1 h) (wordOf_lt (op := 0xA3) (l := [(12, a.toNat), (6, b.toNat), (0, c.toNat)]) (by decide) (fit a.isLt (fit b.isLt (fit c.isLt (fit_nil _) (by decide)) (by decide)) (by decide)))
theorem Wf.marm a b : Wf.Statement (.marm a b) := fun _ h =>
  lt_of_eq (List.mem_singleton.1 h) (wordOf_lt (op := 0xA4) (l := [(12, a.toNat), (0, b.toNat)]) (by decide) (fit a.isLt (fit b.isLt (fit_nil _) (by decide)) (by decide)))
theorem Wf.maps a b c : Wf.Statement (.maps a b c) := fun _ h =>
  lt_of_eq (List.mem_singleton.1 h) (wordOf_lt (op := 0xA5) (l := [(18, a.toNat), (12, b.toNat), (6, c.toNat)]) (by decide) (fit a.isLt (fit b.isLt (fit c.isLt (fit_nil _) (by decide)) (by decide)) (by decide)))
theorem Wf.flushs a b : Wf.Statement (.flushs a b) := fun _ h =>
  lt_of_eq (List.mem_singleton.1 h) (wordOf_lt (op := 0xA6) (l := [(18, a.toNat), (12, b.toNat)]) (by decide) (fit a.isLt (fit b.isLt (fit_nil _) (by decide)) (by decide)))
theorem Wf.invs a b : Wf.Statement (.invs a b) := fun _ h =>
  lt_of_eq (List.mem_singleton.1 h) (wordOf_lt (op := 0xA7) (l := [(18, a.toNat), (12, b.toNat)]) (by decide) (fit a.isLt (fit b.isLt (fit_nil _) (by decide)) (by decide)))
theorem Wf.tlbp a b : Wf.Statement (.tlbp a b) := fun _ h =>
  lt_of_eq (List.mem_singleton.1 h) (wordOf_lt (op := 0xA8) (l := [(18, a.toNat), (12, b.toNat)]) (by decide) (fit a.isLt (fit b.isLt (fit_nil _) (by decide)) (by decide)))
theorem Wf.bra a b : Wf.Statement (.bra a b) := fun _ h =>
  lt_of_eq (List.mem_singleton.1 h) (wordOf_lt (op := 0xC0) (l := [(6, a.toNat), (0, b.toNat)]) (by decide) (fit a.isLt (fit b.isLt (fit_nil _) (by decide)) (by decide)))
theorem Wf.brx a b : Wf.Statement (.brx a b) := fun _ h =>
  lt_of_eq (List.mem_singleton.1 h) (wordOf_lt (op := 0xC1) (l := [(12, a.toNat), (0, b.toNat)]) (by decide) (fit a.isLt (fit b.isLt (fit_nil _) (by decide)) (by decide)))
theorem Wf.call a b : Wf.Statement (.call a b) := fun _ h =>
  lt_of_eq (List.mem_singleton.1 h) (wordOf_lt (op := 0xC2) (l := [(6, a.toNat), (0, b.toNat)]) (by decide) (fit a.isLt (fit b.isLt (fit_nil _) (by decide)) (by decide)))
theorem Wf.callx a b : Wf.Statement (.callx a b) := fun _ h =>
  lt_of_eq (List.mem_singleton.1 h) (wordOf_lt (op := 0xC3) (l := [(12, a.toNat), (0, b.toNat)]) (by decide) (fit a.isLt (fit b.isLt (fit_nil _) (by decide)) (by decide)))
theorem Wf.ret a : Wf.Statement (.ret a) := fun _ h =>
  lt_of_eq (List.mem_singleton.1 h) (wordOf_lt (op := 0xC4) (l := [(0, a.toNat)]) (by decide) (fit a.isLt (fit_nil _) (by decide)))
theorem Wf.rep a b c : Wf.Statement (.rep a b c) := fun _ h =>
  lt_of_eq (List.mem_singleton.1 h) (wordOf_lt (op := 0xC5) (l := [(16, a.toNat), (12, b.toNat), (8, c.toNat)]) (by decide) (fit a.isLt (fit b.isLt (fit c.isLt (fit_nil _) (by decide)) (by decide)) (by decide)))
theorem Wf.exit a : Wf.Statement (.exit a) := fun _ h =>
  lt_of_eq (List.mem_singleton.1 h) (wordOf_lt (op := 0xC6) (l := [(0, a.toNat)]) (by decide) (fit a.isLt (fit_nil _) (by decide)))
theorem Wf.wait a b c d : Wf.Statement (.wait a b c d) := fun _ h =>
  lt_of_eq (List.mem_singleton.1 h) (wordOf_lt (op := 0xC8) (l := [(16, a.toNat), (13, b.toNat), (10, c.toNat), (7, d.toNat)]) (by decide) (fit a.isLt (fit b.isLt (fit c.isLt (fit d.isLt (fit_nil _) (by decide)) (by decide)) (by decide)) (by decide)))
theorem Wf.mwait a b c : Wf.Statement (.mwait a b c) := fun _ h =>
  lt_of_eq (List.mem_singleton.1 h) (wordOf_lt (op := 0xC9) (l := [(18, a.toNat), (12, b.toNat), (11, c.toNat)]) (by decide) (fit a.isLt (fit b.isLt (fit c.isLt (fit_nil _) (by decide)) (by decide)) (by decide)))
theorem Wf.bar a b c : Wf.Statement (.bar a b c) := fun _ h =>
  lt_of_eq (List.mem_singleton.1 h) (wordOf_lt (op := 0xCA) (l := [(22, a.toNat), (18, b.toNat), (13, c.toNat)]) (by decide) (fit a.isLt (fit b.isLt (fit c.isLt (fit_nil _) (by decide)) (by decide)) (by decide)))
theorem Wf.barcfg a b : Wf.Statement (.barcfg a b) := fun _ h =>
  lt_of_eq (List.mem_singleton.1 h) (wordOf_lt (op := 0xCB) (l := [(18, a.toNat), (12, b.toNat)]) (by decide) (fit a.isLt (fit b.isLt (fit_nil _) (by decide)) (by decide)))
theorem Wf.cvdecl a b c : Wf.Statement (.cvdecl a b c) := fun _ h =>
  lt_of_eq (List.mem_singleton.1 h) (wordOf_lt (op := 0xCC) (l := [(21, a.toNat), (20, b.toNat), (12, c.toNat)]) (by decide) (fit a.isLt (fit b.isLt (fit c.isLt (fit_nil _) (by decide)) (by decide)) (by decide)))
theorem Wf.yield : Wf.Statement (.yield) := fun _ h =>
  lt_of_eq (List.mem_singleton.1 h) (wordOf_lt (op := 0xCD) (l := []) (by decide) (fit_nil _))
theorem Wf.ckm a : Wf.Statement (.ckm a) := fun _ h =>
  lt_of_eq (List.mem_singleton.1 h) (wordOf_lt (op := 0xCE) (l := [(0, a.toNat)]) (by decide) (fit a.isLt (fit_nil _) (by decide)))
theorem Wf.trap a : Wf.Statement (.trap a) := fun _ h =>
  lt_of_eq (List.mem_singleton.1 h) (wordOf_lt (op := 0xF8) (l := [(0, a.toNat)]) (by decide) (fit a.isLt (fit_nil _) (by decide)))
theorem Wf.bkpt a : Wf.Statement (.bkpt a) := fun _ h =>
  lt_of_eq (List.mem_singleton.1 h) (wordOf_lt (op := 0xF9) (l := [(0, a.toNat)]) (by decide) (fit a.isLt (fit_nil _) (by decide)))
theorem Wf.rft : Wf.Statement (.rft) := fun _ h =>
  lt_of_eq (List.mem_singleton.1 h) (wordOf_lt (op := 0xFA) (l := []) (by decide) (fit_nil _))
theorem Wf.haltg a : Wf.Statement (.haltg a) := fun _ h =>
  lt_of_eq (List.mem_singleton.1 h) (wordOf_lt (op := 0xFB) (l := [(0, a.toNat)]) (by decide) (fit a.isLt (fit_nil _) (by decide)))
theorem Wf.acmark a : Wf.Statement (.acmark a) := fun _ h =>
  lt_of_eq (List.mem_singleton.1 h) (wordOf_lt (op := 0xFC) (l := [(0, a.toNat)]) (by decide) (fit a.isLt (fit_nil _) (by decide)))
theorem Wf.trk a b : Wf.Statement (.trk a b) := fun _ h =>
  lt_of_eq (List.mem_singleton.1 h) (wordOf_lt (op := 0xFD) (l := [(12, a.toNat), (0, b.toNat)]) (by decide) (fit a.isLt (fit b.isLt (fit_nil _) (by decide)) (by decide)))
theorem Wf.copy a b : Wf.Statement (.copy a b) := fun _ h =>
  lt_of_eq (List.mem_singleton.1 h) (wordOf_lt (op := 0xD0) (l := [(18, a.toNat), (9, b.toNat)]) (by decide) (fit a.isLt (fit b.isLt (fit_nil _) (by decide)) (by decide)))
theorem Wf.copyR a b : Wf.Statement (.copyR a b) := fun _ h =>
  lt_of_eq (List.mem_singleton.1 h) (wordOf_lt (op := 0xD1) (l := [(18, a.toNat), (9, b.toNat)]) (by decide) (fit a.isLt (fit b.isLt (fit_nil _) (by decide)) (by decide)))
theorem Wf.chain a b : Wf.Statement (.chain a b) := fun _ h =>
  lt_of_eq (List.mem_singleton.1 h) (wordOf_lt (op := 0xD2) (l := [(18, a.toNat), (9, b.toNat)]) (by decide) (fit a.isLt (fit b.isLt (fit_nil _) (by decide)) (by decide)))
theorem Wf.gather a b c : Wf.Statement (.gather a b c) := fun _ h =>
  lt_of_eq (List.mem_singleton.1 h) (wordOf_lt (op := 0xD3) (l := [(18, a.toNat), (12, b.toNat), (9, c.toNat)]) (by decide) (fit a.isLt (fit b.isLt (fit c.isLt (fit_nil _) (by decide)) (by decide)) (by decide)))
theorem Wf.scatter a b c : Wf.Statement (.scatter a b c) := fun _ h =>
  lt_of_eq (List.mem_singleton.1 h) (wordOf_lt (op := 0xD4) (l := [(18, a.toNat), (12, b.toNat), (9, c.toNat)]) (by decide) (fit a.isLt (fit b.isLt (fit c.isLt (fit_nil _) (by decide)) (by decide)) (by decide)))
theorem Wf.commit a : Wf.Statement (.commit a) := fun _ h =>
  lt_of_eq (List.mem_singleton.1 h) (wordOf_lt (op := 0xD5) (l := [(9, a.toNat)]) (by decide) (fit a.isLt (fit_nil _) (by decide)))
theorem Wf.enq a b c : Wf.Statement (.enq a b c) := fun _ h =>
  lt_of_eq (List.mem_singleton.1 h) (wordOf_lt (op := 0xD6) (l := [(18, a.toNat), (12, b.toNat), (9, c.toNat)]) (by decide) (fit a.isLt (fit b.isLt (fit c.isLt (fit_nil _) (by decide)) (by decide)) (by decide)))
theorem Wf.evt a b c : Wf.Statement (.evt a b c) := fun _ h =>
  lt_of_eq (List.mem_singleton.1 h) (wordOf_lt (op := 0xD7) (l := [(18, a.toNat), (9, b.toNat), (0, c.toNat)]) (by decide) (fit a.isLt (fit b.isLt (fit c.isLt (fit_nil _) (by decide)) (by decide)) (by decide)))
theorem Wf.atomR a b : Wf.Statement (.atomR a b) := fun _ h =>
  lt_of_eq (List.mem_singleton.1 h) (wordOf_lt (op := 0xD8) (l := [(18, a.toNat), (9, b.toNat)]) (by decide) (fit a.isLt (fit b.isLt (fit_nil _) (by decide)) (by decide)))
theorem Wf.tcfg a b : Wf.Statement (.tcfg a b) := fun _ h =>
  lt_of_eq (List.mem_singleton.1 h) (wordOf_lt (op := 0xE0) (l := [(20, a.toNat), (12, b.toNat)]) (by decide) (fit a.isLt (fit b.isLt (fit_nil _) (by decide)) (by decide)))
theorem Wf.tld a b c d : Wf.Statement (.tld a b c d) := fun _ h =>
  lt_of_eq (List.mem_singleton.1 h) (wordOf_lt (op := 0xE1) (l := [(20, a.toNat), (14, b.toNat), (8, c.toNat), (5, d.toNat)]) (by decide) (fit a.isLt (fit b.isLt (fit c.isLt (fit d.isLt (fit_nil _) (by decide)) (by decide)) (by decide)) (by decide)))
theorem Wf.tst a b c d : Wf.Statement (.tst a b c d) := fun _ h =>
  lt_of_eq (List.mem_singleton.1 h) (wordOf_lt (op := 0xE2) (l := [(20, a.toNat), (14, b.toNat), (8, c.toNat), (5, d.toNat)]) (by decide) (fit a.isLt (fit b.isLt (fit c.isLt (fit d.isLt (fit_nil _) (by decide)) (by decide)) (by decide)) (by decide)))
theorem Wf.tzero a b : Wf.Statement (.tzero a b) := fun _ h =>
  lt_of_eq (List.mem_singleton.1 h) (wordOf_lt (op := 0xE3) (l := [(20, a.toNat), (5, b.toNat)]) (by decide) (fit a.isLt (fit b.isLt (fit_nil _) (by decide)) (by decide)))
theorem Wf.qnt a b c d e : Wf.Statement (.qnt a b c d e) := fun _ h =>
  lt_of_eq (List.mem_singleton.1 h) (wordOf_lt (op := 0xE4) (l := [(20, a.toNat), (16, b.toNat), (13, c.toNat), (7, d.toNat), (4, e.toNat)]) (by decide) (fit a.isLt (fit b.isLt (fit c.isLt (fit d.isLt (fit e.isLt (fit_nil _) (by decide)) (by decide)) (by decide)) (by decide)) (by decide)))
theorem Wf.tcvt a b c : Wf.Statement (.tcvt a b c) := fun _ h =>
  lt_of_eq (List.mem_singleton.1 h) (wordOf_lt (op := 0xE5) (l := [(20, a.toNat), (16, b.toNat), (13, c.toNat)]) (by decide) (fit a.isLt (fit b.isLt (fit c.isLt (fit_nil _) (by decide)) (by decide)) (by decide)))
theorem Wf.mmaBf16 a b c d e f : Wf.Statement (.mmaBf16 a b c d e f) := fun _ h =>
  lt_of_eq (List.mem_singleton.1 h) (wordOf_lt (op := 0xE6) (l := [(19, a.toNat), (15, b.toNat), (11, c.toNat), (8, d.toNat), (6, e.toNat), (0, f.toNat)]) (by decide) (fit a.isLt (fit b.isLt (fit c.isLt (fit d.isLt (fit e.isLt (fit f.isLt (fit_nil _) (by decide)) (by decide)) (by decide)) (by decide)) (by decide)) (by decide)))
theorem Wf.mmaF16 a b c d e f : Wf.Statement (.mmaF16 a b c d e f) := fun _ h =>
  lt_of_eq (List.mem_singleton.1 h) (wordOf_lt (op := 0xE7) (l := [(19, a.toNat), (15, b.toNat), (11, c.toNat), (8, d.toNat), (6, e.toNat), (0, f.toNat)]) (by decide) (fit a.isLt (fit b.isLt (fit c.isLt (fit d.isLt (fit e.isLt (fit f.isLt (fit_nil _) (by decide)) (by decide)) (by decide)) (by decide)) (by decide)) (by decide)))
theorem Wf.mmaE4m3 a b c d e f : Wf.Statement (.mmaE4m3 a b c d e f) := fun _ h =>
  lt_of_eq (List.mem_singleton.1 h) (wordOf_lt (op := 0xE8) (l := [(19, a.toNat), (15, b.toNat), (11, c.toNat), (8, d.toNat), (6, e.toNat), (0, f.toNat)]) (by decide) (fit a.isLt (fit b.isLt (fit c.isLt (fit d.isLt (fit e.isLt (fit f.isLt (fit_nil _) (by decide)) (by decide)) (by decide)) (by decide)) (by decide)) (by decide)))
theorem Wf.mmaE5m2 a b c d e f : Wf.Statement (.mmaE5m2 a b c d e f) := fun _ h =>
  lt_of_eq (List.mem_singleton.1 h) (wordOf_lt (op := 0xE9) (l := [(19, a.toNat), (15, b.toNat), (11, c.toNat), (8, d.toNat), (6, e.toNat), (0, f.toNat)]) (by decide) (fit a.isLt (fit b.isLt (fit c.isLt (fit d.isLt (fit e.isLt (fit f.isLt (fit_nil _) (by decide)) (by decide)) (by decide)) (by decide)) (by decide)) (by decide)))
theorem Wf.mmaE2m3 a b c d e f : Wf.Statement (.mmaE2m3 a b c d e f) := fun _ h =>
  lt_of_eq (List.mem_singleton.1 h) (wordOf_lt (op := 0xEA) (l := [(19, a.toNat), (15, b.toNat), (11, c.toNat), (8, d.toNat), (6, e.toNat), (0, f.toNat)]) (by decide) (fit a.isLt (fit b.isLt (fit c.isLt (fit d.isLt (fit e.isLt (fit f.isLt (fit_nil _) (by decide)) (by decide)) (by decide)) (by decide)) (by decide)) (by decide)))
theorem Wf.mmaE3m2 a b c d e f : Wf.Statement (.mmaE3m2 a b c d e f) := fun _ h =>
  lt_of_eq (List.mem_singleton.1 h) (wordOf_lt (op := 0xEB) (l := [(19, a.toNat), (15, b.toNat), (11, c.toNat), (8, d.toNat), (6, e.toNat), (0, f.toNat)]) (by decide) (fit a.isLt (fit b.isLt (fit c.isLt (fit d.isLt (fit e.isLt (fit f.isLt (fit_nil _) (by decide)) (by decide)) (by decide)) (by decide)) (by decide)) (by decide)))
theorem Wf.mmaE2m1 a b c d e f : Wf.Statement (.mmaE2m1 a b c d e f) := fun _ h =>
  lt_of_eq (List.mem_singleton.1 h) (wordOf_lt (op := 0xEC) (l := [(19, a.toNat), (15, b.toNat), (11, c.toNat), (8, d.toNat), (6, e.toNat), (0, f.toNat)]) (by decide) (fit a.isLt (fit b.isLt (fit c.isLt (fit d.isLt (fit e.isLt (fit f.isLt (fit_nil _) (by decide)) (by decide)) (by decide)) (by decide)) (by decide)) (by decide)))
theorem Wf.mmaDl8 a b c d e f : Wf.Statement (.mmaDl8 a b c d e f) := fun _ h =>
  lt_of_eq (List.mem_singleton.1 h) (wordOf_lt (op := 0xED) (l := [(19, a.toNat), (15, b.toNat), (11, c.toNat), (8, d.toNat), (6, e.toNat), (0, f.toNat)]) (by decide) (fit a.isLt (fit b.isLt (fit c.isLt (fit d.isLt (fit e.isLt (fit f.isLt (fit_nil _) (by decide)) (by decide)) (by decide)) (by decide)) (by decide)) (by decide)))
theorem Wf.mmaS8 a b c d e f : Wf.Statement (.mmaS8 a b c d e f) := fun _ h =>
  lt_of_eq (List.mem_singleton.1 h) (wordOf_lt (op := 0xEE) (l := [(19, a.toNat), (15, b.toNat), (11, c.toNat), (8, d.toNat), (6, e.toNat), (0, f.toNat)]) (by decide) (fit a.isLt (fit b.isLt (fit c.isLt (fit d.isLt (fit e.isLt (fit f.isLt (fit_nil _) (by decide)) (by decide)) (by decide)) (by decide)) (by decide)) (by decide)))
theorem Wf.mmaS4 a b c d e f : Wf.Statement (.mmaS4 a b c d e f) := fun _ h =>
  lt_of_eq (List.mem_singleton.1 h) (wordOf_lt (op := 0xEF) (l := [(19, a.toNat), (15, b.toNat), (11, c.toNat), (8, d.toNat), (6, e.toNat), (0, f.toNat)]) (by decide) (fit a.isLt (fit b.isLt (fit c.isLt (fit d.isLt (fit e.isLt (fit f.isLt (fit_nil _) (by decide)) (by decide)) (by decide)) (by decide)) (by decide)) (by decide)))
theorem Wf.segn a b c : Wf.Statement (.segn a b c) := fun _ h =>
  lt_of_eq (List.mem_singleton.1 h) (wordOf_lt (op := 0xF0) (l := [(18, a.toNat), (12, b.toNat), (6, c.toNat)]) (by decide) (fit a.isLt (fit b.isLt (fit c.isLt (fit_nil _) (by decide)) (by decide)) (by decide)))
theorem Wf.scacc a b c d : Wf.Statement (.scacc a b c d) := fun _ h =>
  lt_of_eq (List.mem_singleton.1 h) (wordOf_lt (op := 0xF1) (l := [(19, a.toNat), (14, b.toNat), (8, c.toNat), (5, d.toNat)]) (by decide) (fit a.isLt (fit b.isLt (fit c.isLt (fit d.isLt (fit_nil _) (by decide)) (by decide)) (by decide)) (by decide)))
theorem Wf.aclr a b : Wf.Statement (.aclr a b) := fun _ h =>
  lt_of_eq (List.mem_singleton.1 h) (wordOf_lt (op := 0xF2) (l := [(19, a.toNat), (5, b.toNat)]) (by decide) (fit a.isLt (fit b.isLt (fit_nil _) (by decide)) (by decide)))
theorem Wf.amov a b c d : Wf.Statement (.amov a b c d) := fun _ h =>
  lt_of_eq (List.mem_singleton.1 h) (wordOf_lt (op := 0xF3) (l := [(19, a.toNat), (15, b.toNat), (14, c.toNat), (5, d.toNat)]) (by decide) (fit a.isLt (fit b.isLt (fit c.isLt (fit d.isLt (fit_nil _) (by decide)) (by decide)) (by decide)) (by decide)))
theorem Wf.ast a b c d : Wf.Statement (.ast a b c d) := fun _ h =>
  lt_of_eq (List.mem_singleton.1 h) (wordOf_lt (op := 0xF4) (l := [(19, a.toNat), (13, b.toNat), (7, c.toNat), (4, d.toNat)]) (by decide) (fit a.isLt (fit b.isLt (fit c.isLt (fit d.isLt (fit_nil _) (by decide)) (by decide)) (by decide)) (by decide)))
theorem Wf.ald a b c d : Wf.Statement (.ald a b c d) := fun _ h =>
  lt_of_eq (List.mem_singleton.1 h) (wordOf_lt (op := 0xF5) (l := [(19, a.toNat), (13, b.toNat), (7, c.toNat), (4, d.toNat)]) (by decide) (fit a.isLt (fit b.isLt (fit c.isLt (fit d.isLt (fit_nil _) (by decide)) (by decide)) (by decide)) (by decide)))
theorem Wf.tchk a b c : Wf.Statement (.tchk a b c) := fun _ h =>
  lt_of_eq (List.mem_singleton.1 h) (wordOf_lt (op := 0xF6) (l := [(18, a.toNat), (14, b.toNat), (11, c.toNat)]) (by decide) (fit a.isLt (fit b.isLt (fit c.isLt (fit_nil _) (by decide)) (by decide)) (by decide)))
theorem Wf.bind a b : Wf.Statement (.bind a b) := fun _ h => nomatch h
theorem Wf.preempt a b : Wf.Statement (.preempt a b) := fun _ h => nomatch h
theorem Wf.resume a b : Wf.Statement (.resume a b) := fun _ h => nomatch h
theorem Wf.destroy a b : Wf.Statement (.destroy a b) := fun _ h => nomatch h
theorem Wf.queueAttach a : Wf.Statement (.queueAttach a) := fun _ h => nomatch h
theorem Wf.queueDetach a : Wf.Statement (.queueDetach a) := fun _ h => nomatch h
theorem Wf.resolve a b : Wf.Statement (.resolve a b) := fun _ h => nomatch h
theorem Wf.retire a : Wf.Statement (.retire a) := fun _ h => nomatch h
theorem Wf.horizon a b : Wf.Statement (.horizon a b) := fun _ h => nomatch h
theorem Wf.dbgAttach a b c : Wf.Statement (.dbgAttach a b c) := fun _ h => nomatch h
theorem Wf.dbgDetach a b : Wf.Statement (.dbgDetach a b) := fun _ h => nomatch h
theorem Wf.dbgHalt a b c : Wf.Statement (.dbgHalt a b c) := fun _ h => nomatch h
theorem Wf.dbgResume a b c : Wf.Statement (.dbgResume a b c) := fun _ h => nomatch h
theorem Wf.dbgStep a b : Wf.Statement (.dbgStep a b) := fun _ h => nomatch h
theorem Wf.capture a : Wf.Statement (.capture a) := fun _ h => nomatch h
theorem Wf.mirageStop a : Wf.Statement (.mirageStop a) := fun _ h => nomatch h
theorem Wf.replay a : Wf.Statement (.replay a) := fun _ h => nomatch h
theorem Wf.bootGo a : Wf.Statement (.bootGo a) := fun _ h => nomatch h
theorem Wf.attestGo a : Wf.Statement (.attestGo a) := fun _ h => nomatch h
theorem Wf.frzrelWrite a : Wf.Statement (.frzrelWrite a) := fun _ h => nomatch h
theorem Wf.vminvWrite a : Wf.Statement (.vminvWrite a) := fun _ h => nomatch h
theorem Wf.lctlEnSet a b : Wf.Statement (.lctlEnSet a b) := fun _ h => nomatch h
theorem Wf.lctlEnClear a b : Wf.Statement (.lctlEnClear a b) := fun _ h => nomatch h
theorem Wf.fwwWrite a b c d : Wf.Statement (.fwwWrite a b c d) := fun _ h => nomatch h
theorem Wf.expsWrite a b c : Wf.Statement (.expsWrite a b c) := fun _ h => nomatch h
theorem Wf.prqctlWrite a b : Wf.Statement (.prqctlWrite a b) := fun _ h => nomatch h
theorem Wf.evctlWrite a b : Wf.Statement (.evctlWrite a b) := fun _ h => nomatch h
theorem Wf.routeWrite a b c : Wf.Statement (.routeWrite a b c) := fun _ h => nomatch h
theorem Wf.registerWrite a b c d e : Wf.Statement (.registerWrite a b c d e) := fun _ h => nomatch h
theorem Wf.packageColdReset : Wf.Statement (.packageColdReset) := fun _ h => nomatch h
theorem Wf.dieWarmReset a : Wf.Statement (.dieWarmReset a) := fun _ h => nomatch h
theorem Wf.dieLoss a : Wf.Statement (.dieLoss a) := fun _ h => nomatch h
theorem Wf.oasisLoss : Wf.Statement (.oasisLoss) := fun _ h => nomatch h
theorem Wf.phaseFail a b c : Wf.Statement (.phaseFail a b c) := fun _ h => nomatch h
theorem Wf.lossOfLight a b : Wf.Statement (.lossOfLight a b) := fun _ h => nomatch h
theorem Wf.calicheThermal a b : Wf.Statement (.calicheThermal a b) := fun _ h => nomatch h
theorem Wf.boostWithdraw a : Wf.Statement (.boostWithdraw a) := fun _ h => nomatch h
theorem Wf.hostWrite a b c : Wf.Statement (.hostWrite a b c) := fun _ h => nomatch h
theorem Wf.hostRead a b c : Wf.Statement (.hostRead a b c) := fun _ h => nomatch h
theorem Wf.hostAtomicop a b c d e f : Wf.Statement (.hostAtomicop a b c d e f) := fun _ h => nomatch h
theorem Wf.peerRequest a b c : Wf.Statement (.peerRequest a b c) := fun _ h => nomatch h
theorem Wf.flitReceive a b : Wf.Statement (.flitReceive a b) := fun _ h => nomatch h
theorem Wf.trainingLocked a : Wf.Statement (.trainingLocked a) := fun _ h => nomatch h
theorem Wf.trainingTimeout a b c : Wf.Statement (.trainingTimeout a b c) := fun _ h => nomatch h
theorem Wf.restripeAgreed a : Wf.Statement (.restripeAgreed a) := fun _ h => nomatch h
theorem Wf.replayAckTimeout a : Wf.Statement (.replayAckTimeout a) := fun _ h => nomatch h
theorem Wf.lightHoldExpiry a b : Wf.Statement (.lightHoldExpiry a b) := fun _ h => nomatch h
theorem Wf.egressStallExpiry a : Wf.Statement (.egressStallExpiry a) := fun _ h => nomatch h
theorem Wf.wadiDrained a : Wf.Statement (.wadiDrained a) := fun _ h => nomatch h
theorem Wf.spillTimeout a : Wf.Statement (.spillTimeout a) := fun _ h => nomatch h
theorem Wf.linkRequestTimeout a : Wf.Statement (.linkRequestTimeout a) := fun _ h => nomatch h
theorem Wf.slotCycle a : Wf.Statement (.slotCycle a) := fun _ h => nomatch h
theorem Wf.noticeExpiry a b : Wf.Statement (.noticeExpiry a b) := fun _ h => nomatch h
theorem Wf.regroup a : Wf.Statement (.regroup a) := fun _ h => nomatch h
theorem Wf.yieldExpiry a b : Wf.Statement (.yieldExpiry a b) := fun _ h => nomatch h
theorem Wf.deferredFaultDelivery a b : Wf.Statement (.deferredFaultDelivery a b) := fun _ h => nomatch h
theorem Wf.convergeMismatch a b : Wf.Statement (.convergeMismatch a b) := fun _ h => nomatch h
theorem Wf.barrierDeadlock a : Wf.Statement (.barrierDeadlock a) := fun _ h => nomatch h
theorem Wf.accessPerformed a b : Wf.Statement (.accessPerformed a b) := fun _ h => nomatch h
theorem Wf.laneReplay a b : Wf.Statement (.laneReplay a b) := fun _ h => nomatch h
theorem Wf.pageRequestWrite a : Wf.Statement (.pageRequestWrite a) := fun _ h => nomatch h
theorem Wf.leaseExpiry : Wf.Statement (.leaseExpiry) := fun _ h => nomatch h
theorem Wf.mwaitTimeout a b : Wf.Statement (.mwaitTimeout a b) := fun _ h => nomatch h
theorem Wf.memScrubDamage a b : Wf.Statement (.memScrubDamage a b) := fun _ h => nomatch h
theorem Wf.telemetryAdd : Wf.Statement (.telemetryAdd) := fun _ h => nomatch h
theorem Wf.commandComplete a : Wf.Statement (.commandComplete a) := fun _ h => nomatch h
theorem Wf.tileOpPerformed a b : Wf.Statement (.tileOpPerformed a b) := fun _ h => nomatch h
theorem Wf.packetConsume a : Wf.Statement (.packetConsume a) := fun _ h => nomatch h
theorem Wf.packetReady a : Wf.Statement (.packetReady a) := fun _ h => nomatch h
theorem Wf.kernelLaunch a : Wf.Statement (.kernelLaunch a) := fun _ h => nomatch h
theorem Wf.copyPacketRun a : Wf.Statement (.copyPacketRun a) := fun _ h => nomatch h
theorem Wf.packetFinish a : Wf.Statement (.packetFinish a) := fun _ h => nomatch h
theorem Wf.evtReleaseApply a : Wf.Statement (.evtReleaseApply a) := fun _ h => nomatch h
theorem Wf.groupPlace a b c : Wf.Statement (.groupPlace a b c) := fun _ h => nomatch h
theorem Wf.groupEnd a : Wf.Statement (.groupEnd a) := fun _ h => nomatch h
theorem Wf.saveFrameWritten a : Wf.Statement (.saveFrameWritten a) := fun _ h => nomatch h
theorem Wf.restoreComplete a : Wf.Statement (.restoreComplete a) := fun _ h => nomatch h
theorem Wf.contextHalted a : Wf.Statement (.contextHalted a) := fun _ h => nomatch h
theorem Wf.stagingComplete a : Wf.Statement (.stagingComplete a) := fun _ h => nomatch h
theorem Wf.destroyComplete a : Wf.Statement (.destroyComplete a) := fun _ h => nomatch h
theorem Wf.fqRoomPoll a : Wf.Statement (.fqRoomPoll a) := fun _ h => nomatch h
theorem Wf.eventRingWrite a : Wf.Statement (.eventRingWrite a) := fun _ h => nomatch h
theorem Wf.watchdogTick a : Wf.Statement (.watchdogTick a) := fun _ h => nomatch h
theorem Wf.watchdogExpiry a : Wf.Statement (.watchdogExpiry a) := fun _ h => nomatch h
theorem Wf.tokenCharge : Wf.Statement (.tokenCharge) := fun _ h => nomatch h
theorem Wf.tokenRefill : Wf.Statement (.tokenRefill) := fun _ h => nomatch h
theorem Wf.accountSpill : Wf.Statement (.accountSpill) := fun _ h => nomatch h
theorem Wf.currentRecord a : Wf.Statement (.currentRecord a) := fun _ h => nomatch h
theorem Wf.vminSample a b : Wf.Statement (.vminSample a b) := fun _ h => nomatch h
theorem Wf.throttleExpiry a : Wf.Statement (.throttleExpiry a) := fun _ h => nomatch h
theorem Wf.gatingIdleExpiry a : Wf.Statement (.gatingIdleExpiry a) := fun _ h => nomatch h
theorem Wf.gatingConfirm a : Wf.Statement (.gatingConfirm a) := fun _ h => nomatch h
theorem Wf.wakeWaitExpiry a : Wf.Statement (.wakeWaitExpiry a) := fun _ h => nomatch h
theorem Wf.softStartStep a : Wf.Statement (.softStartStep a) := fun _ h => nomatch h
theorem Wf.imageVerified : Wf.Statement (.imageVerified) := fun _ h => nomatch h
theorem Wf.attestReport a : Wf.Statement (.attestReport a) := fun _ h => nomatch h
theorem Wf.lightRestored a b : Wf.Statement (.lightRestored a b) := fun _ h => nomatch h
theorem Wf.neighbourDrawFall a : Wf.Statement (.neighbourDrawFall a) := fun _ h => nomatch h
theorem Wf.boostBankRecharged a : Wf.Statement (.boostBankRecharged a) := fun _ h => nomatch h

end Sys2Proof.Laws
end

