-- ==== Sys2Proof/Laws/Encoding.lean ====
section
/-! SUPPORT. Reading a field of a number built from fields. -/

namespace Sys2Proof.Laws

set_option Elab.async false

/-- What lies above bit `p` of `v * 2 ^ p + r`. -/
theorem div_top {v p r : Nat} (hr : r < 2 ^ p) : (v * 2 ^ p + r) / 2 ^ p = v := by
  rw [Nat.mul_comm, Nat.mul_add_div (Nat.two_pow_pos p), Nat.div_eq_of_lt hr, Nat.add_zero]

/-- A field that ends at or below bit `p` does not see what lies above it. -/
theorem field_below {v p r q n : Nat} (h : q + n ≤ p) : (v * 2 ^ p + r) / 2 ^ q % 2 ^ n = r / 2 ^ q % 2 ^ n := by
  obtain ⟨k, rfl⟩ := Nat.exists_eq_add_of_le h
  have : v * 2 ^ (q + n + k) = 2 ^ q * (2 ^ n * (v * 2 ^ k)) := by
    rw [Nat.pow_add, Nat.pow_add]
    ac_rfl
  rw [this, Nat.mul_add_div (Nat.two_pow_pos q), Nat.mul_add_mod]

/-- The primary opcode of a word. -/
theorem wordOf_op {op : Nat} {l : List (Nat × Nat)} (h : (l.map fun f => f.2 * 2 ^ f.1).sum < 2 ^ 24) :
    wordOf op l / 2 ^ 24 = op := div_top h

/-- A field of a word is read back. -/
theorem bitsAt_field {w lo len : Nat} {v : BitVec len} (h : w / 2 ^ lo % 2 ^ len = v.toNat) : bitsAt w lo len = v := by
  apply BitVec.eq_of_toNat_eq
  rw [bitsAt, BitVec.toNat_ofNat, h]

end Sys2Proof.Laws
end

