-- ==== Sys2Proof/Laws/Table.lean ====
section
/-! SUPPORT. Laws of tables: reading after writing, and the sorted and canonical forms that every operation keeps. -/

namespace Sys2Proof.Machine

set_option Elab.async false

variable {α : Type}

theorem Tbl.find?_put (t : Tbl α) (k k' : Nat) (v : α) :
    Tbl.find? (Tbl.put t k v) k' = if k = k' then some v else Tbl.find? t k' := by
  induction t with
  | nil => simp only [Tbl.put, Tbl.find?]
  | cons e t ih =>
    obtain ⟨j, w⟩ := e
    simp only [Tbl.put]
    split
    · simp only [Tbl.find?]
    · split
      · simp only [Tbl.find?]
        grind
      · simp only [Tbl.find?, ih]
        grind

theorem Tbl.find?_modify (t : Tbl α) (k k' : Nat) (f : α → α) :
    Tbl.find? (Tbl.modify t k f) k' = if k = k' then (Tbl.find? t k').map f else Tbl.find? t k' := by
  induction t with
  | nil => simp [Tbl.modify, Tbl.find?]
  | cons e t ih =>
    obtain ⟨j, w⟩ := e
    simp only [Tbl.modify]
    split
    · simp only [Tbl.find?]
      grind
    · simp only [Tbl.find?, ih]
      grind

/-- Every key of a table is at least `k`. -/
def Tbl.from_ (k : Nat) (t : Tbl α) : Prop := ∀ e ∈ t, k ≤ e.1

theorem Tbl.sorted_cons (k : Nat) (v : α) (t : Tbl α) :
    Tbl.sorted ((k, v) :: t) = true ↔ Tbl.from_ (k + 1) t ∧ Tbl.sorted t = true := by
  induction t generalizing k v with
  | nil => simp [Tbl.sorted, Tbl.from_]
  | cons e t ih =>
    obtain ⟨j, w⟩ := e
    simp only [Tbl.sorted, Bool.and_eq_true, decide_eq_true_eq, ih, Tbl.from_, List.mem_cons, forall_eq_or_imp]
    constructor
    · rintro ⟨h1, h2, h3⟩
      exact ⟨⟨h1, fun e he => by have := h2 e he; omega⟩, h2, h3⟩
    · rintro ⟨⟨h1, -⟩, h2, h3⟩
      exact ⟨h1, h2, h3⟩

theorem Tbl.find?_below {t : Tbl α} {k k' : Nat} (h : Tbl.from_ k t) (hk : k' < k) : Tbl.find? t k' = none := by
  induction t with
  | nil => rfl
  | cons e t ih =>
    obtain ⟨j, w⟩ := e
    have hj : k ≤ j := h (j, w) (by simp)
    simp only [Tbl.find?]
    rw [if_neg (by omega)]
    exact ih fun e he => h e (by simp [he])

theorem Tbl.mem_put {t : Tbl α} {k : Nat} {v : α} {e : Nat × α} (h : e ∈ Tbl.put t k v) : e = (k, v) ∨ e ∈ t := by
  induction t with
  | nil => simpa [Tbl.put] using h
  | cons d t ih =>
    obtain ⟨j, w⟩ := d
    simp only [Tbl.put] at h
    split at h
    · simpa using h
    · split at h
      · grind
      · grind

theorem Tbl.mem_erase {t : Tbl α} {k : Nat} {e : Nat × α} (h : e ∈ Tbl.erase t k) : e ∈ t := by
  induction t with
  | nil => exact h
  | cons d t ih =>
    obtain ⟨j, w⟩ := d
    simp only [Tbl.erase] at h
    split at h
    · exact List.mem_cons_of_mem _ (ih h)
    · rcases List.mem_cons.1 h with h | h
      · exact h ▸ List.mem_cons_self
      · exact List.mem_cons_of_mem _ (ih h)

theorem Tbl.sorted_put {t : Tbl α} (h : Tbl.sorted t = true) (k : Nat) (v : α) : Tbl.sorted (Tbl.put t k v) = true := by
  induction t with
  | nil => rfl
  | cons d t ih =>
    obtain ⟨j, w⟩ := d
    have hd := (Tbl.sorted_cons j w t).1 h
    simp only [Tbl.put]
    split
    · rename_i hk
      rw [Tbl.sorted_cons]
      refine ⟨?_, h⟩
      intro e he
      rcases List.mem_cons.1 he with rfl | he
      · exact hk
      · have := hd.1 e he; omega
    · split
      · rename_i hk
        subst hk
        exact (Tbl.sorted_cons _ _ _).2 hd
      · rw [Tbl.sorted_cons]
        refine ⟨?_, ih hd.2⟩
        intro e he
        rcases Tbl.mem_put he with rfl | he
        · show j + 1 ≤ k
          omega
        · exact hd.1 e he

theorem Tbl.sorted_erase {t : Tbl α} (h : Tbl.sorted t = true) (k : Nat) : Tbl.sorted (Tbl.erase t k) = true := by
  induction t with
  | nil => rfl
  | cons d t ih =>
    obtain ⟨j, w⟩ := d
    have hd := (Tbl.sorted_cons j w t).1 h
    simp only [Tbl.erase]
    split
    · exact ih hd.2
    · rw [Tbl.sorted_cons]
      exact ⟨fun e he => hd.1 e (Tbl.mem_erase he), ih hd.2⟩

theorem Tbl.sorted_filter {t : Tbl α} (h : Tbl.sorted t = true) (p : Nat × α → Bool) : Tbl.sorted (t.filter p) = true := by
  induction t with
  | nil => rfl
  | cons d t ih =>
    obtain ⟨j, w⟩ := d
    have hd := (Tbl.sorted_cons j w t).1 h
    rw [List.filter_cons]
    split
    · rw [Tbl.sorted_cons]
      exact ⟨fun e he => hd.1 e ((List.mem_filter.1 he).1), ih hd.2⟩
    · exact ih hd.2

theorem Tbl.find?_erase (t : Tbl α) (k k' : Nat) :
    Tbl.find? (Tbl.erase t k) k' = if k = k' then none else Tbl.find? t k' := by
  induction t with
  | nil => simp [Tbl.erase, Tbl.find?]
  | cons d t ih =>
    obtain ⟨j, w⟩ := d
    simp only [Tbl.erase]
    split
    · simp only [Tbl.find?, ih]
      grind
    · simp only [Tbl.find?, ih]
      grind

variable [DecidableEq α]

/-- Reading a table after making one key read as `v`. -/
theorem Tbl.get_set (t : Tbl α) (d v : α) (k k' : Nat) :
    Tbl.get d (Tbl.set d t k v) k' = if k = k' then v else Tbl.get d t k' := by
  unfold Tbl.set Tbl.get
  split
  · rename_i hv
    rw [Tbl.find?_erase]
    grind
  · rw [Tbl.find?_put]
    grind

theorem Tbl.mem_set {t : Tbl α} {d v : α} {k : Nat} {e : Nat × α} (h : e ∈ Tbl.set d t k v) :
    (e = (k, v) ∧ v ≠ d) ∨ e ∈ t := by
  unfold Tbl.set at h
  split at h
  · exact .inr (Tbl.mem_erase h)
  · rename_i hv
    rcases Tbl.mem_put h with h | h
    · exact .inl ⟨h, hv⟩
    · exact .inr h

theorem Tbl.sorted_set {t : Tbl α} (h : Tbl.sorted t = true) (d v : α) (k : Nat) : Tbl.sorted (Tbl.set d t k v) = true := by
  unfold Tbl.set
  split
  · exact Tbl.sorted_erase h k
  · exact Tbl.sorted_put h k v

theorem Tbl.canonical_iff (d : α) (t : Tbl α) :
    Tbl.canonical d t = true ↔ Tbl.sorted t = true ∧ ∀ e ∈ t, e.2 ≠ d := by
  simp [Tbl.canonical]

/-- Making a key read as some value keeps the canonical form. -/
theorem Tbl.canonical_set {t : Tbl α} {d : α} (h : Tbl.canonical d t = true) (k : Nat) (v : α) :
    Tbl.canonical d (Tbl.set d t k v) = true := by
  rw [Tbl.canonical_iff] at h ⊢
  refine ⟨Tbl.sorted_set h.1 d v k, fun e he => ?_⟩
  rcases Tbl.mem_set he with ⟨rfl, hv⟩ | he
  · exact hv
  · exact h.2 e he

theorem Tbl.canonical_filter {t : Tbl α} {d : α} (h : Tbl.canonical d t = true) (p : Nat × α → Bool) :
    Tbl.canonical d (t.filter p) = true := by
  rw [Tbl.canonical_iff] at h ⊢
  exact ⟨Tbl.sorted_filter h.1 p, fun e he => h.2 e ((List.mem_filter.1 he).1)⟩

/-- Two canonical tables that read alike everywhere are the same list. -/
theorem Tbl.canonical_ext {t u : Tbl α} {d : α} (ht : Tbl.canonical d t = true) (hu : Tbl.canonical d u = true)
    (h : ∀ k, Tbl.get d t k = Tbl.get d u k) : t = u := by
  rw [Tbl.canonical_iff] at ht hu
  induction t generalizing u with
  | nil =>
    cases u with
    | nil => rfl
    | cons e u =>
      obtain ⟨j, w⟩ := e
      have := h j
      simp only [Tbl.get, Tbl.find?, if_pos, Option.getD] at this
      exact absurd this.symm (hu.2 (j, w) (by simp))
  | cons d' t ih =>
    obtain ⟨i, v⟩ := d'
    cases u with
    | nil =>
      have := h i
      simp only [Tbl.get, Tbl.find?, if_pos, Option.getD] at this
      exact absurd this (ht.2 (i, v) (by simp))
    | cons e u =>
      obtain ⟨j, w⟩ := e
      have hi := (Tbl.sorted_cons i v t).1 ht.1
      have hj := (Tbl.sorted_cons j w u).1 hu.1
      have hv : v ≠ d := ht.2 (i, v) (by simp)
      have hw : w ≠ d := hu.2 (j, w) (by simp)
      have key : i = j := by
        rcases Nat.lt_trichotomy i j with hlt | heq | hgt
        · have := h i
          simp only [Tbl.get, Tbl.find?, if_pos] at this
          rw [if_neg (by omega), Tbl.find?_below hj.1 (by omega)] at this
          exact absurd this hv
        · exact heq
        · have := h j
          simp only [Tbl.get, Tbl.find?, if_pos] at this
          rw [if_neg (by omega), Tbl.find?_below hi.1 (by omega)] at this
          exact absurd this.symm hw
      subst key
      have hvw : v = w := by
        have := h i
        simpa [Tbl.get, Tbl.find?] using this
      subst hvw
      congr 1
      refine ih ⟨hi.2, fun e he => ht.2 e (by simp [he])⟩ ⟨hj.2, fun e he => hu.2 e (by simp [he])⟩ fun k => ?_
      by_cases hk : i = k
      · subst hk
        simp only [Tbl.get]
        rw [Tbl.find?_below hi.1 (by omega), Tbl.find?_below hj.1 (by omega)]
      · have := h k
        simp only [Tbl.get, Tbl.find?, if_neg hk] at this
        exact this

end Sys2Proof.Machine
end

