-- ==== Sys2Proof/Laws/KeepsOps.lean ====
section
/-! SUPPORT. Every operation keeps the memory in its canonical form (log 1): the operations over memory, translation, records, registers and groups. -/

namespace Sys2Proof.Machine

set_option Elab.async false

/-! ### Machine/Memory.lean -/

/-- The memory is in canonical form. -/
abbrev State.wf (s : State) : Prop := Memory.wf s.mem = true
theorem State.modGroup_wf {s : State} (g : Nat) (f : Group → Group) (hs : s.wf) : (State.modGroup s g f).wf := by
  unfold State.modGroup; grind

/-- Only memory counts. -/
theorem State.wf_of_mem {s t : State} (h : s.wf) (e : t.mem = s.mem) : t.wf := by
  rw [State.wf, e]
  exact h

theorem State.setByte_wf {s : State} (pa : Nat) (b : Byte) (hs : s.wf) : (State.setByte s pa b).wf := by
  unfold State.setByte
  split
  · rename_i hp
    simp only [State.wf, Memory.wf, Bool.and_eq_true, List.all_eq_true, decide_eq_true_eq] at hs ⊢
    refine ⟨Tbl.canonical_set hs.1 pa b, fun e he => ?_⟩
    rcases Tbl.mem_set he with ⟨rfl, -⟩ | he
    · exact hp
    · exact hs.2 e he
  · exact hs

theorem State.setLink_wf {s : State} (n : Nat) (l : Link) (hs : s.wf) : (State.setLink s n l).wf := by
  unfold State.setLink; grind

theorem State.modThread_wf {s : State} (g : Nat) (tid : Nat) (f : Thread → Thread) (hs : s.wf) : (State.modThread s g tid f).wf := by
  unfold State.modThread; grind [State.modGroup_wf]

theorem State.setAt_wf {s : State} (a1 : List Nat) (a2 : List Byte) : s.wf → (State.setAt s a1 a2).wf := by
  fun_induction State.setAt s a1 a2 <;> grind [State.setByte_wf]

theorem State.setPort_wf {s : State} (n : Nat) (p : Port) (hs : s.wf) : (State.setPort s n p).wf := by
  unfold State.setPort; grind

theorem State.mapGroups_wf {s : State} (f : Nat → Group → Group) (hs : s.wf) : (State.mapGroups s f).wf := by
  unfold State.mapGroups; grind

theorem State.wakeWhere_wf {s : State} (p : Nat → Bool) (w : Nat → Bool) (code : Nat) (hs : s.wf) : (State.wakeWhere s p w code).wf := by
  unfold State.wakeWhere; grind [State.mapGroups_wf]

theorem State.wake_wf {s : State} (sectors : List Nat) (code : Nat) (hs : s.wf) : (State.wake s sectors code).wf := by
  unfold State.wake; grind [State.wakeWhere_wf]

theorem State.setDie_wf {s : State} (n : Nat) (d : Die) (hs : s.wf) : (State.setDie s n d).wf := by
  unfold State.setDie; grind

theorem State.after_wf {s : State} (dt : Nat) (i : Instr) (hs : s.wf) : (State.after s dt i).wf := by
  unfold State.after; grind

theorem State.modPkt_wf {s : State} (p : Nat) (f : Pkt → Pkt) (hs : s.wf) : (State.modPkt s p f).wf := by
  unfold State.modPkt; grind

theorem State.setCluster_wf {s : State} (n : Nat) (c : Cluster) (hs : s.wf) : (State.setCluster s n c).wf := by
  unfold State.setCluster; grind

theorem State.repair_wf {s : State} (pas : List Nat) (hs : s.wf) : (State.repair s pas).wf := by
  unfold State.repair; grind

theorem State.modKernel_wf {s : State} (k : Nat) (f : Kernel → Kernel) (hs : s.wf) : (State.modKernel s k f).wf := by
  unfold State.modKernel; grind

theorem State.modQueue_wf {s : State} (q : Nat) (f : Queue → Queue) (hs : s.wf) : (State.modQueue s q f).wf := by
  unfold State.modQueue; grind

theorem State.later_wf {s : State} (i : Instr) (hs : s.wf) : (State.later s i).wf := by
  unfold State.later; grind

theorem State.free_wf {s : State} (hs : s.wf) : (State.free s).2.wf := by
  unfold State.free; grind

theorem State.setBytes_wf {s : State} (pa : Nat) (a2 : List Byte) : s.wf → (State.setBytes s pa a2).wf := by
  fun_induction State.setBytes s pa a2 <;> grind [State.setByte_wf]

theorem State.modCtx_wf {s : State} (id : Nat) (f : Ctx → Ctx) (hs : s.wf) : (State.modCtx s id f).wf := by
  unfold State.modCtx; grind

theorem State.homeWrite_wf {s : State} (code : Nat) (pas : List Nat) (bs : List Byte) (hs : s.wf) : (State.homeWrite s code pas bs).wf := by
  unfold State.homeWrite; grind [State.wakeWhere_wf, State.repair_wf, State.setAt_wf]

theorem State.deviceWords_wf {s : State} (pa : Nat) (ws : List Nat) (hs : s.wf) : (State.deviceWords s pa ws).wf := by
  unfold State.deviceWords; grind [State.homeWrite_wf]

theorem State.deviceWrite_wf {s : State} (pa : Nat) (n : Nat) (v : Nat) (hs : s.wf) : (State.deviceWrite s pa n v).wf := by
  unfold State.deviceWrite; grind [State.homeWrite_wf]

theorem State.setCore_wf {s : State} (n : Nat) (c : Core) (hs : s.wf) : (State.setCore s n c).wf := by
  unfold State.setCore; grind

theorem State.emit_wf {s : State} (o : Output) (hs : s.wf) : (State.emit s o).wf := by
  unfold State.emit; grind

/-! ### Machine/Translate.lean -/

theorem State.viewEntries_wf {s : State} (ctx : Nat) (vtab : Nat) (a3 : Nat) : s.wf → (State.viewEntries s ctx vtab a3).1.wf := by
  fun_induction State.viewEntries s ctx vtab a3 <;> grind [State.free_wf, State.modCtx_wf]

theorem State.touch_wf {s : State} (ctx : Nat) (pas : List Nat) (hs : s.wf) : (State.touch s ctx pas).wf := by
  unfold State.touch; grind [State.modCtx_wf]

theorem State.tlbFill_wf {s : State} (ctx : Nat) (core : Nat) (va : Nat) (e : Nat) (lvl : Nat) (hs : s.wf) : (State.tlbFill s ctx core va e lvl).2.wf := by
  unfold State.tlbFill; grind [State.modCtx_wf]

theorem State.walkFor_wf {s : State} (ctx : Nat) (core : Nat) (va : Nat) (needs : Needs) (tdies : Bool) (hs : s.wf) : (State.walkFor s ctx core va needs tdies).1.wf := by
  unfold State.walkFor; grind [State.touch_wf, State.tlbFill_wf]

theorem State.translate_wf {s : State} (ctx : Nat) (core : Nat) (va : Nat) (needs : Needs) (hs : s.wf) : (State.translate s ctx core va needs).1.wf := by
  unfold State.translate; grind [State.walkFor_wf, State.free_wf, State.touch_wf]

theorem State.mapBytes_wf {s : State} (ctx : Nat) (core : Nat) (needs : Needs) (a4 : List Nat) : s.wf → (State.mapBytes s ctx core needs a4).1.wf := by
  fun_induction State.mapBytes s ctx core needs a4 <;> grind [State.translate_wf]

theorem State.viewsOf_wf {s : State} (ctx : Nat) (hs : s.wf) : (State.viewsOf s ctx).1.wf := by
  unfold State.viewsOf; grind [State.viewEntries_wf]

theorem State.mapAccess_wf {s : State} (ctx : Nat) (core : Nat) (va : Nat) (n : Nat) (needs : Needs) (marked : Bool) (hs : s.wf) : (State.mapAccess s ctx core va n needs marked).1.wf := by
  unfold State.mapAccess; grind [State.viewsOf_wf, State.translate_wf, State.mapBytes_wf]

theorem State.vread_wf {s : State} (ctx : Nat) (core : Nat) (va : Nat) (n : Nat) (needs : Needs) (hs : s.wf) : (State.vread s ctx core va n needs).1.wf := by
  unfold State.vread; grind [State.mapAccess_wf]

/-! ### Machine/Records.lean -/

theorem State.writeEvent_wf {s : State} (p : Fin 2) (hs : s.wf) : (State.writeEvent s p).wf := by
  unfold State.writeEvent; grind [State.deviceWords_wf, State.setPort_wf, State.emit_wf]

theorem State.writeBack_wf {s : State} (id : Nat) (hs : s.wf) : (State.writeBack s id).wf := by
  unfold State.writeBack; grind [State.deviceWrite_wf]

theorem State.writeRecord_wf {s : State} (id : Nat) (r : FaultRec) (hs : s.wf) : (State.writeRecord s id r).wf := by
  unfold State.writeRecord; grind [State.deviceWords_wf, State.modCtx_wf, State.deviceWrite_wf, State.emit_wf]

theorem State.flushHeld_wf {s : State} (id : Nat) (a2 : List FaultRec) : s.wf → (State.flushHeld s id a2).wf := by
  fun_induction State.flushHeld s id a2 <;> grind [State.modCtx_wf, State.writeRecord_wf]

theorem State.toWadi_wf {s : State} (p : Nat) (hs : s.wf) : (State.toWadi s p).wf := by
  unfold State.toWadi; grind [State.setLink_wf]

theorem State.enqueue_wf {s : State} (p : Nat) (f : OutFlit) (hs : s.wf) : (State.enqueue s p f).wf := by
  unfold State.enqueue; grind [State.setLink_wf, State.toWadi_wf]

theorem State.sendReq_wf {s : State} (whose : ReqFor) (node : Nat) (pa : Nat) (size : Nat) (data : Option Nat) (op : Option (BitVec 4)) (via : Option Via) (hs : s.wf) : (State.sendReq s whose node pa size data op via).1.wf := by
  unfold State.sendReq; grind [State.free_wf, State.emit_wf, State.after_wf, State.enqueue_wf]

theorem State.sendReads_wf {s : State} (whose : Nat → ReqFor) (part : Nat) (a3 : List (Nat × Nat × Nat × Option Via)) : s.wf → (State.sendReads s whose part a3).1.wf := by
  fun_induction State.sendReads s whose part a3 <;> grind [State.sendReq_wf]

theorem State.event_wf {s : State} (code : Nat) (detail : Nat) (addr : Nat) (time : Nat) (hs : s.wf) : (State.event s code detail addr time).wf := by
  unfold State.event; grind [State.setPort_wf]

theorem State.wordsAt_wf {s : State} (pas : List Nat) (ws : List Nat) (hs : s.wf) : (State.wordsAt s pas ws).wf := by
  unfold State.wordsAt; grind [State.homeWrite_wf]

theorem State.sendWrites_wf {s : State} (whose : Nat → ReqFor) (via : Nat → Option Via) (node : Nat) (part : Nat) (a5 : List (Nat × List Byte)) : s.wf → (State.sendWrites s whose via node part a5).1.wf := by
  fun_induction State.sendWrites s whose via node part a5 <;> grind [State.sendReq_wf]

theorem State.account_wf {s : State} (id : Nat) (w0 : Nat) (w1 : Nat) (hs : s.wf) : (State.account s id w0 w1).wf := by
  unfold State.account; grind [State.deviceWords_wf, State.modCtx_wf, State.deviceWrite_wf]

theorem State.spillOne_wf {s : State} (a : Accum) (hs : s.wf) : (State.spillOne s a).wf := by
  unfold State.spillOne; grind [State.account_wf]

theorem State.spillList_wf {s : State} (a1 : List Accum) : s.wf → (State.spillList s a1).wf := by
  fun_induction State.spillList s a1 <;> grind [State.spillOne_wf]

theorem State.spill_wf {s : State} (core : Nat) (p : Accum → Bool) (hs : s.wf) : (State.spill s core p).wf := by
  unfold State.spill; grind [State.spillList_wf, State.setCore_wf]

theorem State.spillCores_wf {s : State} (p : Accum → Bool) (a2 : List Nat) : s.wf → (State.spillCores s p a2).wf := by
  fun_induction State.spillCores s p a2 <;> grind [State.spill_wf]

theorem State.request_wf {s : State} (ctx : Nat) (va : W64) (size : Nat) (kind : Needs) (hs : s.wf) : (State.request s ctx va size kind).wf := by
  unfold State.request; grind [State.modCtx_wf, State.setPort_wf]

theorem State.ownPas_wf {s : State} (ctx : Nat) (va : Nat) (n : Nat) (needs : Needs) (hs : s.wf) : (State.ownPas s ctx va n needs).1.wf := by
  unfold State.ownPas; grind [State.mapAccess_wf]

theorem State.setCells_wf {s : State} (src : Nat) (dst : Nat) (a3 : List (Nat × Byte)) : s.wf → (State.setCells s src dst a3).wf := by
  fun_induction State.setCells s src dst a3 <;> grind [State.setByte_wf]

theorem State.copyBytes_wf {s : State} (src dst n : Nat) (hs : s.wf) : (State.copyBytes s src dst n).wf := by
  unfold State.copyBytes
  refine State.wakeWhere_wf _ _ _ (State.setCells_wf _ _ _ ?_)
  simp only [State.wf, Memory.wf, Bool.and_eq_true, List.all_eq_true] at hs ⊢
  exact ⟨Tbl.canonical_filter hs.1 _, fun e he => hs.2 e (List.mem_filter.1 he).1⟩


theorem State.copyUnit_wf {s : State} (u : Nat) (src : Nat) (dst : List Nat) (dir : List Nat) (copyVa : Nat) (hs : s.wf) : (State.copyUnit s u src dst dir copyVa).wf := by
  unfold State.copyUnit; grind [State.copyBytes_wf, State.homeWrite_wf, State.wordsAt_wf]

theorem State.captureUnit_wf {s : State} (ctx : Nat) (va : Nat) (hs : s.wf) : (State.captureUnit s ctx va).wf := by
  unfold State.captureUnit
  have ht := State.translate_wf ctx 0 (va / 65536 * 65536) needsRead hs
  dsimp only
  split
  · split
    · exact hs
    · split
      · rename_i he
        rw [he] at ht
        split <;> rename_i ho <;> have h1 := ho ▸ State.ownPas_wf ctx _ 65536 needsWrite ht
        · split <;> rename_i hd <;> have h2 := hd ▸ State.ownPas_wf ctx _ 16 needsWrite h1
          · exact State.copyUnit_wf _ _ _ _ _ h2
          · exact h2
        · exact h1
      · rename_i he
        rw [he] at ht
        exact ht
  · exact hs

theorem State.captureUnits_wf {s : State} (ctx : Nat) (a2 : List Nat) : s.wf → (State.captureUnits s ctx a2).wf := by
  fun_induction State.captureUnits s ctx a2 <;> grind [State.captureUnit_wf]

theorem State.markFrozen_wf {s : State} (m : Master) (hs : s.wf) : (State.markFrozen s m).wf := by
  unfold State.markFrozen; grind [State.event_wf]

theorem State.postEvent_wf {s : State} (cluster : Nat) (r : Completion) (hs : s.wf) : (State.postEvent s cluster r).wf := by
  unfold State.postEvent; grind [State.setCluster_wf, State.deviceWords_wf, State.markFrozen_wf]

theorem State.complete_wf {s : State} (cluster : Nat) (r : Completion) (hs : s.wf) : (State.complete s cluster r).wf := by
  unfold State.complete; grind [State.setCluster_wf, State.postEvent_wf]

theorem State.spoor_wf {s : State} (id : Nat) (ws : List Nat) (hs : s.wf) : (State.spoor s id ws).wf := by
  unfold State.spoor; grind [State.deviceWords_wf, State.modCtx_wf, State.deviceWrite_wf]

theorem State.enter_wf {s : State} (id : Nat) (r : FaultRec) (hs : s.wf) : (State.enter s id r).wf := by
  unfold State.enter; grind [State.writeRecord_wf, State.modCtx_wf]

theorem State.spillAll_wf {s : State} (p : Accum → Bool) (hs : s.wf) : (State.spillAll s p).wf := by
  unfold State.spillAll; grind [State.spillCores_wf]

theorem State.completeAll_wf {s : State} (cluster : Nat) (a2 : List Completion) : s.wf → (State.completeAll s cluster a2).wf := by
  fun_induction State.completeAll s cluster a2 <;> grind [State.complete_wf]

theorem State.count_wf {s : State} (ctx : Nat) (die : Nat) (field : Nat) (n : Nat) (hs : s.wf) : (State.count s ctx die field n).wf := by
  unfold State.count; grind

theorem State.noteUnits_wf {s : State} (kern : Option Nat) (vas : List Nat) (hs : s.wf) : (State.noteUnits s kern vas).wf := by
  unfold State.noteUnits; grind [State.modKernel_wf]

theorem State.localWrite_wf {s : State} (ctx : Nat) (kern : Option Nat) (code : Nat) (pas : List Nat) (vas : List Nat) (bs : List Byte) (hs : s.wf) : (State.localWrite s ctx kern code pas vas bs).wf := by
  unfold State.localWrite; grind [State.homeWrite_wf, State.noteUnits_wf, State.captureUnits_wf]

theorem State.ctxWrite_wf {s : State} (ctx : Nat) (core : Nat) (code : Nat) (pas : List Nat) (vas : List Nat) (node : Nat) (bs : List Byte) (hs : s.wf) : (State.ctxWrite s ctx core code pas vas node bs).1.wf := by
  unfold State.ctxWrite; grind [State.localWrite_wf, State.sendWrites_wf]

theorem State.vwrite_wf {s : State} (ctx : Nat) (core : Nat) (va : Nat) (n : Nat) (v : Nat) (code : Nat) (hs : s.wf) : (State.vwrite s ctx core va n v code).1.wf := by
  unfold State.vwrite; grind [State.mapAccess_wf, State.ctxWrite_wf]

theorem State.post_wf {s : State} (id : Nat) (r : FaultRec) (hs : s.wf) : (State.post s id r).wf := by
  unfold State.post; grind [State.enter_wf, State.count_wf]

theorem State.setCtxState_wf {s : State} (id : Nat) (st : CtxState) (hs : s.wf) : (State.setCtxState s id st).wf := by
  unfold State.setCtxState; grind [State.writeBack_wf, State.modCtx_wf]

theorem State.writeRequest_wf {s : State} (p : Fin 2) (hs : s.wf) : (State.writeRequest s p).wf := by
  unfold State.writeRequest; grind [State.deviceWords_wf, State.setPort_wf, State.emit_wf]

/-! ### Machine/Ops.lean -/

theorem State.unitFold_wf {s : State} (ctx : Nat) (u : Nat) (hs : s.wf) : (State.unitFold s ctx u).1.wf := by
  unfold State.unitFold; grind [State.translate_wf]

theorem State.unissue_wf {s : State} (g : Nat) (hs : s.wf) : (State.unissue s g).wf := by
  unfold State.unissue; grind

theorem State.unhold_wf {s : State} (g : Nat) (h : Hold) (hs : s.wf) : (State.unhold s g h).wf := by
  unfold State.unhold; grind [State.modGroup_wf]

theorem State.unholdAll_wf {s : State} (h : Hold) (a2 : List Nat) : s.wf → (State.unholdAll s h a2).wf := by
  fun_induction State.unholdAll s h a2 <;> grind [State.unhold_wf]

theorem State.dropHolds_wf {s : State} (g : Nat) (hs : s.wf) : (State.dropHolds s g).wf := by
  unfold State.dropHolds; grind [State.unholdAll_wf, State.modGroup_wf]

theorem State.repoint_wf {s : State} (c : Nat) (hs : s.wf) : (State.repoint s c).wf := by
  unfold State.repoint; grind [State.free_wf, State.setCluster_wf]

theorem State.slipCheck_wf {s : State} (core : Nat) (hs : s.wf) : (State.slipCheck s core).wf := by
  unfold State.slipCheck; grind [State.setCore_wf]

theorem State.dropGroup_wf {s : State} (g : Nat) (hs : s.wf) : (State.dropGroup s g).wf := by
  unfold State.dropGroup; grind [State.unissue_wf, State.dropHolds_wf, State.setCore_wf, State.modCtx_wf, State.repoint_wf, State.slipCheck_wf]

theorem State.log_wf {s : State} (ws : List Nat) (hs : s.wf) : (State.log s ws).wf := by
  unfold State.log; grind [State.ownPas_wf, State.wordsAt_wf]

theorem State.compareFolds_wf {s : State} (k : Kernel) (was : List (Nat × Nat × Bool)) (a3 : List Nat) : s.wf → (State.compareFolds s k was a3).wf := by
  fun_induction State.compareFolds s k was a3 <;> grind [State.unitFold_wf, State.log_wf]

theorem State.failCmds_wf {s : State} (gr : Group) (k : Kernel) (code : Byte) (sub : Byte) (a5 : List Cmd) : s.wf → (State.failCmds s gr k code sub a5).wf := by
  fun_induction State.failCmds s gr k code sub a5 <;> grind [State.enter_wf]

theorem State.logFolds_wf {s : State} (k : Kernel) (a2 : List Nat) : s.wf → (State.logFolds s k a2).wf := by
  fun_induction State.logFolds s k a2 <;> grind [State.unitFold_wf, State.log_wf]

theorem State.foldUnits_wf {s : State} (k : Kernel) (hs : s.wf) : (State.foldUnits s k).wf := by
  unfold State.foldUnits; grind [State.logFolds_wf, State.compareFolds_wf]

theorem State.endPkt_wf {s : State} (p : Nat) (status : Nat) (code : Byte) (sub : Byte) (val : Nat) (hs : s.wf) : (State.endPkt s p status code sub val).wf := by
  unfold State.endPkt; grind [State.modPkt_wf]

theorem State.kernelCheck_wf {s : State} (kn : Nat) (hs : s.wf) : (State.kernelCheck s kn).wf := by
  unfold State.kernelCheck; grind [State.foldUnits_wf, State.vwrite_wf, State.endPkt_wf, State.modKernel_wf, State.enter_wf]

theorem State.endNow_wf {s : State} (g : Nat) (gr : Group) (k : Kernel) (code : Byte) (sub : Byte) (die : Nat) (hs : s.wf) : (State.endNow s g gr k code sub die).wf := by
  unfold State.endNow; grind [State.failCmds_wf, State.kernelCheck_wf, State.modKernel_wf, State.dropGroup_wf]

theorem State.endRecorded_wf {s : State} (g : Nat) (gr : Group) (k : Kernel) (r : FaultRec) (hs : s.wf) : (State.endRecorded s g gr k r).wf := by
  unfold State.endRecorded; grind [State.unissue_wf, State.modGroup_wf, State.endNow_wf]

theorem State.endGroup_wf {s : State} (g : Nat) (r : Option FaultRec) (code : Byte) (sub : Byte) (hs : s.wf) : (State.endGroup s g r code sub).wf := by
  unfold State.endGroup; grind [State.dropGroup_wf, State.endNow_wf, State.endRecorded_wf, State.post_wf]

theorem State.fetch_wf {s : State} (gr : Group) (pc : W64) (hs : s.wf) : (State.fetch s gr pc).1.wf := by
  unfold State.fetch; grind [State.vread_wf]

theorem State.surge_wf {s : State} (c : Nat) (hs : s.wf) : (State.surge s c).wf := by
  unfold State.surge; grind [State.after_wf, State.setCluster_wf]

theorem State.startSave_wf {s : State} (g : Nat) (cause : Nat) (hs : s.wf) : (State.startSave s g cause).wf := by
  unfold State.startSave; grind [State.surge_wf, State.modGroup_wf]

theorem State.pageFault_wf {s : State} (g : Nat) (base : W64) (size : Nat) (kind : Needs) (absent : Bool) (hs : s.wf) : (State.pageFault s g base size kind absent).wf := by
  unfold State.pageFault; grind [State.request_wf, State.modGroup_wf, State.startSave_wf]

theorem State.stopStep_wf {s : State} (g : Nat) (tid : Nat) (gr : Group) (k : Kernel) (pc : W64) (hs : s.wf) : (State.stopStep s g tid gr k pc).wf := by
  unfold State.stopStep; grind [State.post_wf, State.modThread_wf]

theorem State.deliver_wf {s : State} (g : Nat) (tid : Nat) (f : Raised) (hs : s.wf) : (State.deliver s g tid f).wf := by
  unfold State.deliver; grind [State.endGroup_wf, State.endNow_wf, State.fetch_wf, State.modThread_wf, State.pageFault_wf, State.post_wf, State.surge_wf, State.stopStep_wf]

theorem State.deliverLate_wf {s : State} (g : Nat) (tid : Nat) (t : Thread) (l : Late) (hs : s.wf) : (State.deliverLate s g tid t l).wf := by
  unfold State.deliverLate; grind [State.deliver_wf, State.modThread_wf]

theorem State.hold_wf {s : State} (g : Nat) (h : Hold) (hs : s.wf) : (State.hold s g h).wf := by
  unfold State.hold; grind [State.modGroup_wf]

theorem State.holdAll_wf {s : State} (h : Hold) (a2 : List Nat) : s.wf → (State.holdAll s h a2).wf := by
  fun_induction State.holdAll s h a2 <;> grind [State.hold_wf]

theorem State.faultAt_wf {s : State} (e : Env) (code : Byte) (sub : Byte) (addr : W64) (hs : s.wf) : (State.faultAt s e code sub addr).wf := by
  unfold State.faultAt; grind [State.deliver_wf]

theorem State.waitAt_wf {s : State} (e : Env) (w : Wait) (hs : s.wf) : (State.waitAt s e w).wf := by
  unfold State.waitAt; grind [State.modThread_wf]

theorem State.tookPart_wf {s : State} (e : Env) (hs : s.wf) : (State.tookPart s e).wf := by
  unfold State.tookPart; grind

theorem State.leaveClause_wf {s : State} (e : Env) (hs : s.wf) : (State.leaveClause s e).wf := by
  unfold State.leaveClause; grind [State.setCore_wf]

theorem State.retireAt_wf {s : State} (e : Env) (t : Thread) (hs : s.wf) : (State.retireAt s e t).wf := by
  unfold State.retireAt; grind [State.modGroup_wf, State.tookPart_wf, State.leaveClause_wf, State.deliverLate_wf, State.stopStep_wf]

theorem State.retire_wf {s : State} (e : Env) (t : Thread) (n : Nat) (hs : s.wf) : (State.retire s e t n).wf := by
  unfold State.retire; grind [State.retireAt_wf]

theorem State.pop_wf {s : State} (hs : s.wf) : (State.pop s).wf := by
  unfold State.pop; grind

theorem runWord_wf {i : Instr} {body : Env → State → State} {s t : State} (hs : s.wf)
    (hb : ∀ e s, s.wf → (body e s).wf) (ht : runWord i body s = .next t) : t.wf := by
  unfold runWord at ht
  split at ht
  · cases ht
  · simp only [Host.Outcome.next.injEq] at ht
    subst ht
    split
    · exact State.faultAt_wf _ _ _ _ (State.pop_wf hs)
    · split
      · exact hb _ _ (State.pop_wf hs)
      · exact State.retire_wf _ _ _ (State.pop_wf hs)

theorem runThread_wf (i : Instr) (act : Env → Act) {s : State} (hs : s.wf) {out : State} (ht : runThread i act s = .next out) : out.wf := by
  unfold runThread at ht; refine runWord_wf hs (fun e s hs => ?_) ht; grind [State.retire_wf, State.faultAt_wf]

theorem State.noteLaunch_wf {s : State} (q : Nat) (pkt : W64) (k : Kernel) (hs : s.wf) : (State.noteLaunch s q pkt k).1.wf := by
  unfold State.noteLaunch; grind

theorem State.surges_wf {s : State} (c : Nat) (a2 : Nat) : s.wf → (State.surges s c a2).wf := by
  fun_induction State.surges s c a2 <;> grind [State.surge_wf]

theorem State.repoints_wf {s : State} (a1 : List Nat) : s.wf → (State.repoints s a1).wf := by
  fun_induction State.repoints s a1 <;> grind [State.repoint_wf]

theorem State.setThread_wf {s : State} (g : Nat) (t : Thread) (hs : s.wf) : (State.setThread s g t).wf := by
  unfold State.setThread; grind [State.modThread_wf]

theorem State.faultFirst_wf {s : State} (g : Nat) (tid : Nat) (hs : s.wf) : (State.faultFirst s g tid).wf := by
  unfold State.faultFirst; grind [State.deliverLate_wf]

theorem State.pageAt_wf {s : State} (e : Env) (base : W64) (size : Nat) (kind : Needs) (absent : Bool) (hs : s.wf) : (State.pageAt s e base size kind absent).wf := by
  unfold State.pageAt; grind [State.pageFault_wf]

end Sys2Proof.Machine
end

