-- ==== Sys2Proof/Laws/KeepsWords.lean ====
section
/-! SUPPORT. Every operation keeps the memory in its canonical form (log 1): the meanings of words and what they issue. -/

namespace Sys2Proof.Machine

set_option Elab.async false

/-! ### Machine/IntAlu.lean -/

theorem aluWide_wf (i : Instr) (d : BitVec 6) (a : BitVec 6) (b : BitVec 6) (f : W32 → W32 → W64) {a5 : State} (ha5 : a5.wf) {out : State} (ht : aluWide i d a b f a5 = .next out) : out.wf := by
  unfold aluWide at ht; grind [runThread_wf]

theorem execMulwS32_wf (d : BitVec 6) (a : BitVec 6) (b : BitVec 6) (g : BitVec 6) {s : State} (hs : s.wf) {out : State} (ht : execMulwS32 d a b g s = .next out) : out.wf := by
  unfold execMulwS32 at ht; grind [aluWide_wf]

theorem divide_wf (i : Instr) (d : BitVec 6) (a : BitVec 6) (b : BitVec 6) (sub : Byte) (f : W32 → W32 → W32) {a6 : State} (ha6 : a6.wf) {out : State} (ht : divide i d a b sub f a6 = .next out) : out.wf := by
  unfold divide at ht; grind [runThread_wf]

theorem execDivS32_wf (d : BitVec 6) (a : BitVec 6) (b : BitVec 6) (g : BitVec 6) {s : State} (hs : s.wf) {out : State} (ht : execDivS32 d a b g s = .next out) : out.wf := by
  unfold execDivS32 at ht; grind [divide_wf]

theorem alu1_wf (i : Instr) (d : BitVec 6) (a : BitVec 6) (f : W32 → W32) {a4 : State} (ha4 : a4.wf) {out : State} (ht : alu1 i d a f a4 = .next out) : out.wf := by
  unfold alu1 at ht; grind [runThread_wf]

theorem execBfxS_wf (d : BitVec 6) (a : BitVec 6) (l : BitVec 5) (p : BitVec 5) {s : State} (hs : s.wf) {out : State} (ht : execBfxS d a l p s = .next out) : out.wf := by
  unfold execBfxS at ht; grind [alu1_wf]

theorem execRemZ32_wf (d : BitVec 6) (a : BitVec 6) (b : BitVec 6) (g : BitVec 6) {s : State} (hs : s.wf) {out : State} (ht : execRemZ32 d a b g s = .next out) : out.wf := by
  unfold execRemZ32 at ht; grind [divide_wf]

theorem alu2_wf (i : Instr) (d : BitVec 6) (a : BitVec 6) (b : BitVec 6) (f : W32 → W32 → W32) {a5 : State} (ha5 : a5.wf) {out : State} (ht : alu2 i d a b f a5 = .next out) : out.wf := by
  unfold alu2 at ht; grind [runThread_wf]

theorem execAndn_wf (d : BitVec 6) (a : BitVec 6) (b : BitVec 6) (g : BitVec 6) {s : State} (hs : s.wf) {out : State} (ht : execAndn d a b g s = .next out) : out.wf := by
  unfold execAndn at ht; grind [alu2_wf]

theorem execShl_wf (d : BitVec 6) (a : BitVec 6) (b : BitVec 6) (g : BitVec 6) {s : State} (hs : s.wf) {out : State} (ht : execShl d a b g s = .next out) : out.wf := by
  unfold execShl at ht; grind [alu2_wf]

theorem execPmov_wf (x : BitVec 6) (r : BitVec 1) {s : State} (hs : s.wf) {out : State} (ht : execPmov x r s = .next out) : out.wf := by
  unfold execPmov at ht; grind [runThread_wf]

theorem execXori_wf (d : BitVec 6) (a : BitVec 6) (i : BitVec 12) {s : State} (hs : s.wf) {out : State} (ht : execXori d a i s = .next out) : out.wf := by
  unfold execXori at ht; grind [alu1_wf]

theorem execSubSatZ32_wf (d : BitVec 6) (a : BitVec 6) (b : BitVec 6) (g : BitVec 6) {s : State} (hs : s.wf) {out : State} (ht : execSubSatZ32 d a b g s = .next out) : out.wf := by
  unfold execSubSatZ32 at ht; grind [alu2_wf]

theorem execClz_wf (d : BitVec 6) (a : BitVec 6) (g : BitVec 6) {s : State} (hs : s.wf) {out : State} (ht : execClz d a g s = .next out) : out.wf := by
  unfold execClz at ht; grind [alu1_wf]

theorem execSrai_wf (d : BitVec 6) (a : BitVec 6) (n : BitVec 5) {s : State} (hs : s.wf) {out : State} (ht : execSrai d a n s = .next out) : out.wf := by
  unfold execSrai at ht; grind [alu1_wf]

theorem execFkeyF32_wf (d : BitVec 6) (a : BitVec 6) (g : BitVec 6) {s : State} (hs : s.wf) {out : State} (ht : execFkeyF32 d a g s = .next out) : out.wf := by
  unfold execFkeyF32 at ht; grind [alu1_wf]

theorem execBrev_wf (d : BitVec 6) (a : BitVec 6) (g : BitVec 6) {s : State} (hs : s.wf) {out : State} (ht : execBrev d a g s = .next out) : out.wf := by
  unfold execBrev at ht; grind [alu1_wf]

theorem setPred_wf (i : Instr) (p : Nat) (f : Thread → Bool) {a3 : State} (ha3 : a3.wf) {out : State} (ht : setPred i p f a3 = .next out) : out.wf := by
  unfold setPred at ht; grind [runThread_wf]

theorem execAddc_wf (d : BitVec 6) (a : BitVec 6) (b : BitVec 6) (c : BitVec 5) {s : State} (hs : s.wf) {out : State} (ht : execAddc d a b c s = .next out) : out.wf := by
  unfold execAddc at ht; grind [runThread_wf]

theorem execBfxZ_wf (d : BitVec 6) (a : BitVec 6) (l : BitVec 5) (p : BitVec 5) {s : State} (hs : s.wf) {out : State} (ht : execBfxZ d a l p s = .next out) : out.wf := by
  unfold execBfxZ at ht; grind [alu1_wf]

theorem execCmpiZ32_wf (p : BitVec 6) (a : BitVec 6) (i : BitVec 6) (c : BitVec 3) {s : State} (hs : s.wf) {out : State} (ht : execCmpiZ32 p a i c s = .next out) : out.wf := by
  unfold execCmpiZ32 at ht; grind [setPred_wf]

theorem aluI64_wf (i : Instr) (d : BitVec 6) (a : BitVec 6) (f : W64 → W64) {a4 : State} (ha4 : a4.wf) {out : State} (ht : aluI64 i d a f a4 = .next out) : out.wf := by
  unfold aluI64 at ht; grind [runThread_wf]

theorem execAddi64_wf (d : BitVec 6) (a : BitVec 6) (i : BitVec 12) {s : State} (hs : s.wf) {out : State} (ht : execAddi64 d a i s = .next out) : out.wf := by
  unfold execAddi64 at ht; grind [aluI64_wf]

theorem execShri_wf (d : BitVec 6) (a : BitVec 6) (n : BitVec 5) {s : State} (hs : s.wf) {out : State} (ht : execShri d a n s = .next out) : out.wf := by
  unfold execShri at ht; grind [alu1_wf]

theorem alu3_wf (i : Instr) (d : BitVec 6) (a : BitVec 6) (b : BitVec 6) (c : BitVec 6) (f : W32 → W32 → W32 → W32) {a6 : State} (ha6 : a6.wf) {out : State} (ht : alu3 i d a b c f a6 = .next out) : out.wf := by
  unfold alu3 at ht; grind [runThread_wf]

theorem execMad_wf (d : BitVec 6) (a : BitVec 6) (b : BitVec 6) (c : BitVec 6) {s : State} (hs : s.wf) {out : State} (ht : execMad d a b c s = .next out) : out.wf := by
  unfold execMad at ht; grind [alu3_wf]

theorem execShl64i_wf (d : BitVec 6) (a : BitVec 6) (n : BitVec 6) {s : State} (hs : s.wf) {out : State} (ht : execShl64i d a n s = .next out) : out.wf := by
  unfold execShl64i at ht; grind [aluI64_wf]

theorem execAddi_wf (d : BitVec 6) (a : BitVec 6) (i : BitVec 12) {s : State} (hs : s.wf) {out : State} (ht : execAddi d a i s = .next out) : out.wf := by
  unfold execAddi at ht; grind [alu1_wf]

theorem execMulwZ32_wf (d : BitVec 6) (a : BitVec 6) (b : BitVec 6) (g : BitVec 6) {s : State} (hs : s.wf) {out : State} (ht : execMulwZ32 d a b g s = .next out) : out.wf := by
  unfold execMulwZ32 at ht; grind [aluWide_wf]

theorem execMaxZ32_wf (d : BitVec 6) (a : BitVec 6) (b : BitVec 6) (g : BitVec 6) {s : State} (hs : s.wf) {out : State} (ht : execMaxZ32 d a b g s = .next out) : out.wf := by
  unfold execMaxZ32 at ht; grind [alu2_wf]

theorem execPopc_wf (d : BitVec 6) (a : BitVec 6) (g : BitVec 6) {s : State} (hs : s.wf) {out : State} (ht : execPopc d a g s = .next out) : out.wf := by
  unfold execPopc at ht; grind [alu1_wf]

theorem execMovx_wf (d : BitVec 6) (i : BitVec 18) (x : BitVec 32) {s : State} (hs : s.wf) {out : State} (ht : execMovx d i x s = .next out) : out.wf := by
  unfold execMovx at ht; grind [runThread_wf]

theorem execShr64i_wf (d : BitVec 6) (a : BitVec 6) (n : BitVec 6) {s : State} (hs : s.wf) {out : State} (ht : execShr64i d a n s = .next out) : out.wf := by
  unfold execShr64i at ht; grind [aluI64_wf]

theorem execNot_wf (d : BitVec 6) (a : BitVec 6) (g : BitVec 6) {s : State} (hs : s.wf) {out : State} (ht : execNot d a g s = .next out) : out.wf := by
  unfold execNot at ht; grind [alu1_wf]

theorem execAndi_wf (d : BitVec 6) (a : BitVec 6) (i : BitVec 12) {s : State} (hs : s.wf) {out : State} (ht : execAndi d a i s = .next out) : out.wf := by
  unfold execAndi at ht; grind [alu1_wf]

theorem execAddSatZ32_wf (d : BitVec 6) (a : BitVec 6) (b : BitVec 6) (g : BitVec 6) {s : State} (hs : s.wf) {out : State} (ht : execAddSatZ32 d a b g s = .next out) : out.wf := by
  unfold execAddSatZ32 at ht; grind [alu2_wf]

theorem alu64_wf (i : Instr) (d : BitVec 6) (a : BitVec 6) (b : BitVec 6) (f : W64 → W64 → W64) {a5 : State} (ha5 : a5.wf) {out : State} (ht : alu64 i d a b f a5 = .next out) : out.wf := by
  unfold alu64 at ht; grind [runThread_wf]

theorem execAdd64_wf (d : BitVec 6) (a : BitVec 6) (b : BitVec 6) (g : BitVec 6) {s : State} (hs : s.wf) {out : State} (ht : execAdd64 d a b g s = .next out) : out.wf := by
  unfold execAdd64 at ht; grind [alu64_wf]

theorem execMov_wf (d : BitVec 6) (a : BitVec 6) (g : BitVec 6) {s : State} (hs : s.wf) {out : State} (ht : execMov d a g s = .next out) : out.wf := by
  unfold execMov at ht; grind [alu1_wf]

theorem execMovhi_wf (d : BitVec 6) (i : BitVec 18) {s : State} (hs : s.wf) {out : State} (ht : execMovhi d i s = .next out) : out.wf := by
  unfold execMovhi at ht; grind [runThread_wf]

theorem execSel_wf (d : BitVec 6) (a : BitVec 6) (b : BitVec 6) (c : BitVec 6) {s : State} (hs : s.wf) {out : State} (ht : execSel d a b c s = .next out) : out.wf := by
  unfold execSel at ht; grind [runThread_wf]

theorem execSub_wf (d : BitVec 6) (a : BitVec 6) (b : BitVec 6) (g : BitVec 6) {s : State} (hs : s.wf) {out : State} (ht : execSub d a b g s = .next out) : out.wf := by
  unfold execSub at ht; grind [alu2_wf]

theorem execOr_wf (d : BitVec 6) (a : BitVec 6) (b : BitVec 6) (g : BitVec 6) {s : State} (hs : s.wf) {out : State} (ht : execOr d a b g s = .next out) : out.wf := by
  unfold execOr at ht; grind [alu2_wf]

theorem execMaxS32_wf (d : BitVec 6) (a : BitVec 6) (b : BitVec 6) (g : BitVec 6) {s : State} (hs : s.wf) {out : State} (ht : execMaxS32 d a b g s = .next out) : out.wf := by
  unfold execMaxS32 at ht; grind [alu2_wf]

theorem execMovi_wf (d : BitVec 6) (i : BitVec 18) {s : State} (hs : s.wf) {out : State} (ht : execMovi d i s = .next out) : out.wf := by
  unfold execMovi at ht; grind [runThread_wf]

theorem execMulhZ32_wf (d : BitVec 6) (a : BitVec 6) (b : BitVec 6) (g : BitVec 6) {s : State} (hs : s.wf) {out : State} (ht : execMulhZ32 d a b g s = .next out) : out.wf := by
  unfold execMulhZ32 at ht; grind [alu2_wf]

theorem execShr_wf (d : BitVec 6) (a : BitVec 6) (b : BitVec 6) (g : BitVec 6) {s : State} (hs : s.wf) {out : State} (ht : execShr d a b g s = .next out) : out.wf := by
  unfold execShr at ht; grind [alu2_wf]

theorem execCmpZ64_wf (p : BitVec 6) (a : BitVec 6) (b : BitVec 6) (c : BitVec 3) {s : State} (hs : s.wf) {out : State} (ht : execCmpZ64 p a b c s = .next out) : out.wf := by
  unfold execCmpZ64 at ht; grind [setPred_wf]

theorem execCmpS64_wf (p : BitVec 6) (a : BitVec 6) (b : BitVec 6) (c : BitVec 3) {s : State} (hs : s.wf) {out : State} (ht : execCmpS64 p a b c s = .next out) : out.wf := by
  unfold execCmpS64 at ht; grind [setPred_wf]

theorem execMulhS32_wf (d : BitVec 6) (a : BitVec 6) (b : BitVec 6) (g : BitVec 6) {s : State} (hs : s.wf) {out : State} (ht : execMulhS32 d a b g s = .next out) : out.wf := by
  unfold execMulhS32 at ht; grind [alu2_wf]

theorem execRemS32_wf (d : BitVec 6) (a : BitVec 6) (b : BitVec 6) (g : BitVec 6) {s : State} (hs : s.wf) {out : State} (ht : execRemS32 d a b g s = .next out) : out.wf := by
  unfold execRemS32 at ht; grind [divide_wf]

theorem execCmpS32_wf (p : BitVec 6) (a : BitVec 6) (b : BitVec 6) (c : BitVec 3) {s : State} (hs : s.wf) {out : State} (ht : execCmpS32 p a b c s = .next out) : out.wf := by
  unfold execCmpS32 at ht; grind [setPred_wf]

theorem execCmpZ32_wf (p : BitVec 6) (a : BitVec 6) (b : BitVec 6) (c : BitVec 3) {s : State} (hs : s.wf) {out : State} (ht : execCmpZ32 p a b c s = .next out) : out.wf := by
  unfold execCmpZ32 at ht; grind [setPred_wf]

theorem execCmpiS32_wf (p : BitVec 6) (a : BitVec 6) (i : BitVec 6) (c : BitVec 3) {s : State} (hs : s.wf) {out : State} (ht : execCmpiS32 p a i c s = .next out) : out.wf := by
  unfold execCmpiS32 at ht; grind [setPred_wf]

theorem execSra_wf (d : BitVec 6) (a : BitVec 6) (b : BitVec 6) (g : BitVec 6) {s : State} (hs : s.wf) {out : State} (ht : execSra d a b g s = .next out) : out.wf := by
  unfold execSra at ht; grind [alu2_wf]

theorem execSub64_wf (d : BitVec 6) (a : BitVec 6) (b : BitVec 6) (g : BitVec 6) {s : State} (hs : s.wf) {out : State} (ht : execSub64 d a b g s = .next out) : out.wf := by
  unfold execSub64 at ht; grind [alu64_wf]

theorem execMul_wf (d : BitVec 6) (a : BitVec 6) (b : BitVec 6) (g : BitVec 6) {s : State} (hs : s.wf) {out : State} (ht : execMul d a b g s = .next out) : out.wf := by
  unfold execMul at ht; grind [alu2_wf]

theorem execPlog_wf (d : BitVec 5) (a : BitVec 5) (b : BitVec 5) (tt : BitVec 4) {s : State} (hs : s.wf) {out : State} (ht : execPlog d a b tt s = .next out) : out.wf := by
  unfold execPlog at ht; grind [setPred_wf]

theorem execShli_wf (d : BitVec 6) (a : BitVec 6) (n : BitVec 5) {s : State} (hs : s.wf) {out : State} (ht : execShli d a n s = .next out) : out.wf := by
  unfold execShli at ht; grind [alu1_wf]

theorem execOri_wf (d : BitVec 6) (a : BitVec 6) (i : BitVec 12) {s : State} (hs : s.wf) {out : State} (ht : execOri d a i s = .next out) : out.wf := by
  unfold execOri at ht; grind [alu1_wf]

theorem execRotli_wf (d : BitVec 6) (a : BitVec 6) (n : BitVec 5) {s : State} (hs : s.wf) {out : State} (ht : execRotli d a n s = .next out) : out.wf := by
  unfold execRotli at ht; grind [alu1_wf]

theorem execNeg_wf (d : BitVec 6) (a : BitVec 6) (g : BitVec 6) {s : State} (hs : s.wf) {out : State} (ht : execNeg d a g s = .next out) : out.wf := by
  unfold execNeg at ht; grind [alu1_wf]

theorem execXor_wf (d : BitVec 6) (a : BitVec 6) (b : BitVec 6) (g : BitVec 6) {s : State} (hs : s.wf) {out : State} (ht : execXor d a b g s = .next out) : out.wf := by
  unfold execXor at ht; grind [alu2_wf]

theorem execLea_wf (d : BitVec 6) (a : BitVec 6) (b : BitVec 6) (n : BitVec 3) {s : State} (hs : s.wf) {out : State} (ht : execLea d a b n s = .next out) : out.wf := by
  unfold execLea at ht; grind [runThread_wf]

theorem execNop_wf {s : State} (hs : s.wf) {out : State} (ht : execNop s = .next out) : out.wf := by
  unfold execNop at ht; grind [runThread_wf]

theorem execMinS32_wf (d : BitVec 6) (a : BitVec 6) (b : BitVec 6) (g : BitVec 6) {s : State} (hs : s.wf) {out : State} (ht : execMinS32 d a b g s = .next out) : out.wf := by
  unfold execMinS32 at ht; grind [alu2_wf]

theorem execMinZ32_wf (d : BitVec 6) (a : BitVec 6) (b : BitVec 6) (g : BitVec 6) {s : State} (hs : s.wf) {out : State} (ht : execMinZ32 d a b g s = .next out) : out.wf := by
  unfold execMinZ32 at ht; grind [alu2_wf]

theorem execRotl_wf (d : BitVec 6) (a : BitVec 6) (b : BitVec 6) (g : BitVec 6) {s : State} (hs : s.wf) {out : State} (ht : execRotl d a b g s = .next out) : out.wf := by
  unfold execRotl at ht; grind [alu2_wf]

theorem execFkeyF16_wf (d : BitVec 6) (a : BitVec 6) (g : BitVec 6) {s : State} (hs : s.wf) {out : State} (ht : execFkeyF16 d a g s = .next out) : out.wf := by
  unfold execFkeyF16 at ht; grind [alu1_wf]

theorem execSubSatS32_wf (d : BitVec 6) (a : BitVec 6) (b : BitVec 6) (g : BitVec 6) {s : State} (hs : s.wf) {out : State} (ht : execSubSatS32 d a b g s = .next out) : out.wf := by
  unfold execSubSatS32 at ht; grind [alu2_wf]

theorem execDivZ32_wf (d : BitVec 6) (a : BitVec 6) (b : BitVec 6) (g : BitVec 6) {s : State} (hs : s.wf) {out : State} (ht : execDivZ32 d a b g s = .next out) : out.wf := by
  unfold execDivZ32 at ht; grind [divide_wf]

theorem execAbsS32_wf (d : BitVec 6) (a : BitVec 6) (g : BitVec 6) {s : State} (hs : s.wf) {out : State} (ht : execAbsS32 d a g s = .next out) : out.wf := by
  unfold execAbsS32 at ht; grind [alu1_wf]

theorem execAnd_wf (d : BitVec 6) (a : BitVec 6) (b : BitVec 6) (g : BitVec 6) {s : State} (hs : s.wf) {out : State} (ht : execAnd d a b g s = .next out) : out.wf := by
  unfold execAnd at ht; grind [alu2_wf]

theorem execBfi_wf (d : BitVec 6) (a : BitVec 6) (l : BitVec 5) (p : BitVec 5) {s : State} (hs : s.wf) {out : State} (ht : execBfi d a l p s = .next out) : out.wf := by
  unfold execBfi at ht; grind [alu2_wf]

theorem execAdd_wf (d : BitVec 6) (a : BitVec 6) (b : BitVec 6) (g : BitVec 6) {s : State} (hs : s.wf) {out : State} (ht : execAdd d a b g s = .next out) : out.wf := by
  unfold execAdd at ht; grind [alu2_wf]

theorem execAddSatS32_wf (d : BitVec 6) (a : BitVec 6) (b : BitVec 6) (g : BitVec 6) {s : State} (hs : s.wf) {out : State} (ht : execAddSatS32 d a b g s = .next out) : out.wf := by
  unfold execAddSatS32 at ht; grind [alu2_wf]

/-! ### Machine/Float.lean -/

theorem execBadd2_wf (d : BitVec 6) (a : BitVec 6) (b : BitVec 6) (g : BitVec 6) {s : State} (hs : s.wf) {out : State} (ht : execBadd2 d a b g s = .next out) : out.wf := by
  unfold execBadd2 at ht; grind [alu2_wf]

theorem execCvtF32Z32_wf (d : BitVec 6) (a : BitVec 6) (g : BitVec 6) {s : State} (hs : s.wf) {out : State} (ht : execCvtF32Z32 d a g s = .next out) : out.wf := by
  unfold execCvtF32Z32 at ht; grind [alu1_wf]

theorem execHmin2_wf (d : BitVec 6) (a : BitVec 6) (b : BitVec 6) (g : BitVec 6) {s : State} (hs : s.wf) {out : State} (ht : execHmin2 d a b g s = .next out) : out.wf := by
  unfold execHmin2 at ht; grind [alu2_wf]

theorem execFdivF32_wf (d : BitVec 6) (a : BitVec 6) (b : BitVec 6) (g : BitVec 6) {s : State} (hs : s.wf) {out : State} (ht : execFdivF32 d a b g s = .next out) : out.wf := by
  unfold execFdivF32 at ht; grind [alu2_wf]

theorem execCvtF16F32Sat_wf (d : BitVec 6) (a : BitVec 6) (g : BitVec 6) {s : State} (hs : s.wf) {out : State} (ht : execCvtF16F32Sat d a g s = .next out) : out.wf := by
  unfold execCvtF16F32Sat at ht; grind [alu1_wf]

theorem execFcmpF32_wf (p : BitVec 6) (a : BitVec 6) (b : BitVec 6) (c : BitVec 3) {s : State} (hs : s.wf) {out : State} (ht : execFcmpF32 p a b c s = .next out) : out.wf := by
  unfold execFcmpF32 at ht; grind [setPred_wf]

theorem execFminF32_wf (d : BitVec 6) (a : BitVec 6) (b : BitVec 6) (g : BitVec 6) {s : State} (hs : s.wf) {out : State} (ht : execFminF32 d a b g s = .next out) : out.wf := by
  unfold execFminF32 at ht; grind [alu2_wf]

theorem execFfmaRzF32_wf (d : BitVec 6) (a : BitVec 6) (b : BitVec 6) (c : BitVec 6) {s : State} (hs : s.wf) {out : State} (ht : execFfmaRzF32 d a b c s = .next out) : out.wf := by
  unfold execFfmaRzF32 at ht; grind [alu3_wf]

theorem execHmul2_wf (d : BitVec 6) (a : BitVec 6) (b : BitVec 6) (g : BitVec 6) {s : State} (hs : s.wf) {out : State} (ht : execHmul2 d a b g s = .next out) : out.wf := by
  unfold execHmul2 at ht; grind [alu2_wf]

theorem execFsqrtF32_wf (d : BitVec 6) (a : BitVec 6) (g : BitVec 6) {s : State} (hs : s.wf) {out : State} (ht : execFsqrtF32 d a g s = .next out) : out.wf := by
  unfold execFsqrtF32 at ht; grind [alu1_wf]

theorem execFrsqF32_wf (d : BitVec 6) (a : BitVec 6) (g : BitVec 6) {s : State} (hs : s.wf) {out : State} (ht : execFrsqF32 d a g s = .next out) : out.wf := by
  unfold execFrsqF32 at ht; grind [alu1_wf]

theorem execFcmpF16_wf (p : BitVec 6) (a : BitVec 6) (b : BitVec 6) (c : BitVec 3) {s : State} (hs : s.wf) {out : State} (ht : execFcmpF16 p a b c s = .next out) : out.wf := by
  unfold execFcmpF16 at ht; grind [setPred_wf]

theorem execFmulF32_wf (d : BitVec 6) (a : BitVec 6) (b : BitVec 6) (g : BitVec 6) {s : State} (hs : s.wf) {out : State} (ht : execFmulF32 d a b g s = .next out) : out.wf := by
  unfold execFmulF32 at ht; grind [alu2_wf]

theorem execFnegF32_wf (d : BitVec 6) (a : BitVec 6) (g : BitVec 6) {s : State} (hs : s.wf) {out : State} (ht : execFnegF32 d a g s = .next out) : out.wf := by
  unfold execFnegF32 at ht; grind [alu1_wf]

theorem execFfmaF32_wf (d : BitVec 6) (a : BitVec 6) (b : BitVec 6) (c : BitVec 6) {s : State} (hs : s.wf) {out : State} (ht : execFfmaF32 d a b c s = .next out) : out.wf := by
  unfold execFfmaF32 at ht; grind [alu3_wf]

theorem execHfma2_wf (d : BitVec 6) (a : BitVec 6) (b : BitVec 6) (c : BitVec 6) {s : State} (hs : s.wf) {out : State} (ht : execHfma2 d a b c s = .next out) : out.wf := by
  unfold execHfma2 at ht; grind [alu3_wf]

theorem execFsubF32_wf (d : BitVec 6) (a : BitVec 6) (b : BitVec 6) (g : BitVec 6) {s : State} (hs : s.wf) {out : State} (ht : execFsubF32 d a b g s = .next out) : out.wf := by
  unfold execFsubF32 at ht; grind [alu2_wf]

theorem execFrcpF32_wf (d : BitVec 6) (a : BitVec 6) (g : BitVec 6) {s : State} (hs : s.wf) {out : State} (ht : execFrcpF32 d a g s = .next out) : out.wf := by
  unfold execFrcpF32 at ht; grind [alu1_wf]

theorem execHmax2_wf (d : BitVec 6) (a : BitVec 6) (b : BitVec 6) (g : BitVec 6) {s : State} (hs : s.wf) {out : State} (ht : execHmax2 d a b g s = .next out) : out.wf := by
  unfold execHmax2 at ht; grind [alu2_wf]

theorem execCvtZ32F32Rz_wf (d : BitVec 6) (a : BitVec 6) (g : BitVec 6) {s : State} (hs : s.wf) {out : State} (ht : execCvtZ32F32Rz d a g s = .next out) : out.wf := by
  unfold execCvtZ32F32Rz at ht; grind [alu1_wf]

theorem execCvtS32F32Rz_wf (d : BitVec 6) (a : BitVec 6) (g : BitVec 6) {s : State} (hs : s.wf) {out : State} (ht : execCvtS32F32Rz d a g s = .next out) : out.wf := by
  unfold execCvtS32F32Rz at ht; grind [alu1_wf]

theorem execCvtw_wf (d : BitVec 6) (a : BitVec 6) (f : BitVec 4) {s : State} (hs : s.wf) {out : State} (ht : execCvtw d a f s = .next out) : out.wf := by
  unfold execCvtw at ht; grind [alu1_wf]

theorem execHadd2_wf (d : BitVec 6) (a : BitVec 6) (b : BitVec 6) (g : BitVec 6) {s : State} (hs : s.wf) {out : State} (ht : execHadd2 d a b g s = .next out) : out.wf := by
  unfold execHadd2 at ht; grind [alu2_wf]

theorem execCvtF32F16_wf (d : BitVec 6) (a : BitVec 6) (g : BitVec 6) {s : State} (hs : s.wf) {out : State} (ht : execCvtF32F16 d a g s = .next out) : out.wf := by
  unfold execCvtF32F16 at ht; grind [alu1_wf]

theorem execFaddF32_wf (d : BitVec 6) (a : BitVec 6) (b : BitVec 6) (g : BitVec 6) {s : State} (hs : s.wf) {out : State} (ht : execFaddF32 d a b g s = .next out) : out.wf := by
  unfold execFaddF32 at ht; grind [alu2_wf]

theorem execFaddRzF32_wf (d : BitVec 6) (a : BitVec 6) (b : BitVec 6) (g : BitVec 6) {s : State} (hs : s.wf) {out : State} (ht : execFaddRzF32 d a b g s = .next out) : out.wf := by
  unfold execFaddRzF32 at ht; grind [alu2_wf]

theorem execFmaxF32_wf (d : BitVec 6) (a : BitVec 6) (b : BitVec 6) (g : BitVec 6) {s : State} (hs : s.wf) {out : State} (ht : execFmaxF32 d a b g s = .next out) : out.wf := by
  unfold execFmaxF32 at ht; grind [alu2_wf]

theorem execCvtF16F32_wf (d : BitVec 6) (a : BitVec 6) (g : BitVec 6) {s : State} (hs : s.wf) {out : State} (ht : execCvtF16F32 d a g s = .next out) : out.wf := by
  unfold execCvtF16F32 at ht; grind [alu1_wf]

theorem execBmul2_wf (d : BitVec 6) (a : BitVec 6) (b : BitVec 6) (g : BitVec 6) {s : State} (hs : s.wf) {out : State} (ht : execBmul2 d a b g s = .next out) : out.wf := by
  unfold execBmul2 at ht; grind [alu2_wf]

theorem execFexp2F32_wf (d : BitVec 6) (a : BitVec 6) (g : BitVec 6) {s : State} (hs : s.wf) {out : State} (ht : execFexp2F32 d a g s = .next out) : out.wf := by
  unfold execFexp2F32 at ht; grind [alu1_wf]

theorem execCvtS32F32Rn_wf (d : BitVec 6) (a : BitVec 6) (g : BitVec 6) {s : State} (hs : s.wf) {out : State} (ht : execCvtS32F32Rn d a g s = .next out) : out.wf := by
  unfold execCvtS32F32Rn at ht; grind [alu1_wf]

theorem execCvtF32Bf16_wf (d : BitVec 6) (a : BitVec 6) (g : BitVec 6) {s : State} (hs : s.wf) {out : State} (ht : execCvtF32Bf16 d a g s = .next out) : out.wf := by
  unfold execCvtF32Bf16 at ht; grind [alu1_wf]

theorem execFlog2F32_wf (d : BitVec 6) (a : BitVec 6) (g : BitVec 6) {s : State} (hs : s.wf) {out : State} (ht : execFlog2F32 d a g s = .next out) : out.wf := by
  unfold execFlog2F32 at ht; grind [alu1_wf]

theorem execBmin2_wf (d : BitVec 6) (a : BitVec 6) (b : BitVec 6) (g : BitVec 6) {s : State} (hs : s.wf) {out : State} (ht : execBmin2 d a b g s = .next out) : out.wf := by
  unfold execBmin2 at ht; grind [alu2_wf]

theorem execCvtF32S32_wf (d : BitVec 6) (a : BitVec 6) (g : BitVec 6) {s : State} (hs : s.wf) {out : State} (ht : execCvtF32S32 d a g s = .next out) : out.wf := by
  unfold execCvtF32S32 at ht; grind [alu1_wf]

theorem execBmax2_wf (d : BitVec 6) (a : BitVec 6) (b : BitVec 6) (g : BitVec 6) {s : State} (hs : s.wf) {out : State} (ht : execBmax2 d a b g s = .next out) : out.wf := by
  unfold execBmax2 at ht; grind [alu2_wf]

theorem execFabsF32_wf (d : BitVec 6) (a : BitVec 6) (g : BitVec 6) {s : State} (hs : s.wf) {out : State} (ht : execFabsF32 d a g s = .next out) : out.wf := by
  unfold execFabsF32 at ht; grind [alu1_wf]

theorem execBfma2_wf (d : BitVec 6) (a : BitVec 6) (b : BitVec 6) (c : BitVec 6) {s : State} (hs : s.wf) {out : State} (ht : execBfma2 d a b c s = .next out) : out.wf := by
  unfold execBfma2 at ht; grind [alu3_wf]

theorem execCvtBf16F32_wf (d : BitVec 6) (a : BitVec 6) (g : BitVec 6) {s : State} (hs : s.wf) {out : State} (ht : execCvtBf16F32 d a g s = .next out) : out.wf := by
  unfold execCvtBf16F32 at ht; grind [alu1_wf]

/-! ### Machine/Lanes.lean -/

theorem State.retireEach_wf {s : State} (e : Env) (a2 : List Thread) : s.wf → (State.retireEach s e a2).wf := by
  fun_induction State.retireEach s e a2 <;> grind [State.retireAt_wf]

theorem runConv_wf (i : Instr) (act : Env → List Thread → List Thread × Bool) {s : State} (hs : s.wf) {out : State} (ht : runConv i act s = .next out) : out.wf := by
  unfold runConv at ht; refine runWord_wf hs (fun e s hs => ?_) ht; grind [State.waitAt_wf, State.modGroup_wf, State.retireEach_wf]

theorem laneWord_wf (i : Instr) (d : BitVec 6) (a : BitVec 6) (f : List W32 → List W32) {a4 : State} (ha4 : a4.wf) {out : State} (ht : laneWord i d a f a4 = .next out) : out.wf := by
  unfold laneWord at ht; grind [runConv_wf]

theorem execXshfw_wf (d : BitVec 6) (a : BitVec 6) (k : BitVec 3) {s : State} (hs : s.wf) {out : State} (ht : execXshfw d a k s = .next out) : out.wf := by
  unfold execXshfw at ht; grind [laneWord_wf]

theorem execRed_wf (d : BitVec 6) (a : BitVec 6) (o : BitVec 5) {s : State} (hs : s.wf) {out : State} (ht : execRed d a o s = .next out) : out.wf := by
  unfold execRed at ht; grind [runConv_wf]

theorem execVote_wf (d : BitVec 6) (ps : BitVec 6) (o : BitVec 2) {s : State} (hs : s.wf) {out : State} (ht : execVote d ps o s = .next out) : out.wf := by
  unfold execVote at ht; grind [runConv_wf]

theorem execCvtb_wf (d : BitVec 6) (a : BitVec 6) (f : BitVec 4) (t : BitVec 5) {s : State} (hs : s.wf) {out : State} (ht : execCvtb d a f t s = .next out) : out.wf := by
  unfold execCvtb at ht; grind [runConv_wf]

theorem execXshf_wf (d : BitVec 6) (a : BitVec 6) (m : BitVec 7) {s : State} (hs : s.wf) {out : State} (ht : execXshf d a m s = .next out) : out.wf := by
  unfold execXshf at ht; grind [laneWord_wf]

theorem execWidb_wf (d : BitVec 6) (a : BitVec 6) (f : BitVec 4) (t : BitVec 5) {s : State} (hs : s.wf) {out : State} (ht : execWidb d a f t s = .next out) : out.wf := by
  unfold execWidb at ht; grind [runConv_wf]

theorem execScan_wf (d : BitVec 6) (a : BitVec 6) (o : BitVec 5) (x : BitVec 1) {s : State} (hs : s.wf) {out : State} (ht : execScan d a o x s = .next out) : out.wf := by
  unfold execScan at ht; grind [runConv_wf]

theorem execPermb_wf (d : BitVec 6) (a : BitVec 6) (b : BitVec 6) (n : BitVec 1) {s : State} (hs : s.wf) {out : State} (ht : execPermb d a b n s = .next out) : out.wf := by
  unfold execPermb at ht; grind [runConv_wf]

/-! ### Machine/Access.lean -/

theorem State.addLate_wf {s : State} (g : Nat) (tid : Nat) (l : Late) (hs : s.wf) : (State.addLate s g tid l).wf := by
  unfold State.addLate; grind [State.modThread_wf, State.modGroup_wf]

theorem State.failItem_wf {s : State} (g : Nat) (tid : Nat) (pc : W64) (va : W64) (it : W64) (code : Byte) (sub : Byte) (detail : Nat) (stamp : Nat) (needs : Option (Nat × Nat)) (hs : s.wf) : (State.failItem s g tid pc va it code sub detail stamp needs).wf := by
  unfold State.failItem; grind [State.post_wf, State.addLate_wf]

theorem State.failLane_wf {s : State} (e : Env) (va : W64) (code : Byte) (sub : Byte) (hs : s.wf) : (State.failLane s e va code sub).wf := by
  unfold State.failLane; grind [State.retire_wf, State.failItem_wf]

theorem State.storeL1_wf {s : State} (core : Nat) (ctx : Nat) (va : Nat) (bs : List Byte) (hs : s.wf) : (State.storeL1 s core ctx va bs).wf := by
  unfold State.storeL1; grind [State.setCore_wf]

theorem State.dropAccess_wf {s : State} (a : Access) (hs : s.wf) : (State.dropAccess s a).wf := by
  unfold State.dropAccess; grind

theorem State.endSample_wf {s : State} (num : Nat) (hs : s.wf) : (State.endSample s num).wf := by
  unfold State.endSample; grind [State.free_wf, State.spoor_wf]

theorem State.endSamples_wf {s : State} (a1 : List Nat) : s.wf → (State.endSamples s a1).wf := by
  fun_induction State.endSamples s a1 <;> grind [State.endSample_wf]

theorem State.outdate_wf {s : State} (core : Nat) (ctx : Nat) (line : Option Nat) (who : Nat × Nat) (pas : List Nat) (hs : s.wf) : (State.outdate s core ctx line who pas).wf := by
  unfold State.outdate; grind [State.setCore_wf]

theorem State.faultLane_wf {s : State} (e : Env) (code : Byte) (sub : Byte) (addr : W64) (hs : s.wf) : (State.faultLane s e code sub addr).wf := by
  unfold State.faultLane; grind [State.faultAt_wf, State.modThread_wf]

theorem State.transFault_wf {s : State} (e : Env) (code : Byte) (sub : Byte) (va : W64) (hs : s.wf) : (State.transFault s e code sub va).wf := by
  unfold State.transFault; grind [State.failLane_wf, State.faultLane_wf]

theorem State.noteLane_wf {s : State} (e : Env) (i : Instr) (va : Nat) (hs : s.wf) : (State.noteLane s e i va).wf := by
  unfold State.noteLane; grind

theorem State.addAccess_wf {s : State} (e : Env) (q : Ask) (hs : s.wf) : (State.addAccess s e q).wf := by
  unfold State.addAccess; grind [State.free_wf, State.modGroup_wf]

theorem State.issueAccess_wf {s : State} (e : Env) (i : Instr) (q : Ask) (hs : s.wf) : (State.issueAccess s e i q).wf := by
  unfold State.issueAccess; grind [State.noteLane_wf, State.retire_wf, State.addAccess_wf]

theorem State.dropL1_wf {s : State} (core : Nat) (p : L1Line → Bool) (hs : s.wf) : (State.dropL1 s core p).wf := by
  unfold State.dropL1; grind [State.setCore_wf]

theorem State.fillL1_wf {s : State} (ctx : Nat) (core : Nat) (va : Nat) (hs : s.wf) : (State.fillL1 s ctx core va).wf := by
  unfold State.fillL1; grind [State.dropL1_wf, State.mapAccess_wf, State.setCore_wf]

theorem State.atomicAt_wf {s : State} (ctx : Nat) (kern : Option Nat) (code : Nat) (o : BitVec 4) (pas : List Nat) (vas : List Nat) (b : Nat) (cmp : Nat) (hs : s.wf) : (State.atomicAt s ctx kern code o pas vas b cmp).1.wf := by
  unfold State.atomicAt; grind [State.wake_wf, State.modKernel_wf, State.localWrite_wf]

theorem State.progress_wf {s : State} (g : Nat) (hs : s.wf) : (State.progress s g).wf := by
  unfold State.progress; grind [State.modGroup_wf]

theorem State.cedeL1_wf {s : State} (core : Nat) (old : Nat) (hs : s.wf) : (State.cedeL1 s core old).wf := by
  unfold State.cedeL1
  split
  · exact hs
  · exact State.wf_of_mem (State.free_wf hs) rfl

theorem State.dropCtxL1_wf {s : State} (core : Nat) (ctx : Nat) (hs : s.wf) : (State.dropCtxL1 s core ctx).wf := by
  unfold State.dropCtxL1; grind [State.dropL1_wf]

theorem State.dropBytesL1_wf {s : State} (core : Nat) (pas : List Nat) (hs : s.wf) : (State.dropBytesL1 s core pas).wf := by
  unfold State.dropBytesL1; grind [State.dropL1_wf]

theorem State.retireOps_wf {s : State} (g : Nat) (hs : s.wf) : (State.retireOps s g).wf := by
  unfold State.retireOps; grind [State.modGroup_wf]

theorem State.pageLane_wf {s : State} (e : Env) (base : W64) (size : Nat) (kind : Needs) (absent : Bool) (hs : s.wf) : (State.pageLane s e base size kind absent).wf := by
  unfold State.pageLane; grind [State.pageAt_wf, State.modThread_wf]

theorem State.globalAccess_wf {s : State} (e : Env) (i : Instr) (va : W64) (n : Nat) (mis : Byte) (needs : Needs) (q : Ask) (hs : s.wf) : (State.globalAccess s e i va n mis needs q).wf := by
  unfold State.globalAccess; grind [State.faultLane_wf, State.mapAccess_wf, State.transFault_wf, State.pageLane_wf, State.issueAccess_wf]

/-! ### Machine/Tile.lean -/

theorem State.issueTile_wf {s : State} (e : Env) (pc : W64) (tiles : List Nat) (bad : Option (Byte × Byte × W64)) (kind : TileKind) (hs : s.wf) : (State.issueTile s e pc tiles bad kind).1.wf := by
  unfold State.issueTile; grind [State.setCore_wf, State.modGroup_wf]

theorem issueAmov_wf (a : BitVec 5) (t : BitVec 4) (dir : BitVec 1) (e : Env) (pc : W64) {s : State} (hs : s.wf) : (issueAmov a t dir e pc s).1.wf := by
  unfold issueAmov; grind [State.issueTile_wf]

theorem issueTzero_wf (t : BitVec 4) (e : Env) (pc : W64) {s : State} (hs : s.wf) : (issueTzero t e pc s).1.wf := by
  unfold issueTzero; grind [State.issueTile_wf]

theorem State.placeElems_wf {s : State} (ctx : Nat) (core : Nat) (needs : Needs) (es : Nat) (cut : TileEnd) (a6 : List Elem) : s.wf → (State.placeElems s ctx core needs es cut a6).1.wf := by
  fun_induction State.placeElems s ctx core needs es cut a6 <;> grind [State.mapAccess_wf]

theorem State.writeAll_wf {s : State} (gr : Group) (whose : Nat → ReqFor) (bytes : Nat → List Byte) (r : TileEnd) (n : Nat) (a6 : List Placed) : s.wf → (State.writeAll s gr whose bytes r n a6).1.wf := by
  fun_induction State.writeAll s gr whose bytes r n a6 <;> grind [State.localWrite_wf, State.sendReq_wf]

theorem State.onTile_wf {s : State} (core : Nat) (op : Nat) (f : TileOp → TileOp) (hs : s.wf) : (State.onTile s core op f).wf := by
  unfold State.onTile; grind [State.setCore_wf]

theorem State.dropPlaced_wf {s : State} (core : Nat) (ps : List Placed) (hs : s.wf) : (State.dropPlaced s core ps).wf := by
  unfold State.dropPlaced; grind [State.dropBytesL1_wf]

theorem State.storeAll_wf {s : State} (o : TileOp) (gr : Group) (es : List Elem) (n : Nat) (cut : TileEnd) (bytes : Nat → List Byte) (hs : s.wf) : (State.storeAll s o gr es n cut bytes).1.wf := by
  unfold State.storeAll; grind [State.placeElems_wf, State.writeAll_wf, State.onTile_wf, State.dropPlaced_wf]

theorem execTcfg_wf (t : BitVec 4) (a : BitVec 6) {s : State} (hs : s.wf) {out : State} (ht : execTcfg t a s = .next out) : out.wf := by
  unfold execTcfg at ht; refine runWord_wf hs (fun e s hs => ?_) ht; grind [State.faultAt_wf, State.retire_wf, State.modGroup_wf]

theorem State.slipTake_wf {s : State} (core : Nat) (hs : s.wf) : (State.slipTake s core).wf := by
  unfold State.slipTake; grind [State.setCore_wf]

theorem State.modTile_wf {s : State} (core : Nat) (o : TileOp) (f : TileOp → Option TileOp) (hs : s.wf) : (State.modTile s core o f).wf := by
  unfold State.modTile; grind [State.setCore_wf]

theorem issueMove_wf (load : Bool) (t : BitVec 4) (a : BitVec 6) (b : BitVec 6) (e : Env) (pc : W64) {s : State} (hs : s.wf) : (issueMove load t a b e pc s).1.wf := by
  unfold issueMove; grind [State.issueTile_wf]

theorem issueMma_wf (fmt : Nat) (acc : BitVec 5) (ta : BitVec 4) (tb : BitVec 4) (f : BitVec 2) (k : BitVec 6) (e : Env) (pc : W64) {s : State} (hs : s.wf) : (issueMma fmt acc ta tb f k e pc s).1.wf := by
  unfold issueMma; grind [State.modKernel_wf, State.issueTile_wf]

theorem issueAclr_wf (a : BitVec 5) (e : Env) (pc : W64) {s : State} (hs : s.wf) : (issueAclr a e pc s).1.wf := by
  unfold issueAclr; grind [State.issueTile_wf]

theorem State.chkstat_wf {s : State} (g : Nat) (w : Nat) (ccnt : Nat) (ucnt : Nat) (set : Nat) (hs : s.wf) : (State.chkstat s g w ccnt ucnt set).wf := by
  unfold State.chkstat; grind [State.modGroup_wf]

theorem State.rnf_wf {s : State} (o : TileOp) (b : Bool) (hs : s.wf) : (State.rnf s o b).wf := by
  unfold State.rnf; grind [State.chkstat_wf]

theorem State.formPart_wf {s : State} (o : TileOp) (gr : Group) (fmt : Nat) (acc : Nat) (ta : Nat) (tb : Nat) (fuse : Nat) (off : Nat) (len : Nat) (mode : Nat) (retry : Nat) (i : Nat) (hs : s.wf) : (State.formPart s o gr fmt acc ta tb fuse off len mode retry i).1.wf := by
  unfold State.formPart; grind [State.chkstat_wf, State.surges_wf, State.count_wf, State.slipTake_wf, State.setCore_wf]

theorem execSegn_wf (d : BitVec 6) (a : BitVec 6) (b : BitVec 6) {s : State} (hs : s.wf) {out : State} (ht : execSegn d a b s = .next out) : out.wf := by
  unfold execSegn at ht; grind [runThread_wf]

theorem State.readPlaced_wf {s : State} (p : Placed) (got : Option (List Byte)) (hs : s.wf) : (State.readPlaced s p got).1.wf := by
  unfold State.readPlaced; grind [State.sendReq_wf]

theorem State.readAll_wf {s : State} (got : List (Nat × List Byte)) (part : Nat) (a3 : List Placed) : s.wf → (State.readAll s got part a3).1.wf := by
  fun_induction State.readAll s got part a3 <;> grind [State.readPlaced_wf]

theorem State.formParts_wf {s : State} (form : State → Nat → State × Part) (l : List Nat)
    (hf : ∀ s i, s.wf → (form s i).1.wf) (hs : s.wf) : (State.formParts s form l).1.wf := by
  induction l generalizing s with
  | nil => exact hs
  | cons i l ih => exact ih (hf s i hs)

theorem State.performMma_wf {s : State} (o : TileOp) (gr : Group) (fmt : Nat) (acc : Nat) (ta : Nat) (tb : Nat) (fuse : Nat) (off : Nat) (len : Nat) (mode : Nat) (retry : Nat) (hs : s.wf) : (State.performMma s o gr fmt acc ta tb fuse off len mode retry).1.wf := by
  unfold State.performMma
  have h := State.formParts_wf (fun s i => s.formPart o gr fmt acc ta tb fuse off len mode retry i) [0, 1, 2, 3]
    (fun s i hs => State.formPart_wf (hs := hs) ..) hs
  grind [State.count_wf, State.modGroup_wf]

theorem State.tellSigners_wf {s : State} (g : Nat) (d : BitVec 6) (v : W32) (a4 : List Nat) : s.wf → (State.tellSigners s g d v a4).wf := by
  fun_induction State.tellSigners s g d v a4 <;> grind [State.modThread_wf]

theorem issueQnt_wf (d : BitVec 4) (src : BitVec 4) (h : BitVec 3) (a : BitVec 6) (e : Env) (pc : W64) {s : State} (hs : s.wf) : (issueQnt d src h a e pc s).1.wf := by
  unfold issueQnt; grind [State.issueTile_wf]

theorem State.fetchAll_wf {s : State} (o : TileOp) (gr : Group) (ps : List Placed) (r : TileEnd) (put : State → List (Nat × List Byte) → State)
    (hp : ∀ (t : State) bs, t.wf → (put t bs).wf) (hs : s.wf) : (State.fetchAll s o gr ps r put).1.wf := by
  unfold State.fetchAll; grind [State.readAll_wf, State.dropPlaced_wf, State.sendReads_wf, State.onTile_wf]


theorem State.performTile_wf {s : State} (o : TileOp) (gr : Group) (damage : Byte) (at_ : Nat) (hs : s.wf) : (State.performTile s o gr damage at_).1.wf := by
  unfold State.performTile; grind [State.placeElems_wf, State.fetchAll_wf, State.free_wf, State.modGroup_wf, State.storeAll_wf, State.rnf_wf, State.performMma_wf, State.tellSigners_wf]

theorem execTileOpPerformed_wf (core : Fin 1024) (op : Ending) {s : State} (hs : s.wf) {out : State} (ht : execTileOpPerformed core op s = .next out) : out.wf := by
  unfold execTileOpPerformed at ht; grind [State.modTile_wf, State.progress_wf, State.retireOps_wf, State.slipTake_wf, State.count_wf, State.performTile_wf, State.failItem_wf, State.request_wf]

theorem issueTchk_wf (d : BitVec 6) (t : BitVec 4) (signers : List Nat) (e : Env) (pc : W64) {s : State} (hs : s.wf) : (issueTchk d t signers e pc s).1.wf := by
  unfold issueTchk; grind [State.issueTile_wf]

theorem issueAccMove_wf (load : Bool) (a : BitVec 5) (x : BitVec 6) (b : BitVec 6) (e : Env) (pc : W64) {s : State} (hs : s.wf) : (issueAccMove load a x b e pc s).1.wf := by
  unfold issueAccMove; grind [State.issueTile_wf]

theorem issueTcvt_wf (d : BitVec 4) (src : BitVec 4) (e : Env) (pc : W64) {s : State} (hs : s.wf) : (issueTcvt d src e pc s).1.wf := by
  unfold issueTcvt; grind [State.issueTile_wf]

theorem issueScacc_wf (d : BitVec 5) (p : BitVec 5) (a : BitVec 6) (e : Env) (pc : W64) {s : State} (hs : s.wf) : (issueScacc d p a e pc s).1.wf := by
  unfold issueScacc; grind [State.issueTile_wf]

/-! ### Machine/Engine.lean -/

theorem State.settleBatch_wf {s : State} (ctx : Nat) (no : Nat) (hs : s.wf) : (State.settleBatch s ctx no).wf := by
  unfold State.settleBatch; grind [State.progress_wf, State.retireOps_wf]

theorem State.closeBatch_wf {s : State} (g : Nat) (w : Nat) (hs : s.wf) : (State.closeBatch s g w).wf := by
  unfold State.closeBatch; grind [State.modGroup_wf, State.settleBatch_wf]

theorem issueCommit_wf (e : Env) (_pc : W64) {s : State} (hs : s.wf) : (issueCommit e _pc s).1.wf := by
  unfold issueCommit; grind [State.closeBatch_wf]

theorem State.setSwap_wf {s : State} (g : Nat) (tid : Nat) (w : Option Swap) (hs : s.wf) : (State.setSwap s g tid w).wf := by
  unfold State.setSwap; grind [State.modGroup_wf]

theorem State.enqWrite_wf {s : State} (e : Env) (code : Nat) (va : W64) (pas : List Nat) (vas : List Nat) (bs : List Byte) (hs : s.wf) : (State.enqWrite s e code va pas vas bs).wf := by
  unfold State.enqWrite; grind [State.dropL1_wf, State.localWrite_wf]

theorem State.askPeer_wf {s : State} (e : Env) (w : Swap) (va : W64) (node : Nat) (pa : Nat) (n : Nat) (data : Option Nat) (op : Option (BitVec 4)) (via : Option Via) (hs : s.wf) : (State.askPeer s e w va node pa n data op via).1.wf := by
  unfold State.askPeer; grind [State.free_wf, State.setSwap_wf, State.sendReq_wf]

theorem State.linkFails_wf {s : State} (e : Env) (pc : W64) (old : W64) (code : Byte) (sub : Byte) (hs : s.wf) : (State.linkFails s e pc old code sub).1.wf := by
  unfold State.linkFails; grind [State.failItem_wf, State.setSwap_wf]

theorem State.linkStore_wf {s : State} (e : Env) (w : Swap) (old : W64) (opas : List Nat) (ovas : List Nat) (onode : Nat) (hs : s.wf) : (State.linkStore s e w old opas ovas onode).1.wf := by
  unfold State.linkStore; grind [State.setSwap_wf, State.enqWrite_wf, State.sendReq_wf, State.askPeer_wf, State.linkFails_wf]

theorem State.modCmd_wf {s : State} (id : Nat) (f : Cmd → Cmd) (hs : s.wf) : (State.modCmd s id f).wf := by
  unfold State.modCmd; grind

theorem State.packetDone_wf {s : State} (b : Batch) (hs : s.wf) : (State.packetDone s b).wf := by
  unfold State.packetDone; grind [State.endPkt_wf]

theorem State.endCmd_wf {s : State} (c : Cmd) (hs : s.wf) : (State.endCmd s c).wf := by
  unfold State.endCmd; grind [State.modCmd_wf, State.packetDone_wf, State.progress_wf, State.settleBatch_wf]

theorem State.failCmd_wf {s : State} (c : Cmd) (code : Byte) (sub : Byte) (addr : W64) (hs : s.wf) : (State.failCmd s c code sub addr).wf := by
  unfold State.failCmd; grind [State.failItem_wf, State.modPkt_wf, State.post_wf, State.endCmd_wf]

theorem State.placeRow_wf {s : State} (c : Cmd) (sp : Nat) (es : Nat) (needs : Needs) (scru : Nat) (deepu : Nat) (a7 : List Nat) : s.wf → (State.placeRow s c sp es needs scru deepu a7).1.wf := by
  fun_induction State.placeRow s c sp es needs scru deepu a7 <;> grind [State.mapAccess_wf]

theorem State.planRows_wf {s : State} (c : Cmd) (local_ : Bool × Bool) (cut : TileEnd) (a4 : List Nat) : s.wf → (State.planRows s c local_ cut a4).1.wf := by
  fun_induction State.planRows s c local_ cut a4 <;> grind [State.placeRow_wf]

theorem State.afterPlan_wf {s : State} (c : Cmd) (e : TileEnd) (work fin : State → State)
    (hw : ∀ s, s.wf → (work s).wf) (hf : ∀ s, s.wf → (fin s).wf) (hs : s.wf) : (State.afterPlan s c e work fin).wf := by
  unfold State.afterPlan
  split
  · grind [State.request_wf, State.modCmd_wf]
  · exact State.failCmd_wf (hs := hw _ hs) ..
  · exact hs
  · exact hs
  · exact hf _ (hw _ hs)


theorem State.askPeers_wf {s : State} (c : Cmd) (plan : List (List Spot × List Spot)) (e : TileEnd) (go : State → State)
    (hg : ∀ s, s.wf → (go s).wf) (hs : s.wf) : (State.askPeers s c plan e go).wf := by
  unfold State.askPeers
  dsimp only
  split
  · exact State.afterPlan_wf _ _ _ _ (fun _ h => h) (fun _ h => h) hs
  · split
    · exact State.failCmd_wf _ _ _ _ hs
    · split
      · exact hs
      · split
        · exact State.modCmd_wf _ _ (State.sendReads_wf _ _ _ hs)
        · exact hg _ hs


theorem State.dropSpot_wf {s : State} (g : Option Nat) (x : Spot) (hs : s.wf) : (State.dropSpot s g x).wf := by
  unfold State.dropSpot; grind [State.dropBytesL1_wf]

theorem State.readSpot_wf {s : State} (g : Option Nat) (x : Spot) (got : Option (List Byte)) (hs : s.wf) : (State.readSpot s g x got).1.wf := by
  unfold State.readSpot; grind [State.readPlaced_wf, State.dropSpot_wf]

theorem State.readSpots_wf {s : State} (g : Option Nat) (got : List (Nat × List Byte)) (part : Nat) (a4 : List Spot) : s.wf → (State.readSpots s g got part a4).1.wf := by
  fun_induction State.readSpots s g got part a4 <;> grind [State.readSpot_wf]

theorem State.cmdRnf_wf {s : State} (c : Cmd) (b : Bool) (hs : s.wf) : (State.cmdRnf s c b).wf := by
  unfold State.cmdRnf; grind [State.chkstat_wf]

theorem State.outRows_wf {s : State} (c : Cmd) (r : Nat) (part : Nat) (a4 : List (List Spot × List Spot)) : s.wf → (State.outRows s c r part a4).1.wf := by
  fun_induction State.outRows s c r part a4 <;> grind [State.readSpots_wf, State.cmdRnf_wf]

theorem State.sendParts_wf {s : State} (c : Cmd) (part : Nat) (a3 : List PeerPart) : s.wf → (State.sendParts s c part a3).1.wf := by
  fun_induction State.sendParts s c part a3 <;> grind [State.sendReq_wf]

theorem State.sent_wf {s : State} (c : Cmd) (lost : Option Nat) (hs : s.wf) : (State.sent s c lost).wf := by
  unfold State.sent; grind [State.modCmd_wf, State.failCmd_wf]

theorem State.runOut_wf {s : State} (c : Cmd) (damage : Byte) (at_ : Nat) (hs : s.wf) : (State.runOut s c damage at_).wf := by
  unfold State.runOut
  dsimp only
  split
  · exact State.failCmd_wf _ _ _ _ hs
  · refine State.askPeers_wf _ _ _ _ (fun _ h => ?_) (State.planRows_wf _ _ _ _ hs)
    split
    · exact h
    · split
      · exact State.failCmd_wf _ _ _ _ (State.sendParts_wf _ _ _ (State.outRows_wf _ _ _ _ h))
      · exact State.sent_wf _ _ (State.modCmd_wf _ _ (State.sendParts_wf _ _ _ (State.outRows_wf _ _ _ _ h)))


theorem State.addCmd_wf {s : State} (e : Env) (pc : W64) (k : CmdKind) (b : Block) (list : Nat) (hs : s.wf) : (State.addCmd s e pc k b list).wf := by
  unfold State.addCmd; grind [State.modCtx_wf, State.modGroup_wf, State.closeBatch_wf]

theorem issueCmd_wf (k : CmdKind) (x : BitVec 6) (y : Option (BitVec 6)) (e : Env) (pc : W64) {s : State} (hs : s.wf) : (issueCmd k x y e pc s).1.wf := by
  unfold issueCmd; grind [State.addCmd_wf]

theorem State.moved_wf {s : State} (c : Cmd) (hs : s.wf) : (State.moved s c).wf := by
  unfold State.moved; grind [State.modCmd_wf, State.endCmd_wf]

theorem State.writeSpot_wf {s : State} (c : Cmd) (x : Spot) (bs : List Byte) (hs : s.wf) : (State.writeSpot s c x bs).wf := by
  unfold State.writeSpot; grind [State.dropSpot_wf, State.localWrite_wf, State.sendWrites_wf, State.modGroup_wf]

theorem State.writeSpots_wf {s : State} (c : Cmd) (es : Nat) (bs : List Byte) (a4 : List Spot) : s.wf → (State.writeSpots s c es bs a4).wf := by
  fun_induction State.writeSpots s c es bs a4 <;> grind [State.writeSpot_wf]

theorem State.moveRows_wf {s : State} (c : Cmd) (part : Nat) (a3 : List (List Spot × List Spot)) : s.wf → (State.moveRows s c part a3).wf := by
  fun_induction State.moveRows s c part a3 <;> grind [State.readSpots_wf, State.writeSpots_wf, State.cmdRnf_wf]

theorem State.runLocal_wf {s : State} (c : Cmd) (damage : Byte) (at_ : Nat) (hs : s.wf) : (State.runLocal s c damage at_).wf := by
  unfold State.runLocal
  exact State.askPeers_wf _ _ _ _ (fun _ h => State.afterPlan_wf _ _ _ _ (fun s hs => State.moveRows_wf _ _ _ hs)
    (fun s hs => State.moved_wf _ hs) h) (State.planRows_wf _ _ _ _ hs)


theorem State.runAtoms_wf {s : State} (c : Cmd) (hs : s.wf) : (State.runAtoms s c).wf := by
  unfold State.runAtoms; grind [State.failCmd_wf, State.sendParts_wf, State.sent_wf]

theorem State.runIn_wf {s : State} (c : Cmd) (hs : s.wf) : (State.runIn s c).wf := by
  unfold State.runIn; grind [State.failCmd_wf, State.sendParts_wf, State.sent_wf]

theorem State.runCmd_wf {s : State} (c : Cmd) (damage : Byte) (at_ : Nat) (hs : s.wf) : (State.runCmd s c damage at_).wf := by
  unfold State.runCmd; grind [State.runAtoms_wf, State.failCmd_wf, State.runOut_wf, State.runIn_wf, State.runLocal_wf]

theorem State.failPkt_wf {s : State} (p : Nat) (code : Byte) (sub : Byte) (addr : Nat) (hs : s.wf) : (State.failPkt s p code sub addr).wf := by
  unfold State.failPkt; grind [State.endPkt_wf, State.post_wf]

theorem State.readWords_wf {s : State} (ctx : Nat) (core : Nat) (a3 : List Nat) : s.wf → (State.readWords s ctx core a3).1.wf := by
  fun_induction State.readWords s ctx core a3 <;> grind [State.vread_wf]

theorem State.readBlocks_wf {s : State} (ctx : Nat) (core : Nat) (va : Nat) (n : Nat) : s.wf → (State.readBlocks s ctx core va n).1.wf := by
  fun_induction State.readBlocks s ctx core va n <;> grind [State.readWords_wf]

theorem State.placeFor_wf {s : State} (e : Env) (va : W64) (n : Nat) (needs : Needs)
    (f : State → List Nat → List Nat → Nat → State × Issued) (hf : ∀ s a b c, s.wf → (f s a b c).1.wf) (hs : s.wf) :
    (State.placeFor s e va n needs f).1.wf := by
  unfold State.placeFor
  have h := State.mapAccess_wf (s := s) e.gr.ctx e.gr.core va.toNat n needs false hs
  split <;> rename_i heq <;> rw [heq] at h
  · exact h
  · exact h
  · exact hf _ _ _ _ h

theorem issueEvt_wf (x : BitVec 6) (code : BitVec 8) (e : Env) (pc : W64) {s : State} (hs : s.wf) : (issueEvt x code e pc s).1.wf := by
  unfold issueEvt
  dsimp only
  split
  · split
    · exact hs
    · refine State.placeFor_wf _ _ _ _ _ (fun s _ _ _ hs => ?_) hs
      exact State.setCluster_wf _ _ (State.complete_wf _ _ hs)
  · exact State.modKernel_wf _ _ (State.complete_wf _ _ hs)

theorem State.enqHost_wf {s : State} (e : Env) (w : Swap) (hs : s.wf) : (State.enqHost s e w).1.wf := by
  unfold State.enqHost; grind [State.free_wf, State.placeFor_wf, State.sendReq_wf, State.linkStore_wf]

theorem State.askTail_wf {s : State} (e : Env) (w : Swap) (hs : s.wf) : (State.askTail s e w).1.wf := by
  unfold State.askTail; grind [State.askPeer_wf]

theorem State.enqTail_wf {s : State} (e : Env) (pc : W64) (tl : W64) (p : W64) (hs : s.wf) : (State.enqTail s e pc tl p).1.wf := by
  unfold State.enqTail; grind [State.placeFor_wf, State.enqHost_wf, State.askTail_wf, State.linkStore_wf, State.enqWrite_wf]

theorem issueEnq_wf (x y : BitVec 6) (e : Env) (pc : W64) {s : State} (hs : s.wf) : (issueEnq x y e pc s).1.wf := by
  unfold issueEnq
  dsimp only
  repeat' split
  all_goals try exact hs
  refine State.placeFor_wf _ _ _ _ _ (fun s ppas pvas pnode hs => ?_) hs
  split
  · exact State.enqTail_wf _ _ _ _ (State.enqWrite_wf _ _ _ _ _ _ hs)
  · split
    · exact State.enqTail_wf _ _ _ _ (State.sendReq_wf _ _ _ _ _ _ _ hs)
    · split
      · exact hs
      · exact State.askPeer_wf _ _ _ _ _ _ _ _ _ hs


theorem State.inRows_wf {s : State} (c : Cmd) (data : List Byte) (a3 : List (List Spot × List Spot)) : s.wf → (State.inRows s c data a3).wf := by
  fun_induction State.inRows s c data a3 <;> grind [State.writeSpots_wf, State.cmdRnf_wf]

theorem State.finishRemote_wf {s : State} (c : Cmd) (damage : Byte) (at_ : Nat) (hs : s.wf) :
    (State.finishRemote s c damage at_).wf := by
  unfold State.finishRemote
  dsimp only
  split
  · grind [State.endCmd_wf, State.modGroup_wf]
  · split
    · exact State.endCmd_wf _ hs
    · split
      · exact State.askPeers_wf _ _ _ _ (fun _ h => State.afterPlan_wf _ _ _ _
          (fun s h => by apply State.inRows_wf; exact h) (fun _ h => State.moved_wf _ h) h) (State.planRows_wf _ _ _ _ hs)
      · split
        · exact State.runOut_wf _ _ _ hs
        · exact State.runLocal_wf _ _ _ hs


theorem execCommandComplete_wf (cmd : Ending) {s : State} (hs : s.wf) {out : State} (ht : execCommandComplete cmd s = .next out) : out.wf := by
  unfold execCommandComplete at ht; grind [State.count_wf, State.finishRemote_wf, State.runCmd_wf]

theorem execCopyPacketRun_wf (pkt : Nat) {s : State} (hs : s.wf) {out : State} (ht : execCopyPacketRun pkt s = .next out) : out.wf := by
  unfold execCopyPacketRun at ht; grind [State.readBlocks_wf, State.failPkt_wf, State.request_wf, State.modPkt_wf, State.modCtx_wf, State.repoint_wf]

theorem State.swapStep_wf {s : State} (e : Env) (w : Swap) (v : W64) (hs : s.wf) : (State.swapStep s e w v).1.wf := by
  unfold State.swapStep; grind [State.setSwap_wf, State.enqTail_wf, State.placeFor_wf, State.askTail_wf, State.linkStore_wf]

theorem State.swapFails_wf {s : State} (e : Env) (w : Swap) (code : Byte) (sub : Byte) (hs : s.wf) :
    (State.swapFails s e w code sub).1.wf := by
  have h : (s.setSwap e.g e.tid none).wf := State.setSwap_wf e.g e.tid none hs
  unfold State.swapFails
  rcases w with ⟨tid, pc, tl, p, tpa, node, num, ph⟩
  cases ph with
  | link old => exact State.linkFails_wf e pc old code sub hs
  | image => exact h
  | read => exact h
  | exchange a b c d => exact h

/-! ### Machine/Sign.lean -/

theorem State.freeSigners_wf {s : State} (g : Nat) (n : Nat) (hs : s.wf) : (State.freeSigners s g n).wf := by
  unfold State.freeSigners; grind [State.modGroup_wf]

theorem State.passHeld_wf {s : State} (e : Env) (n : Nat) (but : Option Nat) (hs : s.wf) : (State.passHeld s e n but).wf := by
  unfold State.passHeld; grind [State.retireEach_wf]

theorem State.signerFault_wf {s : State} (g : Nat) (tid : Nat) (n : Nat) (pc : W64) (stamp : Nat) (code : Byte) (sub : Byte) (addr : W64) (hs : s.wf) : (State.signerFault s g tid n pc stamp code sub addr).wf := by
  unfold State.signerFault; grind [State.deliver_wf, State.modThread_wf, State.addLate_wf]

theorem State.endCv_wf (e : Env) (n : Nat) (cv : Cv) (pc : W64) (signs : Bool) (r : State × Issued) (hr : r.1.wf) :
    (State.endCv e n cv pc signs r).1.wf := by
  obtain ⟨s, i⟩ := r
  cases i <;> simp only [State.endCv] <;> grind [State.retire_wf, State.modGroup_wf, State.waitAt_wf, State.pageAt_wf, State.freeSigners_wf, State.passHeld_wf, State.faultAt_wf, State.signerFault_wf]


theorem issueWord_wf (i : Instr) (signers : List Nat) (e : Env) (pc : W64) {s : State} (hs : s.wf) :
    (issueWord i signers e pc s).1.wf := by
  cases i
  case copy => exact issueCmd_wf (pc := pc) (hs := hs) ..
  case copyR => exact issueCmd_wf (pc := pc) (hs := hs) ..
  case chain => exact issueCmd_wf (pc := pc) (hs := hs) ..
  case gather => exact issueCmd_wf (pc := pc) (hs := hs) ..
  case scatter => exact issueCmd_wf (pc := pc) (hs := hs) ..
  case atomR => exact issueCmd_wf (pc := pc) (hs := hs) ..
  case commit => exact issueCommit_wf _ pc hs
  case enq => exact issueEnq_wf _ _ _ pc hs
  case evt => exact issueEvt_wf (pc := pc) (hs := hs) ..
  case tld => exact issueMove_wf (pc := pc) (hs := hs) ..
  case tst => exact issueMove_wf (pc := pc) (hs := hs) ..
  case tzero => exact issueTzero_wf (pc := pc) (hs := hs) ..
  case qnt => exact issueQnt_wf (pc := pc) (hs := hs) ..
  case tcvt => exact issueTcvt_wf (pc := pc) (hs := hs) ..
  case mmaBf16 => exact issueMma_wf (pc := pc) (hs := hs) ..
  case mmaF16 => exact issueMma_wf (pc := pc) (hs := hs) ..
  case mmaE4m3 => exact issueMma_wf (pc := pc) (hs := hs) ..
  case mmaE5m2 => exact issueMma_wf (pc := pc) (hs := hs) ..
  case mmaE2m3 => exact issueMma_wf (pc := pc) (hs := hs) ..
  case mmaE3m2 => exact issueMma_wf (pc := pc) (hs := hs) ..
  case mmaE2m1 => exact issueMma_wf (pc := pc) (hs := hs) ..
  case mmaDl8 => exact issueMma_wf (pc := pc) (hs := hs) ..
  case mmaS8 => exact issueMma_wf (pc := pc) (hs := hs) ..
  case mmaS4 => exact issueMma_wf (pc := pc) (hs := hs) ..
  case scacc => exact issueScacc_wf (pc := pc) (hs := hs) ..
  case aclr => exact issueAclr_wf (pc := pc) (hs := hs) ..
  case amov => exact issueAmov_wf (pc := pc) (hs := hs) ..
  case ast => exact issueAccMove_wf (pc := pc) (hs := hs) ..
  case ald => exact issueAccMove_wf (pc := pc) (hs := hs) ..
  case tchk => exact issueTchk_wf (pc := pc) (hs := hs) ..
  all_goals exact hs

theorem State.issueCv_wf {s : State} (g : Nat) (cv : Cv) (i : Instr) (pc : W64) (hs : s.wf) : (State.issueCv s g cv i pc).1.wf := by
  unfold State.issueCv; grind [State.free_wf, issueWord_wf]

theorem State.completeCv_wf {s : State} (e : Env) (n : Nat) (cv : Cv) (i : Instr) (pc : W64) (signs : Bool) (hs : s.wf) : (State.completeCv s e n cv i pc signs).1.wf := by
  unfold State.completeCv; grind [State.endCv_wf, State.issueCv_wf]

theorem State.releaseHeld_wf {s : State} (e : Env) (n : Nat) (hs : s.wf) : (State.releaseHeld s e n).wf := by
  unfold State.releaseHeld; grind [State.passHeld_wf]

theorem State.withdrawLast_wf {s : State} (e : Env) (n : Nat) (hs : s.wf) : (State.withdrawLast s e n).wf := by
  unfold State.withdrawLast; grind [State.releaseHeld_wf, State.modGroup_wf]

theorem State.settleCv_wf {s : State} (g : Nat) (tid : Nat) (n : Nat) (hs : s.wf) : (State.settleCv s g tid n).wf := by
  unfold State.settleCv; grind [State.completeCv_wf, State.withdrawLast_wf, State.releaseHeld_wf]

theorem State.sign_wf {s : State} (e : Env) (i : Instr) (n : Nat) (hs : s.wf) : (State.sign s e i n).wf := by
  unfold State.sign; grind [State.faultAt_wf, State.settleCv_wf, State.waitAt_wf, State.modGroup_wf, State.completeCv_wf, State.releaseHeld_wf, State.retire_wf]

theorem runSigned_wf (i : Instr) (n : BitVec 3) {s out : State} (hs : s.wf) (ht : runSigned i n s = .next out) : out.wf :=
  runWord_wf hs (fun _ _ hs => State.sign_wf _ _ _ hs) ht

theorem State.releaseAll_wf {s : State} (e : Env) (a2 : List Nat) : s.wf → (State.releaseAll s e a2).wf := by
  fun_induction State.releaseAll s e a2 <;> grind [State.releaseHeld_wf]

theorem execMmaF16_wf (a : BitVec 5) (t : BitVec 4) (u : BitVec 4) (c : BitVec 3) (f : BitVec 2) (k : BitVec 6) {s : State} (hs : s.wf) {out : State} (ht : execMmaF16 a t u c f k s = .next out) : out.wf := by
  unfold execMmaF16 at ht; grind [runSigned_wf]

theorem execMmaE2m3_wf (a : BitVec 5) (t : BitVec 4) (u : BitVec 4) (c : BitVec 3) (f : BitVec 2) (k : BitVec 6) {s : State} (hs : s.wf) {out : State} (ht : execMmaE2m3 a t u c f k s = .next out) : out.wf := by
  unfold execMmaE2m3 at ht; grind [runSigned_wf]

theorem execTcvt_wf (d : BitVec 4) (s : BitVec 4) (c : BitVec 3) {st : State} (hst : st.wf) {out : State} (ht : execTcvt d s c st = .next out) : out.wf := by
  unfold execTcvt at ht; grind [runSigned_wf]

theorem execCopyR_wf (x : BitVec 6) (c : BitVec 3) {s : State} (hs : s.wf) {out : State} (ht : execCopyR x c s = .next out) : out.wf := by
  unfold execCopyR at ht; grind [runSigned_wf]

theorem execCvdecl_wf (c : BitVec 3) (l : BitVec 1) (a : BitVec 6) {s : State} (hs : s.wf) {out : State} (ht : execCvdecl c l a s = .next out) : out.wf := by
  unfold execCvdecl at ht; refine runWord_wf hs (fun e s hs => ?_) ht; grind [State.faultAt_wf, State.retire_wf, State.modGroup_wf]

theorem execEvt_wf (x : BitVec 6) (c : BitVec 3) (e : BitVec 8) {s : State} (hs : s.wf) {out : State} (ht : execEvt x c e s = .next out) : out.wf := by
  unfold execEvt at ht; grind [runSigned_wf]

theorem execScacc_wf (d : BitVec 5) (p : BitVec 5) (a : BitVec 6) (c : BitVec 3) {s : State} (hs : s.wf) {out : State} (ht : execScacc d p a c s = .next out) : out.wf := by
  unfold execScacc at ht; grind [runSigned_wf]

theorem execMmaE5m2_wf (a : BitVec 5) (t : BitVec 4) (u : BitVec 4) (c : BitVec 3) (f : BitVec 2) (k : BitVec 6) {s : State} (hs : s.wf) {out : State} (ht : execMmaE5m2 a t u c f k s = .next out) : out.wf := by
  unfold execMmaE5m2 at ht; grind [runSigned_wf]

theorem execChain_wf (x : BitVec 6) (c : BitVec 3) {s : State} (hs : s.wf) {out : State} (ht : execChain x c s = .next out) : out.wf := by
  unfold execChain at ht; grind [runSigned_wf]

theorem execCommit_wf (c : BitVec 3) {s : State} (hs : s.wf) {out : State} (ht : execCommit c s = .next out) : out.wf := by
  unfold execCommit at ht; grind [runSigned_wf]

theorem execMmaE4m3_wf (a : BitVec 5) (t : BitVec 4) (u : BitVec 4) (c : BitVec 3) (f : BitVec 2) (k : BitVec 6) {s : State} (hs : s.wf) {out : State} (ht : execMmaE4m3 a t u c f k s = .next out) : out.wf := by
  unfold execMmaE4m3 at ht; grind [runSigned_wf]

theorem execTzero_wf (t : BitVec 4) (c : BitVec 3) {s : State} (hs : s.wf) {out : State} (ht : execTzero t c s = .next out) : out.wf := by
  unfold execTzero at ht; grind [runSigned_wf]

theorem State.swapAnswer_wf {s : State} (g tid num : Nat) (v : Option W64) (code sub : Byte) (hs : s.wf) :
    (State.swapAnswer s g tid num v code sub).wf := by
  have h0 : s.free.2.wf := State.free_wf hs
  unfold State.swapAnswer
  dsimp only
  split
  · exact h0
  · rename_i e _
    split
    · exact h0
    · rename_i w _
      split
      · exact State.setSwap_wf _ _ _ h0
      · split
        · exact State.modGroup_wf _ _ (State.setSwap_wf _ _ _ h0)
        · have hf := State.swapFails_wf e w code sub h0
          have ht := fun v => State.swapStep_wf e w v h0
          cases v with
          | none =>
            generalize s.free.2.swapFails e w code sub = r at hf ⊢
            obtain ⟨t, i⟩ := r
            cases i <;> grind [State.modGroup_wf, State.setSwap_wf, State.pageAt_wf, State.endCv_wf]
          | some v =>
            have hv := ht v
            generalize s.free.2.swapStep e w v = r at hv ⊢
            obtain ⟨t, i⟩ := r
            cases i <;> grind [State.modGroup_wf, State.setSwap_wf, State.pageAt_wf, State.endCv_wf]


theorem execGather_wf (x : BitVec 6) (y : BitVec 6) (c : BitVec 3) {s : State} (hs : s.wf) {out : State} (ht : execGather x y c s = .next out) : out.wf := by
  unfold execGather at ht; grind [runSigned_wf]

theorem execEnq_wf (x : BitVec 6) (y : BitVec 6) (c : BitVec 3) {s : State} (hs : s.wf) {out : State} (ht : execEnq x y c s = .next out) : out.wf := by
  unfold execEnq at ht; grind [runSigned_wf]

theorem execQnt_wf (d : BitVec 4) (s : BitVec 4) (h : BitVec 3) (a : BitVec 6) (c : BitVec 3) {st : State} (hst : st.wf) {out : State} (ht : execQnt d s h a c st = .next out) : out.wf := by
  unfold execQnt at ht; grind [runSigned_wf]

theorem execTchk_wf (d : BitVec 6) (t : BitVec 4) (c : BitVec 3) {s : State} (hs : s.wf) {out : State} (ht : execTchk d t c s = .next out) : out.wf := by
  unfold execTchk at ht; grind [runSigned_wf]

theorem State.enterBySlot_wf {s : State} (e : Env) (hs : s.wf) : (State.enterBySlot s e).wf := by
  unfold State.enterBySlot; grind [State.setCore_wf]

theorem State.exitIssues_wf {s : State} (e : Env) (a2 : List Nat) : s.wf → (State.exitIssues s e a2).1.wf := by
  fun_induction State.exitIssues s e a2 <;> grind [State.completeCv_wf, State.enterBySlot_wf]

theorem State.settleCvs_wf {s : State} (g : Nat) (tid : Nat) (a3 : List Nat) : s.wf → (State.settleCvs s g tid a3).wf := by
  fun_induction State.settleCvs s g tid a3 <;> grind [State.settleCv_wf]

theorem execTld_wf (t : BitVec 4) (a : BitVec 6) (b : BitVec 6) (c : BitVec 3) {s : State} (hs : s.wf) {out : State} (ht : execTld t a b c s = .next out) : out.wf := by
  unfold execTld at ht; grind [runSigned_wf]

theorem execAclr_wf (a : BitVec 5) (c : BitVec 3) {s : State} (hs : s.wf) {out : State} (ht : execAclr a c s = .next out) : out.wf := by
  unfold execAclr at ht; grind [runSigned_wf]

theorem execMmaE2m1_wf (a : BitVec 5) (t : BitVec 4) (u : BitVec 4) (c : BitVec 3) (f : BitVec 2) (k : BitVec 6) {s : State} (hs : s.wf) {out : State} (ht : execMmaE2m1 a t u c f k s = .next out) : out.wf := by
  unfold execMmaE2m1 at ht; grind [runSigned_wf]

theorem State.unenqAll_wf {s : State} (gs : List Nat) (hs : s.wf) : (State.unenqAll s gs).wf := by
  unfold State.unenqAll; grind [State.mapGroups_wf]

theorem execMmaS4_wf (a : BitVec 5) (t : BitVec 4) (u : BitVec 4) (c : BitVec 3) (f : BitVec 2) (k : BitVec 6) {s : State} (hs : s.wf) {out : State} (ht : execMmaS4 a t u c f k s = .next out) : out.wf := by
  unfold execMmaS4 at ht; grind [runSigned_wf]

theorem execCopy_wf (x : BitVec 6) (c : BitVec 3) {s : State} (hs : s.wf) {out : State} (ht : execCopy x c s = .next out) : out.wf := by
  unfold execCopy at ht; grind [runSigned_wf]

theorem State.orphan_wf {s : State} (g : Nat) (n : Nat) (pc : W64) (a4 : List Nat) : s.wf → (State.orphan s g n pc a4).wf := by
  fun_induction State.orphan s g n pc a4 <;> grind [State.signerFault_wf]

theorem State.exitCvs_wf {s : State} (g : Nat) (tid : Nat) (a3 : List Nat) : s.wf → (State.exitCvs s g tid a3).wf := by
  fun_induction State.exitCvs s g tid a3 <;> grind [State.orphan_wf, State.freeSigners_wf, State.modGroup_wf]

theorem execMmaE3m2_wf (a : BitVec 5) (t : BitVec 4) (u : BitVec 4) (c : BitVec 3) (f : BitVec 2) (k : BitVec 6) {s : State} (hs : s.wf) {out : State} (ht : execMmaE3m2 a t u c f k s = .next out) : out.wf := by
  unfold execMmaE3m2 at ht; grind [runSigned_wf]

theorem execScatter_wf (x : BitVec 6) (y : BitVec 6) (c : BitVec 3) {s : State} (hs : s.wf) {out : State} (ht : execScatter x y c s = .next out) : out.wf := by
  unfold execScatter at ht; grind [runSigned_wf]

theorem execMmaBf16_wf (a : BitVec 5) (t : BitVec 4) (u : BitVec 4) (c : BitVec 3) (f : BitVec 2) (k : BitVec 6) {s : State} (hs : s.wf) {out : State} (ht : execMmaBf16 a t u c f k s = .next out) : out.wf := by
  unfold execMmaBf16 at ht; grind [runSigned_wf]

theorem execAmov_wf (a : BitVec 5) (t : BitVec 4) (r : BitVec 1) (c : BitVec 3) {s : State} (hs : s.wf) {out : State} (ht : execAmov a t r c s = .next out) : out.wf := by
  unfold execAmov at ht; grind [runSigned_wf]

theorem execAld_wf (a : BitVec 5) (x : BitVec 6) (b : BitVec 6) (c : BitVec 3) {s : State} (hs : s.wf) {out : State} (ht : execAld a x b c s = .next out) : out.wf := by
  unfold execAld at ht; grind [runSigned_wf]

theorem execTst_wf (t : BitVec 4) (a : BitVec 6) (b : BitVec 6) (c : BitVec 3) {s : State} (hs : s.wf) {out : State} (ht : execTst t a b c s = .next out) : out.wf := by
  unfold execTst at ht; grind [runSigned_wf]

theorem execMmaDl8_wf (a : BitVec 5) (t : BitVec 4) (u : BitVec 4) (c : BitVec 3) (f : BitVec 2) (k : BitVec 6) {s : State} (hs : s.wf) {out : State} (ht : execMmaDl8 a t u c f k s = .next out) : out.wf := by
  unfold execMmaDl8 at ht; grind [runSigned_wf]

theorem execAst_wf (a : BitVec 5) (x : BitVec 6) (b : BitVec 6) (c : BitVec 3) {s : State} (hs : s.wf) {out : State} (ht : execAst a x b c s = .next out) : out.wf := by
  unfold execAst at ht; grind [runSigned_wf]

theorem execAtomR_wf (x : BitVec 6) (c : BitVec 3) {s : State} (hs : s.wf) {out : State} (ht : execAtomR x c s = .next out) : out.wf := by
  unfold execAtomR at ht; grind [runSigned_wf]

theorem execMmaS8_wf (a : BitVec 5) (t : BitVec 4) (u : BitVec 4) (c : BitVec 3) (f : BitVec 2) (k : BitVec 6) {s : State} (hs : s.wf) {out : State} (ht : execMmaS8 a t u c f k s = .next out) : out.wf := by
  unfold execMmaS8 at ht; grind [runSigned_wf]

/-! ### Machine/Ctrl.lean -/

theorem State.releaseBar_wf {s : State} (e : Env) (n : Nat) (hs : s.wf) : (State.releaseBar s e n).wf := by
  unfold State.releaseBar; grind [State.retireEach_wf, State.modGroup_wf]

theorem State.raise_wf {s : State} (e : Env) (code : Byte) (n : BitVec 16) (hs : s.wf) : (State.raise s e code n).wf := by
  unfold State.raise; grind [State.deliver_wf, State.leaveClause_wf]

theorem execRft_wf {s : State} (hs : s.wf) {out : State} (ht : execRft s = .next out) : out.wf := by
  unfold execRft at ht; refine runWord_wf hs (fun e s hs => ?_) ht; grind [State.faultAt_wf, State.dropHolds_wf, State.retireAt_wf, State.fetch_wf, State.pageAt_wf]

theorem State.breakAt_wf {s : State} (e : Env) (sub : Byte) (addr : W64) (scope : Nat) (t : Thread) (hs : s.wf) : (State.breakAt s e sub addr scope t).wf := by
  unfold State.breakAt; grind [State.faultFirst_wf, State.retireAt_wf, State.holdAll_wf, State.unenqAll_wf, State.modThread_wf, State.post_wf]

theorem execYield_wf {s : State} (hs : s.wf) {out : State} (ht : execYield s = .next out) : out.wf := by
  unfold execYield at ht; grind [runThread_wf]

theorem State.target_wf {s : State} (e : Env) (t : W64) (mis : Bool) (sub : Byte) (go : State → State)
    (hg : ∀ s, s.wf → (go s).wf) (hs : s.wf) : (State.target s e t mis sub go).wf := by
  unfold State.target
  have h := State.fetch_wf (s := s) e.gr t hs
  split
  · exact State.faultAt_wf _ _ _ _ hs
  · split <;> rename_i heq <;> rw [heq] at h
    · exact State.pageAt_wf _ _ _ _ _ h
    · exact State.faultAt_wf _ _ _ _ h
    · split
      · exact hg _ h
      · exact State.faultAt_wf _ _ _ _ h


theorem execCallx_wf (a g : BitVec 6) {s out : State} (hs : s.wf) (ht : execCallx a g s = .next out) : out.wf := by
  refine runWord_wf hs (fun e s hs => ?_) ht
  dsimp only
  split
  · exact State.faultAt_wf _ _ _ _ hs
  · exact State.target_wf _ _ _ _ _ (fun _ hs => State.retireAt_wf _ _ hs) hs


theorem State.rearriveEach_wf {s : State} (e : Env) (n : Nat) (a3 : List Thread) : s.wf → (State.rearriveEach s e n a3).wf := by
  fun_induction State.rearriveEach s e n a3 <;> grind [State.modGroup_wf, State.modThread_wf, State.retireEach_wf]

theorem State.completeBar_wf {s : State} (e : Env) (n : Nat) (hs : s.wf) : (State.completeBar s e n).wf := by
  unfold State.completeBar; grind [State.releaseBar_wf, State.rearriveEach_wf, State.modGroup_wf]

theorem State.arrive_wf {s : State} (e : Env) (n : Nat) (sync : Bool) (hs : s.wf) : (State.arrive s e n sync).wf := by
  unfold State.arrive; grind [State.faultAt_wf, State.waitAt_wf, State.modGroup_wf, State.retire_wf, State.completeBar_wf]

theorem execBarcfg_wf (b : BitVec 4) (a : BitVec 6) {s : State} (hs : s.wf) {out : State} (ht : execBarcfg b a s = .next out) : out.wf := by
  unfold execBarcfg at ht; refine runWord_wf hs (fun e s hs => ?_) ht; grind [State.faultAt_wf, State.retire_wf, State.modGroup_wf]

theorem State.checkBar_wf {s : State} (e : Env) (n : Nat) (hs : s.wf) : (State.checkBar s e n).wf := by
  unfold State.checkBar; grind [State.completeBar_wf]

theorem State.checkBars_wf {s : State} (e : Env) (a2 : List Nat) : s.wf → (State.checkBars s e a2).wf := by
  fun_induction State.checkBars s e a2 <;> grind [State.checkBar_wf]

theorem execExit_wf (g : BitVec 6) {s : State} (hs : s.wf) {out : State} (ht : execExit g s = .next out) : out.wf := by
  unfold execExit at ht; refine runWord_wf hs (fun e s hs => ?_) ht; grind [State.releaseAll_wf, State.exitIssues_wf, State.dropHolds_wf, State.modGroup_wf, State.retireAt_wf, State.closeBatch_wf, State.slipCheck_wf, State.exitCvs_wf, State.checkBars_wf]

theorem execRep_wf (c : BitVec 8) (m : BitVec 4) (st : BitVec 4) {s : State} (hs : s.wf) {out : State} (ht : execRep c m st s = .next out) : out.wf := by
  unfold execRep at ht; refine runWord_wf hs (fun e s hs => ?_) ht; grind [State.faultAt_wf, State.fetch_wf, State.pageAt_wf, State.deliver_wf, State.retire_wf, State.retireAt_wf]

theorem execWait_wf (m : BitVec 3) (c : BitVec 3) (st : BitVec 3) (l : BitVec 3) {s : State} (hs : s.wf) {out : State} (ht : execWait m c st l s = .next out) : out.wf := by
  unfold execWait at ht; refine runWord_wf hs (fun e s hs => ?_) ht; grind [State.retireOps_wf, State.closeBatch_wf, State.retire_wf, State.waitAt_wf]

theorem execCall_wf (o : BitVec 18) (g : BitVec 6) {s out : State} (hs : s.wf) (ht : execCall o g s = .next out) : out.wf := by
  refine runWord_wf hs (fun e s hs => ?_) ht
  dsimp only
  split
  · exact State.faultAt_wf _ _ _ _ hs
  · exact State.target_wf _ _ _ _ _ (fun _ hs => State.retireAt_wf _ _ hs) hs


theorem State.awaitUntil_wf {s : State} (e : Env) (lim : Nat) (hs : s.wf) : (State.awaitUntil s e lim).wf := by
  unfold State.awaitUntil; grind [State.after_wf, State.waitAt_wf]

theorem execBra_wf (o : BitVec 18) (g : BitVec 6) {s out : State} (hs : s.wf) (ht : execBra o g s = .next out) : out.wf :=
  runWord_wf hs (fun _ _ hs => State.target_wf _ _ _ _ _ (fun _ hs => State.retireAt_wf _ _ hs) hs) ht


theorem execTrk_wf (a : BitVec 6) (t : BitVec 12) {s : State} (hs : s.wf) {out : State} (ht : execTrk a t s = .next out) : out.wf := by
  unfold execTrk at ht; refine runWord_wf hs (fun e s hs => ?_) ht; grind [State.spoor_wf, State.retire_wf]

theorem execMwait_wf (d : BitVec 6) (a : BitVec 6) (t : BitVec 1) {s : State} (hs : s.wf) {out : State} (ht : execMwait d a t s = .next out) : out.wf := by
  unfold execMwait at ht; refine runWord_wf hs (fun e s hs => ?_) ht; grind [State.retire_wf, State.awaitUntil_wf, State.waitAt_wf]

theorem execTrap_wf (c : BitVec 16) {s : State} (hs : s.wf) {out : State} (ht : execTrap c s = .next out) : out.wf := by
  unfold execTrap at ht; refine runWord_wf hs (fun e s hs => ?_) ht; grind [State.raise_wf]

theorem execBrx_wf (a g : BitVec 6) {s out : State} (hs : s.wf) (ht : execBrx a g s = .next out) : out.wf :=
  runWord_wf hs (fun _ _ hs => State.target_wf _ _ _ _ _ (fun _ hs => State.retireAt_wf _ _ hs) hs) ht


theorem execBkpt_wf (i : BitVec 16) {s : State} (hs : s.wf) {out : State} (ht : execBkpt i s = .next out) : out.wf := by
  unfold execBkpt at ht; refine runWord_wf hs (fun e s hs => ?_) ht; grind [State.breakAt_wf, State.raise_wf]

theorem execHaltg_wf (sc : BitVec 1) {s : State} (hs : s.wf) {out : State} (ht : execHaltg sc s = .next out) : out.wf := by
  unfold execHaltg at ht; refine runWord_wf hs (fun e s hs => ?_) ht; grind [State.faultAt_wf, State.holdAll_wf, State.modGroup_wf, State.retire_wf, State.waitAt_wf]

theorem execBar_wf (o : BitVec 2) (b : BitVec 4) (p : BitVec 5) {s : State} (hs : s.wf) {out : State} (ht : execBar o b p s = .next out) : out.wf := by
  unfold execBar at ht; refine runWord_wf hs (fun e s hs => ?_) ht; grind [State.arrive_wf, State.waitAt_wf, State.retire_wf]

theorem execRet_wf (g : BitVec 6) {s : State} (hs : s.wf) {out : State} (ht : execRet g s = .next out) : out.wf := by
  unfold execRet at ht; refine runWord_wf hs (fun e s hs => ?_) ht; grind [State.faultAt_wf, State.retireAt_wf]

theorem execAcmark_wf (m : BitVec 16) {s : State} (hs : s.wf) {out : State} (ht : execAcmark m s = .next out) : out.wf := by
  unfold execAcmark at ht; refine runWord_wf hs (fun e s hs => ?_) ht; grind [State.setCore_wf, State.account_wf, State.spill_wf, State.retire_wf]

/-! ### Machine/Special.lean -/

theorem execCkm_wf (m : BitVec 2) {s : State} (hs : s.wf) {out : State} (ht : execCkm m s = .next out) : out.wf := by
  unfold execCkm at ht; refine runWord_wf hs (fun e s hs => ?_) ht; grind [State.slipCheck_wf, State.retire_wf, State.modGroup_wf]

theorem execSwr_wf (a : BitVec 6) (n : BitVec 12) {s : State} (hs : s.wf) {out : State} (ht : execSwr a n s = .next out) : out.wf := by
  unfold execSwr at ht; refine runWord_wf hs (fun e s hs => ?_) ht; grind [State.faultAt_wf, State.retire_wf, State.modGroup_wf]

theorem execSrd_wf (d : BitVec 6) (n : BitVec 12) {s : State} (hs : s.wf) {out : State} (ht : execSrd d n s = .next out) : out.wf := by
  unfold execSrd at ht; refine runWord_wf hs (fun e s hs => ?_) ht; grind [State.retire_wf]

/-! ### Machine/Account.lean -/

theorem State.addCharge_wf {s : State} (n : Nat) (q : Charge) (hs : s.wf) : (State.addCharge s n q).wf := by
  unfold State.addCharge; grind [State.setCore_wf, State.spill_wf]

theorem State.addCharges_wf {s : State} (n : Nat) (a2 : List Charge) : s.wf → (State.addCharges s n a2).wf := by
  fun_induction State.addCharges s n a2 <;> grind [State.addCharge_wf]

theorem State.settle_wf {s : State} (n : Nat) (hs : s.wf) : (State.settle s n).wf := by
  unfold State.settle; grind [State.addCharges_wf, State.setCore_wf]

theorem State.settleCores_wf {s : State} (a1 : List Nat) : s.wf → (State.settleCores s a1).wf := by
  fun_induction State.settleCores s a1 <;> grind [State.settle_wf]

theorem State.settleAll_wf {s : State} (hs : s.wf) : (State.settleAll s).wf := by
  unfold State.settleAll; grind [State.settleCores_wf]

theorem State.addCounts_wf {s : State} (a1 : List (Nat × Nat × Nat × Nat)) : s.wf → (State.addCounts s a1).wf := by
  fun_induction State.addCounts s a1 <;> grind [State.deviceWrite_wf]

theorem execTelemetryAdd_wf {s : State} (hs : s.wf) {out : State} (ht : execTelemetryAdd s = .next out) : out.wf := by
  unfold execTelemetryAdd at ht; grind [State.addCounts_wf]

theorem execAccountSpill_wf {s : State} (hs : s.wf) {out : State} (ht : execAccountSpill s = .next out) : out.wf := by
  unfold execAccountSpill at ht; grind [State.spillAll_wf, State.settleAll_wf]

theorem State.leaveRunning_wf {s : State} (id : Nat) (hs : s.wf) : (State.leaveRunning s id).wf := by
  unfold State.leaveRunning; grind [State.spillAll_wf, State.settleAll_wf]

/-! ### Machine/Mem.lean -/

theorem State.probe_wf {s : State} (ctx : Nat) (core : Nat) (va : Nat) (hs : s.wf) : (State.probe s ctx core va).1.wf := by
  unfold State.probe; grind [State.free_wf, State.tlbFill_wf]

theorem State.tlbProbe_wf {s : State} (ctx : Nat) (core : Nat) (va : Nat) (hs : s.wf) : (State.tlbProbe s ctx core va).1.wf := by
  unfold State.tlbProbe; grind [State.viewsOf_wf, State.probe_wf]

theorem State.deepAccess_wf {s : State} (e : Env) (i : Instr) (va : W64) (n : Nat) (q : Ask) (hs : s.wf) : (State.deepAccess s e i va n q).wf := by
  unfold State.deepAccess; grind [State.faultLane_wf, State.issueAccess_wf]

theorem State.flushBlock_wf {s : State} (e : Env) (w : Window) (blk : Nat) (hs : s.wf) : (State.flushBlock s e w blk).wf := by
  unfold State.flushBlock; grind [State.failItem_wf, State.mapAccess_wf, State.addAccess_wf, State.modGroup_wf]

theorem State.flushBlocks_wf {s : State} (e : Env) (w : Window) (a3 : List Nat) : s.wf → (State.flushBlocks s e w a3).wf := by
  fun_induction State.flushBlocks s e w a3 <;> grind [State.flushBlock_wf]

theorem State.flushWindows_wf {s : State} (e : Env) (o : Nat) (len : Nat) (a4 : List Window) : s.wf → (State.flushWindows s e o len a4).wf := by
  fun_induction State.flushWindows s e o len a4 <;> grind [State.flushBlocks_wf]

theorem State.countS_wf {s : State} (e : Env) (hs : s.wf) : (State.countS s e).wf := by
  unfold State.countS; grind [State.modGroup_wf]

theorem execFlushs_wf (so : BitVec 6) (l : BitVec 6) {s : State} (hs : s.wf) {out : State} (ht : execFlushs so l s = .next out) : out.wf := by
  unfold execFlushs at ht; refine runWord_wf hs (fun e s hs => ?_) ht; grind [State.faultAt_wf, State.retire_wf, State.flushWindows_wf, State.countS_wf]

theorem execTlbp_wf (d : BitVec 6) (a : BitVec 6) {s : State} (hs : s.wf) {out : State} (ht : execTlbp d a s = .next out) : out.wf := by
  unfold execTlbp at ht; refine runWord_wf hs (fun e s hs => ?_) ht; grind [State.issueAccess_wf]

theorem State.finish_wf {s : State} (a : Access) (hs : s.wf) : (State.finish s a).wf := by
  unfold State.finish; grind [State.progress_wf, State.retireOps_wf, State.dropAccess_wf, State.kernelCheck_wf, State.endSample_wf]

theorem State.finishList_wf {s : State} (a1 : List Access) : s.wf → (State.finishList s a1).wf := by
  fun_induction State.finishList s a1 <;> grind [State.finish_wf]

theorem State.finishStores_wf {s : State} (g : Nat) (gone : Nat → Bool) (hs : s.wf) : (State.finishStores s g gone).wf := by
  unfold State.finishStores; grind [State.finishList_wf]

theorem lda_wf (i : Instr) (sc : Scope) (d a : BitVec 6) (z : BitVec 4) {s out : State} (hs : s.wf)
    (ht : lda i sc d a z s = .next out) : out.wf :=
  runWord_wf hs (fun _ _ hs => State.globalAccess_wf _ _ _ _ _ _ _ hs) ht


theorem State.loadBytes_wf {s : State} (a : Access) (hs : s.wf) : (State.loadBytes s a).1.wf := by
  unfold State.loadBytes; grind [State.outdate_wf, State.fillL1_wf, State.dropCtxL1_wf, State.free_wf]

theorem atomic_wf (i : Instr) (kind : AccKind) (sc : Scope) (d a b : BitVec 6) (r : BitVec 2) (o : BitVec 4) {s out : State}
    (hs : s.wf) (ht : atomic i kind sc d a b r o s = .next out) : out.wf :=
  runWord_wf hs (fun _ _ hs => State.globalAccess_wf _ _ _ _ _ _ _ hs) ht


theorem execAtomCore_wf (d : BitVec 6) (a : BitVec 6) (b : BitVec 6) (r : BitVec 2) (o : BitVec 4) {s : State} (hs : s.wf) {out : State} (ht : execAtomCore d a b r o s = .next out) : out.wf := by
  unfold execAtomCore at ht; grind [atomic_wf]

theorem State.failAccess_wf {s : State} (a : Access) (code : Byte) (sub : Byte) (hs : s.wf) : (State.failAccess s a code sub).wf := by
  unfold State.failAccess; grind [State.failItem_wf, State.post_wf, State.modGroup_wf, State.finish_wf]

theorem State.retranslate_wf {s : State} (a : Access) (hs : s.wf) : (State.retranslate s a).1.wf := by
  unfold State.retranslate; grind [State.mapAccess_wf, State.failAccess_wf, State.pageFault_wf, State.request_wf]

theorem State.fillRemote_wf {s : State} (e : Env) (w : Window) (blk : Nat) (va : W64) (pas vas : List Nat) (node : Nat)
    (fill : State → List Byte → State × Touch) (hf : ∀ (t : State) bs, t.wf → (fill t bs).1.wf) (hs : s.wf) :
    (State.fillRemote s e w blk va pas vas node fill).1.wf := by
  unfold State.fillRemote; grind [State.modGroup_wf, State.free_wf, State.emit_wf, State.sendReads_wf]


theorem State.flushed_wf {s : State} (a : Access) (hs : s.wf) : (State.flushed s a).wf := by
  unfold State.flushed; grind [State.modGroup_wf]

theorem execRedaDev_wf (a : BitVec 6) (b : BitVec 6) (r : BitVec 2) (o : BitVec 4) {s : State} (hs : s.wf) {out : State} (ht : execRedaDev a b r o s = .next out) : out.wf := by
  unfold execRedaDev at ht; grind [atomic_wf]

theorem execPref_wf (a : BitVec 6) (h : BitVec 2) (g : BitVec 6) {s : State} (hs : s.wf) {out : State} (ht : execPref a h g s = .next out) : out.wf := by
  unfold execPref at ht; refine runWord_wf hs (fun e s hs => ?_) ht; grind [State.fillL1_wf, State.retire_wf]

theorem State.finishWith_wf {s : State} (a : Access) (v : Nat) (hs : s.wf) : (State.finishWith s a v).wf := by
  unfold State.finishWith; grind [State.finish_wf, State.modThread_wf]

theorem State.answer_wf {s : State} (a : Access) (data : List Byte) (hs : s.wf) : (State.answer s a data).wf := by
  unfold State.answer; grind [State.dropCtxL1_wf, State.finishWith_wf, State.finish_wf, State.flushed_wf]

theorem State.performRemote_wf {s : State} (a : Access) (hs : s.wf) : (State.performRemote s a).wf := by
  unfold State.performRemote; grind [State.failAccess_wf, State.sendWrites_wf, State.finish_wf, State.flushed_wf, State.sendReq_wf, State.answer_wf]

theorem State.performHome_wf {s : State} (a : Access) (damage : Byte) (hs : s.wf) : (State.performHome s a damage).wf := by
  unfold State.performHome; grind [State.failAccess_wf, State.loadBytes_wf, State.finishWith_wf, State.finish_wf, State.outdate_wf, State.storeL1_wf, State.localWrite_wf, State.flushed_wf, State.dropBytesL1_wf, State.tlbProbe_wf, State.atomicAt_wf, State.dropL1_wf]

theorem State.performOwn_wf {s : State} (a : Access) (gr : Group) (damage : Byte) (hs : s.wf) : (State.performOwn s a gr damage).wf := by
  unfold State.performOwn; grind [State.failAccess_wf, State.finishWith_wf, State.finish_wf, State.modGroup_wf]

theorem State.performLocal_wf {s : State} (a : Access) (damage : Byte) (hs : s.wf) : (State.performLocal s a damage).wf := by
  unfold State.performLocal; grind [State.performHome_wf, State.performOwn_wf, State.dropAccess_wf]

theorem execAccessPerformed_wf (acc : Nat) (damage : BitVec 8) {s : State} (hs : s.wf) {out : State} (ht : execAccessPerformed acc damage s = .next out) : out.wf := by
  unfold execAccessPerformed at ht; grind [State.count_wf, State.retranslate_wf, State.performRemote_wf, State.performLocal_wf]

theorem stl_wf (i : Instr) (sc : Scope) (d a : BitVec 6) (z : BitVec 4) {s out : State} (hs : s.wf)
    (ht : stl i sc d a z s = .next out) : out.wf :=
  runWord_wf hs (fun _ _ hs => State.globalAccess_wf _ _ _ _ _ _ _ hs) ht


theorem ldG_wf (i : Instr) (d a : BitVec 6) (z : BitVec 4) {s out : State} (hs : s.wf) (ht : ldG i d a z s = .next out) : out.wf :=
  runWord_wf hs (fun _ _ hs => State.globalAccess_wf _ _ _ _ _ _ _ hs) ht


theorem execLdaDev_wf (d : BitVec 6) (a : BitVec 6) (z : BitVec 4) (h : BitVec 2) (g : BitVec 6) {s : State} (hs : s.wf) {out : State} (ht : execLdaDev d a z h g s = .next out) : out.wf := by
  unfold execLdaDev at ht; grind [lda_wf]

theorem execLdG_wf (d : BitVec 6) (a : BitVec 6) (z : BitVec 4) (h : BitVec 2) (g : BitVec 6) {s : State} (hs : s.wf) {out : State} (ht : execLdG d a z h g s = .next out) : out.wf := by
  unfold execLdG at ht; grind [ldG_wf]

theorem State.touchWindow_wf {s : State} (e : Env) (w : Window) (o : Nat) (store : Bool) (hs : s.wf) : (State.touchWindow s e w o store).1.wf := by
  unfold State.touchWindow; grind [State.mapAccess_wf, State.modGroup_wf, State.outdate_wf, State.fillRemote_wf]

theorem execFence_wf (sc : BitVec 2) {s : State} (hs : s.wf) {out : State} (ht : execFence sc s = .next out) : out.wf := by
  unfold execFence at ht; refine runWord_wf hs (fun e s hs => ?_) ht; grind [State.waitAt_wf, State.dropCtxL1_wf, State.retire_wf]

theorem stG_wf (i : Instr) (d a : BitVec 6) (z : BitVec 4) {s out : State} (hs : s.wf) (ht : stG i d a z s = .next out) : out.wf :=
  runWord_wf hs (fun _ _ hs => State.globalAccess_wf _ _ _ _ _ _ _ hs) ht


theorem State.makeRoom_wf {s : State} (slice : Nat) (hs : s.wf) : (State.makeRoom s slice).wf := by
  unfold State.makeRoom; grind [State.modThread_wf, State.modQueue_wf]

theorem execMarm_wf (a : BitVec 6) (g : BitVec 6) {s : State} (hs : s.wf) {out : State} (ht : execMarm a g s = .next out) : out.wf := by
  unfold execMarm at ht; refine runWord_wf hs (fun e s hs => ?_) ht; grind [State.viewsOf_wf, State.faultAt_wf, State.mapAccess_wf, State.pageAt_wf, State.modThread_wf, State.dropL1_wf, State.makeRoom_wf, State.free_wf, State.retire_wf]

theorem execLdaCore_wf (d : BitVec 6) (a : BitVec 6) (z : BitVec 4) (h : BitVec 2) (g : BitVec 6) {s : State} (hs : s.wf) {out : State} (ht : execLdaCore d a z h g s = .next out) : out.wf := by
  unfold execLdaCore at ht; grind [lda_wf]

theorem State.dropFills_wf {s : State} (g : Nat) (p : Nat → Nat → Bool) (hs : s.wf) : (State.dropFills s g p).wf := by
  unfold State.dropFills; grind

theorem execInvs_wf (so : BitVec 6) (l : BitVec 6) {s : State} (hs : s.wf) {out : State} (ht : execInvs so l s = .next out) : out.wf := by
  unfold execInvs at ht; refine runWord_wf hs (fun e s hs => ?_) ht; grind [State.faultAt_wf, State.dropFills_wf, State.retire_wf, State.modGroup_wf, State.finishStores_wf]

theorem execAtomDev_wf (d : BitVec 6) (a : BitVec 6) (b : BitVec 6) (r : BitVec 2) (o : BitVec 4) {s : State} (hs : s.wf) {out : State} (ht : execAtomDev d a b r o s = .next out) : out.wf := by
  unfold execAtomDev at ht; grind [atomic_wf]

theorem State.scratchAccess_wf {s : State} (e : Env) (i : Instr) (o : Nat) (n : Nat) (store : Bool) (q : Ask) (hs : s.wf) : (State.scratchAccess s e i o n store q).wf := by
  unfold State.scratchAccess; grind [State.issueAccess_wf, State.faultLane_wf, State.touchWindow_wf, State.transFault_wf, State.pageLane_wf, State.failLane_wf]

theorem execLdS_wf (d : BitVec 6) (a : BitVec 6) (z : BitVec 4) (g : BitVec 6) {s : State} (hs : s.wf) {out : State} (ht : execLdS d a z g s = .next out) : out.wf := by
  unfold execLdS at ht; refine runWord_wf hs (fun e s hs => ?_) ht; grind [State.scratchAccess_wf]

theorem execRedaSys_wf (a : BitVec 6) (b : BitVec 6) (r : BitVec 2) (o : BitVec 4) {s : State} (hs : s.wf) {out : State} (ht : execRedaSys a b r o s = .next out) : out.wf := by
  unfold execRedaSys at ht; grind [atomic_wf]

theorem execStG_wf (d : BitVec 6) (a : BitVec 6) (z : BitVec 4) (h : BitVec 2) (g : BitVec 6) {s : State} (hs : s.wf) {out : State} (ht : execStG d a z h g s = .next out) : out.wf := by
  unfold execStG at ht; grind [stG_wf]

theorem execMaps_wf (so : BitVec 6) (v : BitVec 6) (l : BitVec 6) {s : State} (hs : s.wf) {out : State} (ht : execMaps so v l s = .next out) : out.wf := by
  unfold execMaps at ht; refine runWord_wf hs (fun e s hs => ?_) ht; grind [State.faultAt_wf, State.dropFills_wf, State.flushBlocks_wf, State.countS_wf, State.retire_wf, State.modGroup_wf]

theorem execFenceAlias_wf (a : BitVec 6) {s : State} (hs : s.wf) {out : State} (ht : execFenceAlias a s = .next out) : out.wf := by
  unfold execFenceAlias at ht; refine runWord_wf hs (fun e s hs => ?_) ht; grind [State.mapAccess_wf, State.faultAt_wf, State.pageAt_wf, State.waitAt_wf, State.retire_wf, State.dropL1_wf]

theorem execLdD_wf (d : BitVec 6) (a : BitVec 6) (z : BitVec 4) (g : BitVec 6) {s : State} (hs : s.wf) {out : State} (ht : execLdD d a z g s = .next out) : out.wf := by
  unfold execLdD at ht; refine runWord_wf hs (fun e s hs => ?_) ht; grind [State.deepAccess_wf]

theorem execStS_wf (d : BitVec 6) (a : BitVec 6) (z : BitVec 4) (g : BitVec 6) {s : State} (hs : s.wf) {out : State} (ht : execStS d a z g s = .next out) : out.wf := by
  unfold execStS at ht; refine runWord_wf hs (fun e s hs => ?_) ht; grind [State.scratchAccess_wf]

theorem execStD_wf (d : BitVec 6) (a : BitVec 6) (z : BitVec 4) (g : BitVec 6) {s : State} (hs : s.wf) {out : State} (ht : execStD d a z g s = .next out) : out.wf := by
  unfold execStD at ht; refine runWord_wf hs (fun e s hs => ?_) ht; grind [State.deepAccess_wf]

theorem execStlSys_wf (d : BitVec 6) (a : BitVec 6) (z : BitVec 4) (h : BitVec 2) (g : BitVec 6) {s : State} (hs : s.wf) {out : State} (ht : execStlSys d a z h g s = .next out) : out.wf := by
  unfold execStlSys at ht; grind [stl_wf]

theorem execLdaSys_wf (d : BitVec 6) (a : BitVec 6) (z : BitVec 4) (h : BitVec 2) (g : BitVec 6) {s : State} (hs : s.wf) {out : State} (ht : execLdaSys d a z h g s = .next out) : out.wf := by
  unfold execLdaSys at ht; grind [lda_wf]

theorem execStlDev_wf (d : BitVec 6) (a : BitVec 6) (z : BitVec 4) (h : BitVec 2) (g : BitVec 6) {s : State} (hs : s.wf) {out : State} (ht : execStlDev d a z h g s = .next out) : out.wf := by
  unfold execStlDev at ht; grind [stl_wf]

theorem execStlCore_wf (d : BitVec 6) (a : BitVec 6) (z : BitVec 4) (h : BitVec 2) (g : BitVec 6) {s : State} (hs : s.wf) {out : State} (ht : execStlCore d a z h g s = .next out) : out.wf := by
  unfold execStlCore at ht; grind [stl_wf]

theorem execAtomSys_wf (d : BitVec 6) (a : BitVec 6) (b : BitVec 6) (r : BitVec 2) (o : BitVec 4) {s : State} (hs : s.wf) {out : State} (ht : execAtomSys d a b r o s = .next out) : out.wf := by
  unfold execAtomSys at ht; grind [atomic_wf]

end Sys2Proof.Machine
end

