-- ==== Sys2Proof/Laws/KeepsDevice.lean ====
section
/-! SUPPORT. Every operation keeps the memory in its canonical form (log 1): the meanings of the package's own events and of what comes from outside. -/

namespace Sys2Proof.Machine

set_option Elab.async false

/-! ### Machine/Context.lean -/

theorem State.answerCx_wf {s : State} (p : Fin 2) (op : Nat) (id : BitVec 12) (res : Nat) (hs : s.wf) : (State.answerCx s p op id res).wf := by
  unfold State.answerCx; grind [State.setPort_wf]

theorem State.abandonPkts_wf {s : State} (sub : Byte) (a2 : List Pkt) : s.wf → (State.abandonPkts s sub a2).wf := by
  fun_induction State.abandonPkts s sub a2 <;> grind [State.post_wf]

theorem State.abandonAccs_wf {s : State} (gr : Group) (k : Kernel) (sub : Byte) (a4 : List Access) : s.wf → (State.abandonAccs s gr k sub a4).wf := by
  fun_induction State.abandonAccs s gr k sub a4 <;> grind [State.post_wf]

theorem State.abandonGroup_wf {s : State} (g : Nat) (sub : Byte) (hs : s.wf) : (State.abandonGroup s g sub).wf := by
  unfold State.abandonGroup; grind [State.post_wf, State.failCmds_wf, State.abandonAccs_wf]

theorem State.abandonGroups_wf {s : State} (sub : Byte) (a2 : List Nat) : s.wf → (State.abandonGroups s sub a2).wf := by
  fun_induction State.abandonGroups s sub a2 <;> grind [State.abandonGroup_wf]

theorem State.endAttach_wf {s : State} (id : Nat) (p : Fin 2) (hs : s.wf) : (State.endAttach s id p).wf := by
  unfold State.endAttach; grind [State.setPort_wf]

theorem State.queueCheck_wf {s : State} (q : Nat) (hs : s.wf) : (State.queueCheck s q).wf := by
  unfold State.queueCheck; grind [State.setPort_wf]

theorem State.queueChecks_wf {s : State} (a1 : List Nat) : s.wf → (State.queueChecks s a1).wf := by
  fun_induction State.queueChecks s a1 <;> grind [State.queueCheck_wf]

theorem State.detachAll_wf {s : State} (p : Queue → Bool) (hs : s.wf) : (State.detachAll s p).wf := by
  unfold State.detachAll; grind [State.queueChecks_wf]

theorem State.dropGroups_wf {s : State} (a1 : List Nat) : s.wf → (State.dropGroups s a1).wf := by
  fun_induction State.dropGroups s a1 <;> grind [State.dropGroup_wf]

theorem State.cancelPkts_wf {s : State} (a1 : List Nat) : s.wf → (State.cancelPkts s a1).wf := by
  fun_induction State.cancelPkts s a1 <;> grind [State.modPkt_wf, State.endPkt_wf]

theorem State.discardBy_wf {s : State} (grp : Group → Bool) (batch : Nat → Nat → Bool) (kern : Kernel → Bool) (pkt : Pkt → Bool) (hs : s.wf) : (State.discardBy s grp batch kern pkt).wf := by
  unfold State.discardBy; grind [State.dropGroups_wf, State.cancelPkts_wf]

theorem State.discard_wf {s : State} (id : Nat) (hs : s.wf) : (State.discard s id).wf := by
  unfold State.discard; grind [State.discardBy_wf]

theorem State.accept_wf {s : State} (id : Nat) (op : Nat) (f : Ctx → Ctx) (hs : s.wf) : (State.accept s id op f).wf := by
  unfold State.accept; grind [State.writeBack_wf, State.modCtx_wf]

theorem execDestroy_wf (port : Fin 2) (id : BitVec 12) {s : State} (hs : s.wf) {out : State} (ht : execDestroy port id s = .next out) : out.wf := by
  unfold execDestroy at ht; grind [State.answerCx_wf, State.leaveRunning_wf, State.abandonPkts_wf, State.abandonGroups_wf, State.endAttach_wf, State.detachAll_wf, State.discard_wf, State.accept_wf]

theorem execResume_wf (port : Fin 2) (id : BitVec 12) {s : State} (hs : s.wf) {out : State} (ht : execResume port id s = .next out) : out.wf := by
  unfold execResume at ht; grind [State.answerCx_wf, State.accept_wf]

theorem State.loseAccs_wf {s : State} (a1 : List Access) : s.wf → (State.loseAccs s a1).wf := by
  fun_induction State.loseAccs s a1 <;> grind [State.failAccess_wf]

theorem State.startSaves_wf {s : State} (cause : Nat) (a2 : List Nat) : s.wf → (State.startSaves s cause a2).wf := by
  fun_induction State.startSaves s cause a2 <;> grind [State.startSave_wf]

theorem execContextHalted_wf (id : BitVec 12) {s : State} (hs : s.wf) {out : State} (ht : execContextHalted id s = .next out) : out.wf := by
  unfold execContextHalted at ht; grind [State.setCtxState_wf, State.startSaves_wf]

theorem State.loseCmds_wf {s : State} (d : Nat) (a2 : List Cmd) : s.wf → (State.loseCmds s d a2).wf := by
  fun_induction State.loseCmds s d a2 <;> grind [State.failCmd_wf, State.planRows_wf]

theorem execBind_wf (port : Fin 2) (id : BitVec 12) {s : State} (hs : s.wf) {out : State} (ht : execBind port id s = .next out) : out.wf := by
  unfold execBind at ht; grind [State.answerCx_wf, State.writeBack_wf]

theorem State.loseGroups_wf {s : State} (d : Nat) (a2 : List Nat) : s.wf → (State.loseGroups s d a2).wf := by
  fun_induction State.loseGroups s d a2 <;> grind [State.endGroup_wf]

theorem State.faultEach_wf {s : State} (a1 : List (Nat × Nat)) : s.wf → (State.faultEach s a1).wf := by
  fun_induction State.faultEach s a1 <;> grind [State.faultFirst_wf]

theorem State.loseCtx_wf {s : State} (d : Nat) (id : Nat) (hs : s.wf) : (State.loseCtx s d id).wf := by
  unfold State.loseCtx; grind [State.leaveRunning_wf, State.modCtx_wf, State.setCtxState_wf, State.loseGroups_wf, State.loseCmds_wf, State.loseAccs_wf, State.faultEach_wf, State.mapGroups_wf, State.startSaves_wf]

theorem State.loseCtxs_wf {s : State} (d : Nat) (a2 : List Nat) : s.wf → (State.loseCtxs s d a2).wf := by
  fun_induction State.loseCtxs s d a2 <;> grind [State.loseCtx_wf]

theorem execDestroyComplete_wf (id : BitVec 12) {s : State} (hs : s.wf) {out : State} (ht : execDestroyComplete id s = .next out) : out.wf := by
  unfold execDestroyComplete at ht; grind [State.setCtxState_wf]

theorem execFqRoomPoll_wf (id : BitVec 12) {s : State} (hs : s.wf) {out : State} (ht : execFqRoomPoll id s = .next out) : out.wf := by
  unfold execFqRoomPoll at ht; grind [State.flushHeld_wf]

theorem execStagingComplete_wf (id : BitVec 12) {s : State} (hs : s.wf) {out : State} (ht : execStagingComplete id s = .next out) : out.wf := by
  unfold execStagingComplete at ht; grind [State.setCtxState_wf, State.leaveRunning_wf]

theorem execPreempt_wf (port : Fin 2) (id : BitVec 12) {s : State} (hs : s.wf) {out : State} (ht : execPreempt port id s = .next out) : out.wf := by
  unfold execPreempt at ht; grind [State.answerCx_wf, State.accept_wf, State.leaveRunning_wf, State.mapGroups_wf]

theorem execOasisLoss_wf {s : State} (hs : s.wf) {out : State} (ht : execOasisLoss s = .next out) : out.wf := by
  unfold execOasisLoss at ht; grind

theorem State.discardWhere_wf {s : State} (p : Pkt → Bool) (hs : s.wf) : (State.discardWhere s p).wf := by
  unfold State.discardWhere; grind [State.discardBy_wf]

theorem execDieLoss_wf (die : Fin 8) {s : State} (hs : s.wf) {out : State} (ht : execDieLoss die s = .next out) : out.wf := by
  unfold execDieLoss at ht; grind [State.setDie_wf, State.loseCtxs_wf]

/-! ### Machine/Rail.lean -/

theorem State.failCmdList_wf {s : State} (code : Byte) (sub : Byte) (a3 : List Cmd) : s.wf → (State.failCmdList s code sub a3).wf := by
  fun_induction State.failCmdList s code sub a3 <;> grind [State.failCmd_wf]

theorem State.darkGroups_wf {s : State} (a1 : List Nat) : s.wf → (State.darkGroups s a1).wf := by
  fun_induction State.darkGroups s a1 <;> grind [State.post_wf, State.failCmds_wf, State.endRecorded_wf]

theorem State.untime_wf {s : State} (c : Nat) (hs : s.wf) : (State.untime s c).wf := by
  unfold State.untime; grind

theorem State.softStart_wf {s : State} (c : Nat) (hs : s.wf) : (State.softStart s c).wf := by
  unfold State.softStart; grind [State.untime_wf, State.after_wf, State.setCluster_wf]

theorem State.checkNeighbours_wf {s : State} (c : Nat) (hs : s.wf) : (State.checkNeighbours s c).wf := by
  unfold State.checkNeighbours; grind [State.free_wf, State.after_wf, State.setCluster_wf, State.softStart_wf]

theorem State.wakeComplete_wf {s : State} (c : Nat) (hs : s.wf) : (State.wakeComplete s c).wf := by
  unfold State.wakeComplete; grind [State.setCluster_wf, State.checkNeighbours_wf]

theorem execSoftStartStep_wf (cluster : Fin 128) {s : State} (hs : s.wf) {out : State} (ht : execSoftStartStep cluster s = .next out) : out.wf := by
  unfold execSoftStartStep at ht; grind [State.after_wf, State.setCluster_wf, State.wakeComplete_wf]

theorem execGatingConfirm_wf (cluster : Fin 128) {s : State} (hs : s.wf) {out : State} (ht : execGatingConfirm cluster s = .next out) : out.wf := by
  unfold execGatingConfirm at ht; grind [State.setCluster_wf]

theorem State.lightClusters_wf {s : State} (a1 : List Nat) : s.wf → (State.lightClusters s a1).wf := by
  fun_induction State.lightClusters s a1 <;> grind [State.setCluster_wf]

theorem State.safeTrims_wf {s : State} (a1 : List Nat) : s.wf → (State.safeTrims s a1).wf := by
  fun_induction State.safeTrims s a1 <;> grind [State.setCore_wf]

theorem execDieWarmReset_wf (die : Fin 8) {s : State} (hs : s.wf) {out : State} (ht : execDieWarmReset die s = .next out) : out.wf := by
  unfold execDieWarmReset at ht; grind [State.setDie_wf, State.lightClusters_wf, State.safeTrims_wf]

theorem execNeighbourDrawFall_wf (cluster : Fin 128) {s : State} (hs : s.wf) {out : State} (ht : execNeighbourDrawFall cluster s = .next out) : out.wf := by
  unfold execNeighbourDrawFall at ht; grind [State.softStart_wf]

theorem State.deferWakes_wf {s : State} (a1 : List Nat) : s.wf → (State.deferWakes s a1).wf := by
  fun_induction State.deferWakes s a1 <;> grind [State.setCluster_wf, State.untime_wf]

theorem State.wakeCluster_wf {s : State} (c : Nat) (hs : s.wf) : (State.wakeCluster s c).wf := by
  unfold State.wakeCluster; grind [State.setCluster_wf, State.checkNeighbours_wf, State.deferWakes_wf]

theorem execGatingIdleExpiry_wf (cluster : Fin 128) {s : State} (hs : s.wf) {out : State} (ht : execGatingIdleExpiry cluster s = .next out) : out.wf := by
  unfold execGatingIdleExpiry at ht; grind [State.setCluster_wf]

theorem execCurrentRecord_wf (die : Fin 8) {s : State} (hs : s.wf) {out : State} (ht : execCurrentRecord die s = .next out) : out.wf := by
  unfold execCurrentRecord at ht; grind [State.setDie_wf, State.deviceWords_wf]

theorem execVminvWrite_wf (die : Fin 8) {s : State} (hs : s.wf) {out : State} (ht : execVminvWrite die s = .next out) : out.wf := by
  unfold execVminvWrite at ht; grind [State.setDie_wf]

theorem execVminSample_wf (die : Fin 8) (mv : BitVec 16) {s : State} (hs : s.wf) {out : State} (ht : execVminSample die mv s = .next out) : out.wf := by
  unfold execVminSample at ht; grind [State.setDie_wf]

theorem State.wakeClusters_wf {s : State} (a1 : List Nat) : s.wf → (State.wakeClusters s a1).wf := by
  fun_induction State.wakeClusters s a1 <;> grind [State.wakeCluster_wf]

theorem execPhaseFail_wf (die : Fin 8) (pg : Fin 12) (phase : Fin 8) {s : State} (hs : s.wf) {out : State} (ht : execPhaseFail die pg phase s = .next out) : out.wf := by
  unfold execPhaseFail at ht; grind [State.setDie_wf, State.event_wf, State.darkGroups_wf, State.failCmdList_wf, State.wakeClusters_wf]

theorem execCalicheThermal_wf (die : Fin 8) (hot : Bool) {s : State} (hs : s.wf) {out : State} (ht : execCalicheThermal die hot s = .next out) : out.wf := by
  unfold execCalicheThermal at ht; grind [State.setDie_wf]

theorem execWakeWaitExpiry_wf (cluster : Fin 128) {s : State} (hs : s.wf) {out : State} (ht : execWakeWaitExpiry cluster s = .next out) : out.wf := by
  unfold execWakeWaitExpiry at ht; grind [State.softStart_wf]

theorem execBoostBankRecharged_wf (cluster : Fin 128) {s : State} (hs : s.wf) {out : State} (ht : execBoostBankRecharged cluster s = .next out) : out.wf := by
  unfold execBoostBankRecharged at ht; grind [State.setCluster_wf]

theorem State.gateTick_wf {s : State} (c : Nat) (hs : s.wf) : (State.gateTick s c).wf := by
  unfold State.gateTick; grind [State.setCluster_wf, State.later_wf]

theorem execThrottleExpiry_wf (cluster : Fin 128) {s : State} (hs : s.wf) {out : State} (ht : execThrottleExpiry cluster s = .next out) : out.wf := by
  unfold execThrottleExpiry at ht; grind [State.setCluster_wf]

theorem execBoostWithdraw_wf (die : Fin 8) {s : State} (hs : s.wf) {out : State} (ht : execBoostWithdraw die s = .next out) : out.wf := by
  unfold execBoostWithdraw at ht; grind [State.repoints_wf]

theorem State.noteThrottle_wf {s : State} (d : Nat) (hs : s.wf) : (State.noteThrottle s d).wf := by
  unfold State.noteThrottle; grind [State.setDie_wf]

/-! ### Machine/Queue.lean -/

theorem State.setDebt_wf {s : State} (t : Nat) (d : Nat) (hs : s.wf) : (State.setDebt s t d).wf := by
  unfold State.setDebt; grind [State.deviceWrite_wf]

theorem State.setBal_wf {s : State} (t : Nat) (b : Int) (hs : s.wf) : (State.setBal s t b).wf := by
  unfold State.setBal; grind [State.deviceWrite_wf]

theorem State.draw_wf {s : State} (t : Nat) (fuel : Nat) : s.wf → (State.draw s t fuel).wf := by
  fun_induction State.draw s t fuel <;> grind [State.setDebt_wf, State.setBal_wf]

theorem State.tenantReady_wf {s : State} (t : Nat) (hs : s.wf) : (State.tenantReady s t).1.wf := by
  unfold State.tenantReady; grind [State.draw_wf]

theorem State.rmw_wf {s : State} (ctx : Nat) (core : Nat) (va : Nat) (f : Nat → Nat) (hs : s.wf) : (State.rmw s ctx core va f).1.wf := by
  unfold State.rmw; grind [State.mapAccess_wf, State.ctxWrite_wf]

theorem State.cancelDep_wf {s : State} (ctx : Nat) (core : Nat) (p : W64) (hs : s.wf) : (State.cancelDep s ctx core p).1.wf := by
  unfold State.cancelDep; grind [State.rmw_wf, State.endPkt_wf]

theorem State.writeTused_wf {s : State} (r : Nat) (hs : s.wf) : (State.writeTused s r).wf := by
  unfold State.writeTused; grind [State.vwrite_wf, State.request_wf]

theorem State.owe_wf {s : State} (r : Nat) (hs : s.wf) : (State.owe s r).wf := by
  unfold State.owe; grind [State.writeTused_wf]

theorem State.writeTuseds_wf {s : State} (a1 : List Nat) : s.wf → (State.writeTuseds s a1).wf := by
  fun_induction State.writeTuseds s a1 <;> grind [State.owe_wf]

theorem State.endReplay_wf {s : State} (st : MirState) (hs : s.wf) : (State.endReplay s st).wf := by
  unfold State.endReplay; grind [State.repoints_wf, State.setCtxState_wf, State.leaveRunning_wf]

theorem State.replayCheck_wf {s : State} (hs : s.wf) : (State.replayCheck s).wf := by
  unfold State.replayCheck; grind [State.endReplay_wf]

theorem State.images_wf {s : State} (ctx : Nat) (core : Nat) (a3 : List Nat) : s.wf → (State.images s ctx core a3).1.wf := by
  fun_induction State.images s ctx core a3 <;> grind [State.vread_wf, State.readWords_wf]

theorem State.estOf_wf {s : State} (ctx : Nat) (core : Nat) (img : List W64) (hs : s.wf) : (State.estOf s ctx core img).1.wf := by
  unfold State.estOf; grind [State.vread_wf]

theorem State.latestStep_wf (ctx core : Nat) (below : State → List (List W64) → State × Reckon (Option Int))
    (acc : State × Reckon (Option Int)) (img : List W64) (hb : ∀ (t : State) l, t.wf → (below t l).1.wf) (h : acc.1.wf) :
    (State.latestStep ctx core below acc img).1.wf := by
  obtain ⟨s, r⟩ := acc
  cases r with
  | page b z a => exact h
  | ok l =>
    simp only [State.latestStep]
    have h1 := State.images_wf (s := s) ctx core ((List.range (bits (img.getD 1 0).toNat 8 8)).map fun i => ((img.getD 3 0).toNat + 8 * i) % 2 ^ 64) h
    split <;> rename_i he <;> rw [he] at h1
    · exact h1
    · rename_i s1 succ
      have h2 := hb s1 succ h1
      split <;> rename_i he <;> rw [he] at h2
      · exact h2
      · rename_i s2 later
        have h3 := State.estOf_wf (s := s2) ctx core img h2
        split <;> rename_i he <;> rw [he] at h3 <;> exact h3


theorem State.precedes_wf {s : State} (k : Pkt) (addr : W64) (a3 : List Nat) : s.wf → (State.precedes s k addr a3).1.wf := by
  fun_induction State.precedes s k addr a3 <;> grind [State.vread_wf]

theorem State.slackFrom_wf {s : State} (p : Pkt) (t : Nat) (a3 : List Kernel) : s.wf → (State.slackFrom s p t a3).1.wf := by
  fun_induction State.slackFrom s p t a3 <;> grind [State.precedes_wf]

theorem State.stopReplay_wf {s : State} (st : MirState) (hs : s.wf) : (State.stopReplay s st).wf := by
  unfold State.stopReplay; grind [State.endReplay_wf, State.discardWhere_wf]

theorem State.queueWaits_wf {s : State} (qn : Nat) (q : Queue) (base : W64) (size : Nat) (kind : Needs) (absent : Bool) (hs : s.wf) : (State.queueWaits s qn q base size kind absent).wf := by
  unfold State.queueWaits; grind [State.modQueue_wf, State.request_wf]

theorem State.pktWaits_wf {s : State} (n : Nat) (k : Pkt) (base : W64) (size : Nat) (kind : Needs) (absent : Bool) (hs : s.wf) : (State.pktWaits s n k base size kind absent).wf := by
  unfold State.pktWaits; grind [State.modPkt_wf, State.request_wf]

theorem State.regionAct_wf {s : State} (n : Nat) (k : Pkt) (hs : s.wf) : (State.regionAct s n k).wf := by
  unfold State.regionAct
  split
  · exact hs
  · rename_i q _
    dsimp only
    split
    · split
      · exact State.endPkt_wf _ _ _ _ _ hs
      · exact State.endPkt_wf _ _ _ _ _ (State.modQueue_wf _ _ (State.owe_wf _ hs))
    · generalize k.img.getD 6 0 = rcb
      have h1 := State.readWords_wf (s := s) k.ctx k.core ((List.range 8).map fun i => rcb.toNat + 8 * i) hs
      split <;> rename_i he <;> rw [he] at h1
      · exact State.modQueue_wf _ _ (State.pktWaits_wf _ _ _ _ _ _ h1)
      · exact State.failPkt_wf _ _ _ _ h1
      · rename_i s1 l
        split
        · exact State.endPkt_wf _ _ _ _ _ h1
        · have h2 := State.vwrite_wf k.ctx k.core rcb.toNat 8
            (((Tbl.find? s1.regions q.region).map Region.rcb).getD 0).toNat 1 h1
          split <;> rename_i he <;> rw [he] at h2
          · exact State.modQueue_wf _ _ (State.pktWaits_wf _ _ _ _ _ _ h2)
          · exact State.failPkt_wf _ _ _ _ h2
          · exact State.endPkt_wf _ _ _ _ _ (State.modQueue_wf _ _ (State.free_wf (State.vwrite_wf _ _ _ _ _ _ h2)))


theorem State.keep_wf {s : State} (qn : Nat) (q : Queue) (clu : Nat) (p : W64) (img : List W64) (hs : s.wf) : (State.keep s qn q clu p img).wf := by
  unfold State.keep; grind [State.free_wf, State.modQueue_wf, State.endPkt_wf, State.regionAct_wf, State.modPkt_wf]

theorem State.replayNext_wf {s : State} (qn : Nat) (q : Queue) (hs : s.wf) : (State.replayNext s qn q).wf := by
  unfold State.replayNext; grind [State.replayCheck_wf, State.readWords_wf, State.queueWaits_wf, State.vwrite_wf, State.post_wf, State.keep_wf]

theorem State.releaseDep_wf {s : State} (ctx : Nat) (core : Nat) (p : W64) (hs : s.wf) : (State.releaseDep s ctx core p).1.wf := by
  unfold State.releaseDep; grind [State.rmw_wf, State.complete_wf, State.modPkt_wf]

theorem execEvtReleaseApply_wf (cluster : Fin 128) {s : State} (hs : s.wf) {out : State} (ht : execEvtReleaseApply cluster s = .next out) : out.wf := by
  unfold execEvtReleaseApply at ht; grind [State.setCluster_wf, State.releaseDep_wf, State.post_wf, State.request_wf]

theorem State.chargeRegions_wf {s : State} (x : Share) (a2 : List (Nat × Region)) : s.wf → (State.chargeRegions s x a2).wf := by
  fun_induction State.chargeRegions s x a2 <;> grind

theorem State.chargeCore_wf {s : State} (total : Nat) (a2 : List Grant) : s.wf → (State.chargeCore s total a2).wf := by
  fun_induction State.chargeCore s total a2 <;> grind [State.chargeRegions_wf]

theorem State.chargeCores_wf {s : State} (a1 : List Nat) : s.wf → (State.chargeCores s a1).wf := by
  fun_induction State.chargeCores s a1 <;> grind [State.chargeCore_wf, State.setCore_wf]

theorem State.debit_wf {s : State} (a1 : List (Nat × Share)) : s.wf → (State.debit s a1).wf := by
  fun_induction State.debit s a1 <;> grind [State.setBal_wf]

theorem State.draws_wf {s : State} (a1 : List Nat) : s.wf → (State.draws s a1).wf := by
  fun_induction State.draws s a1 <;> grind [State.draw_wf]

theorem State.drawAll_wf {s : State} (hs : s.wf) : (State.drawAll s).wf := by
  unfold State.drawAll; grind [State.draws_wf]

theorem execTokenCharge_wf {s : State} (hs : s.wf) {out : State} (ht : execTokenCharge s = .next out) : out.wf := by
  unfold execTokenCharge at ht; grind [State.settleAll_wf, State.chargeCores_wf, State.debit_wf, State.drawAll_wf]

theorem State.answerQ_wf {s : State} (p : Fin 2) (op : Nat) (res : Nat) (busy : Bool) (hs : s.wf) : (State.answerQ s p op res busy).wf := by
  unfold State.answerQ; grind [State.setPort_wf]

theorem execQueueDetach_wf (port : Fin 2) {s : State} (hs : s.wf) {out : State} (ht : execQueueDetach port s = .next out) : out.wf := by
  unfold execQueueDetach at ht; grind [State.answerQ_wf, State.modQueue_wf, State.cancelPkts_wf, State.queueCheck_wf]

theorem State.writeStatus_wf {s : State} (n : Nat) (k : Pkt) (hs : s.wf) : (State.writeStatus s n k).1.wf := by
  unfold State.writeStatus; grind [State.modPkt_wf, State.complete_wf, State.vwrite_wf, State.post_wf]

theorem State.armQueue_wf {s : State} (qn : Nat) (pas : List Nat) (node : Nat) (hs : s.wf) : (State.armQueue s qn pas node).wf := by
  unfold State.armQueue; grind [State.makeRoom_wf, State.free_wf, State.modQueue_wf]

theorem State.refillTenant_wf {s : State} (t : Nat) (hs : s.wf) : (State.refillTenant s t).wf := by
  unfold State.refillTenant; grind [State.setDebt_wf, State.setBal_wf]

theorem State.refillTenants_wf {s : State} (a1 : List Nat) : s.wf → (State.refillTenants s a1).wf := by
  fun_induction State.refillTenants s a1 <;> grind [State.refillTenant_wf]

theorem State.consumeFault_wf {s : State} (qn : Nat) (q : Queue) (p : W64) (code : Byte) (sub : Byte) (fin : Bool) (addr : W64) (link : Option (List Nat × Nat)) (hs : s.wf) : (State.consumeFault s qn q p code sub fin addr link).wf := by
  unfold State.consumeFault; grind [State.post_wf, State.modQueue_wf, State.armQueue_wf]

theorem State.consumeNext_wf {s : State} (qn : Nat) (q : Queue) (clu : Nat) (p : W64) (pas : List Nat) (node : Nat) (hs : s.wf) : (State.consumeNext s qn q clu p pas node).wf := by
  unfold State.consumeNext; grind [State.readWords_wf, State.queueWaits_wf, State.consumeFault_wf, State.rmw_wf, State.log_wf, State.deviceWrite_wf, State.keep_wf]

theorem State.latest_wf {s : State} (ctx core fuel : Nat) (imgs : List (List W64)) (hs : s.wf) :
    (State.latest s ctx core fuel imgs).1.wf := by
  induction fuel generalizing s imgs with
  | zero => exact hs
  | succ f ih =>
    unfold State.latest
    suffices h : ∀ (l : List (List W64)) (acc : State × Reckon (Option Int)), acc.1.wf →
        (l.foldl (State.latestStep ctx core fun s imgs => State.latest s ctx core f imgs) acc).1.wf from h _ _ hs
    intro l
    induction l with
    | nil => exact fun _ h => h
    | cons x l ih2 => exact fun acc h => ih2 _ (State.latestStep_wf _ _ _ _ _ (fun _ _ ht => ih _ ht) h)


theorem State.choosePoint_wf {s : State} (k : Pkt) (hs : s.wf) : (State.choosePoint s k).1.wf := by
  unfold State.choosePoint; grind [State.latest_wf, State.estOf_wf, State.slackFrom_wf, State.free_wf]

theorem State.withPoint_wf {s : State} (n : Nat) (k : Pkt) (f : State → Nat → State)
    (hf : ∀ (t : State) p, t.wf → (f t p).wf) (hs : s.wf) : (State.withPoint s n k f).wf := by
  unfold State.withPoint; grind [State.choosePoint_wf, State.pktWaits_wf]


theorem State.signal_wf {s : State} (n : Nat) (k : Pkt) (hs : s.wf) : (State.signal s n k).wf := by
  unfold State.signal; grind [State.mapAccess_wf, State.pktWaits_wf, State.failPkt_wf, State.sendReq_wf, State.endPkt_wf, State.modPkt_wf, State.localWrite_wf, State.atomicAt_wf]

theorem execPacketReady_wf (pkt : Nat) {s : State} (hs : s.wf) {out : State} (ht : execPacketReady pkt s = .next out) : out.wf := by
  unfold execPacketReady at ht; grind [State.withPoint_wf, State.modPkt_wf, State.signal_wf, State.wakeCluster_wf, State.regionAct_wf, State.endPkt_wf]

theorem execPacketConsume_wf (queue : Nat) {s : State} (hs : s.wf) {out : State} (ht : execPacketConsume queue s = .next out) : out.wf := by
  unfold execPacketConsume at ht; grind [State.replayNext_wf, State.mapAccess_wf, State.queueWaits_wf, State.consumeFault_wf, State.armQueue_wf, State.consumeNext_wf]

theorem State.successors_wf {s : State} (n : Nat) (k : Pkt) (cancel : Bool) (a4 : List Nat) : s.wf → (State.successors s n k cancel a4).1.wf := by
  fun_induction State.successors s n k cancel a4 <;> grind [State.modPkt_wf, State.vread_wf, State.post_wf, State.cancelDep_wf, State.releaseDep_wf]

theorem execPacketFinish_wf (pkt : Nat) {s : State} (hs : s.wf) {out : State} (ht : execPacketFinish pkt s = .next out) : out.wf := by
  unfold execPacketFinish at ht; grind [State.writeStatus_wf, State.pktWaits_wf, State.stopReplay_wf, State.successors_wf, State.settleAll_wf, State.replayCheck_wf, State.queueCheck_wf, State.repoint_wf]

theorem execTokenRefill_wf {s : State} (hs : s.wf) {out : State} (ht : execTokenRefill s = .next out) : out.wf := by
  unfold execTokenRefill at ht; grind [State.refillTenants_wf, State.writeTuseds_wf, State.drawAll_wf]

theorem State.queueAttach_wf {s : State} (port : Fin 2) (hs : s.wf) : (State.queueAttach s port).wf := by
  unfold State.queueAttach; grind [State.setPort_wf, State.answerQ_wf, State.readWords_wf, State.free_wf, State.deviceWrite_wf, State.request_wf]

theorem execQueueAttach_wf (port : Fin 2) {s : State} (hs : s.wf) {out : State} (ht : execQueueAttach port s = .next out) : out.wf := by
  unfold execQueueAttach at ht; grind [State.queueAttach_wf]

theorem State.retryTuseds_wf {s : State} (a1 : List Nat) : s.wf → (State.retryTuseds s a1).wf := by
  fun_induction State.retryTuseds s a1 <;> grind [State.writeTused_wf]

/-! ### Machine/Kernel.lean -/

theorem State.lastFlush_wf {s : State} (g : Nat) (hs : s.wf) : (State.lastFlush s g).wf := by
  unfold State.lastFlush; grind [State.free_wf, State.flushWindows_wf]

theorem State.takeUnits_wf {s : State} (die : Nat) (ctx : Nat) (a3 : List Nat) : s.wf → (State.takeUnits s die ctx a3).wf := by
  fun_induction State.takeUnits s die ctx a3 <;> grind [State.mapGroups_wf]

theorem State.occupy_wf {s : State} (ctx : Nat) (core : Nat) (old : Nat) (hs : s.wf) : (State.occupy s ctx core old).wf := by
  unfold State.occupy
  apply State.slipCheck_wf
  apply State.repoint_wf
  split
  · apply State.setCtxState_wf
    exact State.modCtx_wf _ _ (State.takeUnits_wf _ _ _ (State.wakeCluster_wf _ (State.cedeL1_wf _ _ hs)))
  · exact State.modCtx_wf _ _ (State.takeUnits_wf _ _ _ (State.wakeCluster_wf _ (State.cedeL1_wf _ _ hs)))


theorem State.placeSaved_wf {s : State} (g : Nat) (k : Kernel) (core : Nat) (hs : s.wf) : (State.placeSaved s g k core).wf := by
  unfold State.placeSaved
  exact State.occupy_wf _ _ _ (State.modGroup_wf _ _ hs)


theorem State.replayIdle_wf {s : State} (ctx : Nat) (hs : s.wf) : (State.replayIdle s ctx).wf := by
  unfold State.replayIdle; grind [State.setCtxState_wf, State.leaveRunning_wf]

theorem State.endHeld_wf {s : State} (grp : Nat) (gr : Group) (r : FaultRec) (hs : s.wf) : (State.endHeld s grp gr r).wf := by
  unfold State.endHeld; grind [State.dropGroup_wf, State.replayIdle_wf, State.endNow_wf]

theorem execGroupEnd_wf (grp : Nat) {s : State} (hs : s.wf) {out : State} (ht : execGroupEnd grp s = .next out) : out.wf := by
  unfold execGroupEnd at ht; grind [State.endHeld_wf, State.replayIdle_wf, State.endGroup_wf, State.lastFlush_wf, State.kernelCheck_wf, State.dropGroup_wf]

theorem State.failLaunch_wf {s : State} (n : Nat) (k : Pkt) (code : Byte) (sub : Byte) (hs : s.wf) : (State.failLaunch s n k code sub).wf := by
  unfold State.failLaunch; grind [State.endPkt_wf, State.post_wf]

theorem execKernelLaunch_wf (pkt : Nat) {s out : State} (hs : s.wf) (ht : execKernelLaunch pkt s = .next out) : out.wf := by
  simp only [execKernelLaunch, Host.Outcome.next.injEq] at ht
  subst ht
  split
  · exact hs
  · rename_i k _ _
    split
    · exact hs
    · split
      · exact State.failLaunch_wf _ _ _ _ hs
      · have h := State.readWords_wf (s := s) k.ctx k.core ((List.range 8).map fun i => k.w 6 + 8 * i) hs
        split <;> rename_i heq <;> rw [heq] at h
        · exact State.pktWaits_wf _ _ _ _ _ _ h
        · exact State.failLaunch_wf _ _ _ _ h
        · rename_i s1 l
          have h1 := State.vread_wf (s := s1) k.ctx k.core (((l.headD []).getD 0 0).toNat) 4 needsFetch h
          split <;> rename_i heq1 <;> rw [heq1] at h1
          · exact State.pktWaits_wf _ _ _ _ _ _ h1
          · exact State.failLaunch_wf _ _ _ _ h1
          · split
            · exact State.failLaunch_wf _ _ _ _ h1
            · split
              · exact State.failLaunch_wf _ _ _ _ h1
              · split
                · exact h1
                · exact State.modPkt_wf _ _ (State.noteLaunch_wf _ _ _ (State.modCtx_wf _ _ h1))


theorem State.vwords_wf {s : State} (ctx : Nat) (core : Nat) (va : Nat) (a4 : List Nat) : s.wf → (State.vwords s ctx core va a4).1.wf := by
  fun_induction State.vwords s ctx core va a4 <;> grind [State.vwrite_wf]

theorem State.failFrame_wf {s : State} (grp : Nat) (gr : Group) (k : Kernel) (va : Nat) (lost : Bool) (hs : s.wf) : (State.failFrame s grp gr k va lost).wf := by
  unfold State.failFrame; grind [State.replayIdle_wf, State.endGroup_wf]

theorem State.placeNew_wf {s : State} (kn : Nat) (k : Kernel) (core : Nat) (hs : s.wf) : (State.placeNew s kn k core).wf := by
  unfold State.placeNew
  exact State.occupy_wf _ _ _ (State.modKernel_wf _ _ (State.wf_of_mem (State.free_wf hs) rfl))


theorem execGroupPlace_wf (id : BitVec 12) (kern : BitVec 32) (lin : BitVec 32) {s : State} (hs : s.wf) {out : State} (ht : execGroupPlace id kern lin s = .next out) : out.wf := by
  unfold execGroupPlace at ht; grind [State.tenantReady_wf, State.placeSaved_wf, State.placeNew_wf]

theorem State.frameFault_wf {s : State} (ctx : Nat) (core : Nat) (a3 : List Nat) : s.wf → (State.frameFault s ctx core a3).1.wf := by
  fun_induction State.frameFault s ctx core a3 <;> grind [State.mapAccess_wf]

theorem State.saved_wf {s : State} (grp : Nat) (gr : Group) (f : Nat) (size : Nat) (hs : s.wf) : (State.saved s grp gr f size).wf := by
  unfold State.saved; grind [State.modCtx_wf, State.modGroup_wf, State.replayIdle_wf, State.repoint_wf, State.slipCheck_wf]

theorem State.writeFrame_wf {s : State} (grp : Nat) (gr : Group) (k : Kernel) (c : Ctx) (f size : Nat) (hs : s.wf) : (s.writeFrame grp gr k c f size).wf := by
  unfold State.writeFrame
  generalize s.frameVas gr.ctx size f = vas
  generalize c.frameAt f = a
  generalize frameHeader gr k size = ws
  have h1 := State.frameFault_wf gr.ctx gr.core vas hs
  generalize s.frameFault gr.ctx gr.core vas = r at h1 ⊢
  obtain ⟨t, o⟩ := r
  cases o with
  | some p => exact State.failFrame_wf grp gr k p.1 p.2 h1
  | none =>
    have h2 := State.vwords_wf gr.ctx gr.core a ws h1
    generalize ht : State.vwords t gr.ctx gr.core a ws = r at h2 ⊢
    obtain ⟨u, x⟩ := r
    dsimp only
    rw [ht]
    cases x
    · exact State.saved_wf grp gr f size h2
    all_goals exact State.failFrame_wf grp gr k a false h2


theorem execSaveFrameWritten_wf (grp : Nat) {s : State} (hs : s.wf) {out : State} (ht : execSaveFrameWritten grp s = .next out) : out.wf := by
  unfold execSaveFrameWritten at ht
  obtain rfl := Host.Outcome.next.inj ht
  split
  · exact hs
  · split
    · exact hs
    · exact State.writeFrame_wf _ _ _ _ _ _ (State.free_wf hs)


theorem execRestoreComplete_wf (grp : Nat) {s : State} (hs : s.wf) {out : State} (ht : execRestoreComplete grp s = .next out) : out.wf := by
  unfold execRestoreComplete at ht; grind [State.modCtx_wf, State.dropCtxL1_wf, State.modGroup_wf, State.startSave_wf]

/-! ### Machine/Page.lean -/

theorem State.takeAttach_wf {s : State} (p : Fin 2) (ctx : Nat) (within : W64 → Bool) (hs : s.wf) : (State.takeAttach s p ctx within).wf := by
  unfold State.takeAttach; grind [State.queueAttach_wf, State.setPort_wf]

theorem State.answerPg_wf {s : State} (p : Fin 2) (op : Nat) (id : Nat) (res : Nat) (hs : s.wf) : (State.answerPg s p op id res).wf := by
  unfold State.answerPg; grind [State.setPort_wf]

theorem State.saveAsked_wf {s : State} (a1 : List (Nat × Group)) : s.wf → (State.saveAsked s a1).wf := by
  fun_induction State.saveAsked s a1 <;> grind [State.startSave_wf]

theorem execPageRequestWrite_wf (port : Fin 2) {s : State} (hs : s.wf) {out : State} (ht : execPageRequestWrite port s = .next out) : out.wf := by
  unfold execPageRequestWrite at ht; grind [State.writeRequest_wf, State.saveAsked_wf]

theorem execHorizon_wf (port : Fin 2) (id : BitVec 12) {s : State} (hs : s.wf) {out : State} (ht : execHorizon port id s = .next out) : out.wf := by
  unfold execHorizon at ht; grind [State.answerPg_wf, State.setPort_wf]

theorem execMemScrubDamage_wf (addr : Nat) (level : BitVec 8) {s : State} (hs : s.wf) {out : State} (ht : execMemScrubDamage addr level s = .next out) : out.wf := by
  unfold execMemScrubDamage at ht; grind [State.event_wf]

theorem execRetire_wf (port : Fin 2) {s : State} (hs : s.wf) {out : State} (ht : execRetire port s = .next out) : out.wf := by
  unfold execRetire at ht; grind [State.answerPg_wf, State.wakeWhere_wf]

theorem State.released_wf {s : State} (ctx : Nat) (within : W64 → Bool) (hs : s.wf) : (State.released s ctx within).wf := by
  unfold State.released; grind [State.retryTuseds_wf, State.takeAttach_wf]

theorem State.endRequests_wf {s : State} (ctx : Nat) (base : Nat) (size : Nat) (hs : s.wf) : (State.endRequests s ctx base size).wf := by
  unfold State.endRequests; grind [State.modCtx_wf]

theorem execResolve_wf (port : Fin 2) (id : BitVec 12) {s : State} (hs : s.wf) {out : State} (ht : execResolve port id s = .next out) : out.wf := by
  unfold execResolve at ht; grind [State.answerPg_wf, State.released_wf, State.endRequests_wf]

theorem execLeaseExpiry_wf {s : State} (hs : s.wf) {out : State} (ht : execLeaseExpiry s = .next out) : out.wf := by
  unfold execLeaseExpiry at ht; grind

theorem execEventRingWrite_wf (port : Fin 2) {s : State} (hs : s.wf) {out : State} (ht : execEventRingWrite port s = .next out) : out.wf := by
  unfold execEventRingWrite at ht; grind [State.writeEvent_wf]

/-! ### Machine/Link.lean -/

theorem State.maskEvent_wf {s : State} (p : Nat) (hs : s.wf) : (State.maskEvent s p).wf := by
  unfold State.maskEvent; grind [State.setLink_wf, State.event_wf]

theorem State.portUp_wf {s : State} (p : Nat) (hs : s.wf) : (State.portUp s p).wf := by
  unfold State.portUp; grind [State.maskEvent_wf, State.toWadi_wf, State.setLink_wf]

theorem State.emitFlit_wf {s : State} (p : Nat) (f : Nat × OutFlit) (hs : s.wf) : (State.emitFlit s p f).wf := by
  unfold State.emitFlit; grind [State.emit_wf]

theorem State.emitFlits_wf {s : State} (p : Nat) (a2 : List (Nat × OutFlit)) : s.wf → (State.emitFlits s p a2).wf := by
  fun_induction State.emitFlits s p a2 <;> grind [State.emitFlit_wf]

theorem State.ackFlits_wf {s : State} (p : Nat) (last : Nat) (hs : s.wf) : (State.ackFlits s p last).wf := by
  unfold State.ackFlits; grind [State.setLink_wf, State.portUp_wf, State.emitFlits_wf]

theorem State.failWhose_wf {s : State} (r : LinkReq) (code : Byte) (sub : Byte) (hs : s.wf) : (State.failWhose s r code sub).wf := by
  unfold State.failWhose; grind [State.failAccess_wf, State.failCmd_wf, State.onTile_wf, State.failPkt_wf, State.swapAnswer_wf, State.modGroup_wf]

theorem State.failReq_wf {s : State} (r : LinkReq) (code : Byte) (sub : Byte) (hs : s.wf) : (State.failReq s r code sub).wf := by
  unfold State.failReq; grind [State.failWhose_wf]

theorem State.failReqs_wf {s : State} (code : Byte) (sub : Byte) (a3 : List LinkReq) : s.wf → (State.failReqs s code sub a3).wf := by
  fun_induction State.failReqs s code sub a3 <;> grind [State.failReq_wf]

theorem State.stopPort_wf {s : State} (p : Nat) (st : LinkState) (hs : s.wf) : (State.stopPort s p st).wf := by
  unfold State.stopPort; grind [State.setLink_wf, State.failReqs_wf]

theorem State.failPort_wf {s : State} (p : Nat) (hs : s.wf) : (State.failPort s p).wf := by
  unfold State.failPort; grind [State.event_wf, State.stopPort_wf]

theorem State.startReplay_wf {s : State} (p : Nat) (hs : s.wf) : (State.startReplay s p).wf := by
  unfold State.startReplay; grind [State.after_wf, State.emit_wf, State.setLink_wf]

theorem State.failReplay_wf {s : State} (p : Nat) (hs : s.wf) : (State.failReplay s p).wf := by
  unfold State.failReplay; grind [State.failPort_wf, State.startReplay_wf, State.setLink_wf]

theorem State.respond_wf {s : State} (r : LinkReq) (data : List Byte) (hs : s.wf) : (State.respond s r data).wf := by
  unfold State.respond; grind [State.answer_wf, State.modCmd_wf, State.onTile_wf, State.endPkt_wf, State.swapAnswer_wf, State.modGroup_wf]

theorem State.serveHere_wf {s : State} (r : LinkReq) (f : OutFlit) (v : Via) (pas : List Nat) (vas : List Nat) (hs : s.wf) : (State.serveHere s r f v pas vas).wf := by
  unfold State.serveHere; grind [State.respond_wf, State.dropBytesL1_wf, State.localWrite_wf, State.failReq_wf, State.atomicAt_wf]

theorem State.resend_wf {s : State} (r : LinkReq) (f : OutFlit) (v : Via) (node : Nat) (pa : Nat) (hs : s.wf) : (State.resend s r f v node pa).wf := by
  unfold State.resend; grind [State.respond_wf, State.emit_wf, State.failReq_wf, State.enqueue_wf]

theorem State.pageAway_wf {s : State} (r : LinkReq) (v : Via) (base : W64) (size : Nat) (absent : Bool) (hs : s.wf) : (State.pageAway s r v base size absent).1.wf := by
  unfold State.pageAway; grind [State.request_wf, State.failReq_wf, State.pageFault_wf, State.modGroup_wf, State.dropFills_wf]

theorem State.leaving_wf {s : State} (f : OutFlit) (hs : s.wf) : (State.leaving s f).1.wf := by
  unfold State.leaving; grind [State.mapAccess_wf, State.serveHere_wf, State.resend_wf, State.failReq_wf, State.pageAway_wf]

theorem State.launchFlit_wf {s : State} (p : Nat) (f : OutFlit) (hs : s.wf) : (State.launchFlit s p f).wf := by
  unfold State.launchFlit; grind [State.emitFlit_wf, State.setLink_wf]

theorem State.takeOut_wf {s : State} (p : Nat) (k : Nat) (f : OutFlit) (hs : s.wf) : (State.takeOut s p k f).wf := by
  unfold State.takeOut; grind [State.toWadi_wf, State.setLink_wf]

theorem State.sendFrom_wf {s : State} (p : Nat) (k : Nat) (a3 : List OutFlit) : s.wf → (State.sendFrom s p k a3).wf := by
  fun_induction State.sendFrom s p k a3 <;> grind [State.leaving_wf, State.launchFlit_wf, State.takeOut_wf]

theorem State.flitSent_wf {s : State} (p : Nat) (hs : s.wf) : (State.flitSent s p).wf := by
  unfold State.flitSent; grind [State.sendFrom_wf]

theorem State.received_wf {s t : State} {p seq : Nat} {whole : Bool} (hs : s.wf) (h : s.received p seq whole = some t) : t.wf := by
  unfold State.received at h; grind [State.setLink_wf, State.emit_wf]


theorem State.take_wf {s : State} (p seq : Nat) (whole : Bool) (req : Nat) (f : State → LinkReq → State)
    (hf : ∀ (t : State) r, t.wf → (f t r).wf) (hs : s.wf) : (State.take s p seq whole req f).wf := by
  unfold State.take
  split
  · exact hs
  · rename_i t ht
    have h := State.received_wf hs ht
    split
    · exact hf _ _ h
    · exact h


theorem execFlitReceive_wf (link : Fin 32) (f : Flit) {s : State} (hs : s.wf) {out : State} (ht : execFlitReceive link f s = .next out) : out.wf := by
  unfold execFlitReceive at ht; grind [State.ackFlits_wf, State.failReplay_wf, State.flitSent_wf, State.take_wf, State.respond_wf, State.failReq_wf]

theorem State.reply_wf {s : State} (p : Nat) (node : Nat) (req : Nat) (a : PeerAnswer) (hs : s.wf) : (State.reply s p node req a).wf := by
  unfold State.reply; grind [State.enqueue_wf]

theorem State.noteHostWrite_wf {s : State} (pas : List Nat) (hs : s.wf) : (State.noteHostWrite s pas).wf := by
  unfold State.noteHostWrite; grind [State.captureUnits_wf]

theorem State.outsideAtomic_wf {s : State} (code : Nat) (op : BitVec 4) (addr : Nat) (x : W64) (y : W64) (hs : s.wf) : (State.outsideAtomic s code op addr x y).1.wf := by
  unfold State.outsideAtomic; grind [State.atomicAt_wf, State.noteHostWrite_wf]

theorem State.servePeer_wf {s : State} (p : Nat) (node : BitVec 9) (r : PeerReq) (hs : s.wf) : (State.servePeer s p node r).wf := by
  unfold State.servePeer; grind [State.reply_wf, State.homeWrite_wf, State.noteHostWrite_wf, State.outsideAtomic_wf]

theorem execPeerRequest_wf (link : Fin 32) (node : BitVec 9) (req : PeerReq) {s : State} (hs : s.wf) {out : State}
    (ht : execPeerRequest link node req s = .next out) : out.wf := by
  unfold execPeerRequest at ht
  simp only [Host.Outcome.next.injEq] at ht
  subst ht
  split
  · exact hs
  · rename_i t ht
    have h := State.received_wf hs ht
    split
    · exact State.setLink_wf _ _ h
    · exact State.servePeer_wf _ _ _ h


theorem State.restripe_wf {s : State} (p : Nat) (act : BitVec 16) (at_ : Nat) (hs : s.wf) : (State.restripe s p act at_).wf := by
  unfold State.restripe; grind [State.setLink_wf]

theorem State.freeze_wf {s : State} (m : Master) (hs : s.wf) : (State.freeze s m).wf := by
  unfold State.freeze; grind [State.holdAll_wf, State.markFrozen_wf]

theorem execLctlEnClear_wf (m : Master) (link : Fin 32) {s : State} (hs : s.wf) {out : State} (ht : execLctlEnClear m link s = .next out) : out.wf := by
  unfold execLctlEnClear at ht; grind [State.setLink_wf, State.stopPort_wf, State.freeze_wf]

theorem execLinkRequestTimeout_wf (req : Nat) {s out : State} (hs : s.wf) (ht : execLinkRequestTimeout req s = .next out) :
    out.wf := by
  unfold execLinkRequestTimeout at ht
  cases ht
  split
  · exact hs
  · split
    · exact State.failReq_wf _ _ _ hs
    · exact hs


theorem execReplayAckTimeout_wf (link : Fin 32) {s out : State} (hs : s.wf) (ht : execReplayAckTimeout link s = .next out) :
    out.wf := by
  unfold execReplayAckTimeout at ht
  cases ht
  dsimp only
  split
  · exact State.failReplay_wf _ hs
  · exact hs


theorem execEgressStallExpiry_wf (link : Fin 32) {s : State} (hs : s.wf) {out : State} (ht : execEgressStallExpiry link s = .next out) : out.wf := by
  unfold execEgressStallExpiry at ht; grind [State.setLink_wf, State.free_wf, State.toWadi_wf, State.surge_wf]

theorem execSpillTimeout_wf (link : Fin 32) {s : State} (hs : s.wf) {out : State} (ht : execSpillTimeout link s = .next out) : out.wf := by
  unfold execSpillTimeout at ht; grind [State.failPort_wf]

theorem execLossOfLight_wf (link : Fin 32) (wave : Fin 16) {s : State} (hs : s.wf) {out : State} (ht : execLossOfLight link wave s = .next out) : out.wf := by
  unfold execLossOfLight at ht; grind [State.setLink_wf, State.failPort_wf, State.restripe_wf]

theorem execLightHoldExpiry_wf (link : Fin 32) (wave : Fin 16) {s : State} (hs : s.wf) {out : State} (ht : execLightHoldExpiry link wave s = .next out) : out.wf := by
  unfold execLightHoldExpiry at ht; grind [State.setLink_wf, State.restripe_wf]

theorem execWadiDrained_wf (link : Fin 32) {s : State} (hs : s.wf) {out : State} (ht : execWadiDrained link s = .next out) : out.wf := by
  unfold execWadiDrained at ht; grind [State.portUp_wf]

theorem execTrainingLocked_wf (link : Fin 32) {s : State} (hs : s.wf) {out : State} (ht : execTrainingLocked link s = .next out) : out.wf := by
  unfold execTrainingLocked at ht; grind [State.setLink_wf]

theorem execTrainingTimeout_wf (link : Fin 32) (locked : BitVec 16) (agreed : Bool) {s : State} (hs : s.wf) {out : State} (ht : execTrainingTimeout link locked agreed s = .next out) : out.wf := by
  unfold execTrainingTimeout at ht; grind [State.setLink_wf, State.failPort_wf]

theorem execRestripeAgreed_wf (link : Fin 32) {s : State} (hs : s.wf) {out : State} (ht : execRestripeAgreed link s = .next out) : out.wf := by
  unfold execRestripeAgreed at ht; grind [State.startReplay_wf]

theorem execLctlEnSet_wf (m : Master) (link : Fin 32) {s : State} (hs : s.wf) {out : State} (ht : execLctlEnSet m link s = .next out) : out.wf := by
  unfold execLctlEnSet at ht; grind [State.setLink_wf, State.freeze_wf]

theorem execLightRestored_wf (link : Fin 32) (wave : Fin 16) {s : State} (hs : s.wf) {out : State} (ht : execLightRestored link wave s = .next out) : out.wf := by
  unfold execLightRestored at ht; grind [State.setLink_wf]

/-! ### Machine/Debug.lean -/

theorem State.answerDbg_wf {s : State} (p : Fin 2) (op : Nat) (sc : BitVec 2) (id : BitVec 12) (res : Nat) (hs : s.wf) : (State.answerDbg s p op sc id res).wf := by
  unfold State.answerDbg; grind [State.setPort_wf]

theorem execDbgHalt_wf (port : Fin 2) (id : BitVec 12) (sc : BitVec 2) {s : State} (hs : s.wf) {out : State} (ht : execDbgHalt port id sc s = .next out) : out.wf := by
  unfold execDbgHalt at ht; grind [State.answerDbg_wf, State.modThread_wf, State.faultFirst_wf, State.holdAll_wf, State.unenqAll_wf]

theorem State.answerMir_wf {s : State} (op : Nat) (id : BitVec 12) (res : Nat) (hs : s.wf) : (State.answerMir s op id res).wf := by
  unfold State.answerMir; grind

theorem State.restoreCopy_wf {s : State} (ctx : Nat) (k : Nat) (hs : s.wf) : (State.restoreCopy s ctx k).wf := by
  unfold State.restoreCopy; grind [State.ownPas_wf, State.copyBytes_wf, State.homeWrite_wf]

theorem execDbgStep_wf (port : Fin 2) (id : BitVec 12) {s : State} (hs : s.wf) {out : State} (ht : execDbgStep port id s = .next out) : out.wf := by
  unfold execDbgStep at ht; grind [State.answerDbg_wf, State.modThread_wf]

theorem execCapture_wf (id : BitVec 12) {s : State} (hs : s.wf) {out : State} (ht : execCapture id s = .next out) : out.wf := by
  unfold execCapture at ht; grind [State.answerMir_wf]

theorem execMirageStop_wf (id : BitVec 12) {s : State} (hs : s.wf) {out : State} (ht : execMirageStop id s = .next out) : out.wf := by
  unfold execMirageStop at ht; grind [State.answerMir_wf, State.stopReplay_wf]

theorem State.restoreCopies_wf {s : State} (ctx : Nat) (a2 : List Nat) : s.wf → (State.restoreCopies s ctx a2).wf := by
  fun_induction State.restoreCopies s ctx a2 <;> grind [State.restoreCopy_wf]

theorem execDbgAttach_wf (port : Fin 2) (id : BitVec 12) (sc : BitVec 2) {s : State} (hs : s.wf) {out : State} (ht : execDbgAttach port id sc s = .next out) : out.wf := by
  unfold execDbgAttach at ht; grind [State.answerDbg_wf, State.modCtx_wf]

theorem execDbgResume_wf (port : Fin 2) (id : BitVec 12) (sc : BitVec 2) {s : State} (hs : s.wf) {out : State} (ht : execDbgResume port id sc s = .next out) : out.wf := by
  unfold execDbgResume at ht; grind [State.answerDbg_wf, State.modThread_wf, State.unholdAll_wf]

theorem execDbgDetach_wf (port : Fin 2) (id : BitVec 12) {s : State} (hs : s.wf) {out : State} (ht : execDbgDetach port id s = .next out) : out.wf := by
  unfold execDbgDetach at ht; grind [State.answerDbg_wf, State.modCtx_wf, State.mapGroups_wf]

theorem execReplay_wf (id : BitVec 12) {s : State} (hs : s.wf) {out : State} (ht : execReplay id s = .next out) : out.wf := by
  unfold execReplay at ht; grind [State.answerMir_wf, State.restoreCopies_wf, State.free_wf]

/-! ### Machine/Trust.lean -/

theorem State.flushScc_wf {s : State} (cluster : Nat) (hs : s.wf) : (State.flushScc s cluster).wf := by
  unfold State.flushScc; grind [State.completeAll_wf, State.setCluster_wf]

theorem afterStep_wf {s : State} {o : Host.Outcome State Fault Refusal} (hs : s.wf) (ho : ∀ t, o = .next t → t.wf) :
    (afterStep s o).wf := by
  cases o with
  | next t => exact ho t rfl
  | fault r => exact hs
  | refused r => exact hs
/-- A register's write keeps the form, whatever is written. -/
def RegWf {v : Type} (o : Option (v × (v → State))) : Prop := ∀ w f x, o = some (w, f) → (f x).wf

theorem RegWf.some {v : Type} {w : v} {f : v → State} (h : ∀ x, (f x).wf) : RegWf (Option.some (w, f)) := by
  intro w' f' x he
  cases he
  exact h x

theorem RegWf.ite {v : Type} {c : Prop} [Decidable c] {a b : Option (v × (v → State))} (ha : RegWf a) (hb : RegWf b) :
    RegWf (if c then a else b) := by
  split <;> assumption

theorem RegWf.index {v : Type} {o : Option Nat} {a : Nat → Option (v × (v → State))} {b : Option (v × (v → State))}
    (ha : ∀ n, RegWf (a n)) (hb : RegWf b) : RegWf (match o with | Option.some n => a n | none => b) := by
  cases o
  · exact hb
  · exact ha _


theorem execHostRead_wf (port : Fin 2) (addr : Nat) (n : Nat) {s : State} (hs : s.wf) {out : State} (ht : execHostRead port addr n s = .next out) : out.wf := by
  unfold execHostRead at ht; grind [State.emit_wf]

theorem State.hostStore_wf {s : State} (addr : Nat) (data : List Byte) (hs : s.wf) : (State.hostStore s addr data).wf := by
  unfold State.hostStore; grind [State.homeWrite_wf, State.noteHostWrite_wf]

theorem State.performPosted_wf {s : State} (p : Fin 2) (i : Nat) (hs : s.wf) : (State.performPosted s p i).wf := by
  unfold State.performPosted; grind [State.hostStore_wf, State.setPort_wf]

theorem State.performAll_wf {s : State} (p : Fin 2) (n : Nat) : s.wf → (State.performAll s p n).wf := by
  fun_induction State.performAll s p n <;> grind [State.performPosted_wf]

theorem execExpsWrite_wf (m : Master) (n : Fin 16) (v : BitVec 32) {s : State} (hs : s.wf) {out : State} (ht : execExpsWrite m n v s = .next out) : out.wf := by
  unfold execExpsWrite at ht; grind [State.freeze_wf]

theorem State.qcmd_wf {s : State} (p : Fin 2) (v : W32) (hs : s.wf) : (State.qcmd s p v).wf := by
  unfold State.qcmd; grind [afterStep_wf, execQueueAttach_wf, execQueueDetach_wf, State.answerQ_wf]

theorem execHostAtomicop_wf (port : Fin 2) (op : PcieOp) (wide : Bool) (addr : Nat) (x : BitVec 64) (y : BitVec 64) {s : State} (hs : s.wf) {out : State} (ht : execHostAtomicop port op wide addr x y s = .next out) : out.wf := by
  unfold execHostAtomicop at ht; grind [State.emit_wf, State.outsideAtomic_wf]

theorem execPackageColdReset_wf {s out : State} (hs : s.wf) (ht : execPackageColdReset s = .next out) : out.wf := by
  simp only [execPackageColdReset, Host.Outcome.next.injEq] at ht
  subst ht
  rfl


theorem State.pgcmd_wf {s : State} (p : Fin 2) (v : W32) (hs : s.wf) : (State.pgcmd s p v).wf := by
  unfold State.pgcmd; grind [afterStep_wf, execResolve_wf, State.setPort_wf, execRetire_wf, execHorizon_wf, State.answerPg_wf]

theorem State.lctl_wf {s : State} (m : Master) (n : Nat) (v : W32) (hs : s.wf) : (State.lctl s m n v).wf := by
  unfold State.lctl; grind [afterStep_wf, execLctlEnSet_wf, execLctlEnClear_wf]

theorem State.clearLost_wf {s : State} (m : Master) (off : Nat) (wide : Bool) (hs : s.wf) : (State.clearLost s m off wide).wf := by
  unfold State.clearLost; grind [State.setLink_wf]

theorem execHostWrite_wf (port : Fin 2) (addr : Nat) (w : PcieWrite) {s : State} (hs : s.wf) {out : State} (ht : execHostWrite port addr w s = .next out) : out.wf := by
  unfold execHostWrite at ht; grind [State.emit_wf, State.setPort_wf, State.hostStore_wf, State.performAll_wf]

theorem execAttestGo_wf (port : Fin 2) {s : State} (hs : s.wf) {out : State} (ht : execAttestGo port s = .next out) : out.wf := by
  unfold execAttestGo at ht; grind [State.setPort_wf, State.after_wf]

theorem State.mircmd_wf {s : State} (v : W32) (hs : s.wf) : (State.mircmd s v).wf := by
  unfold State.mircmd; grind [afterStep_wf, execCapture_wf, execMirageStop_wf, execReplay_wf, State.answerMir_wf]

theorem execBootGo_wf (port : Fin 2) {s : State} (hs : s.wf) {out : State} (ht : execBootGo port s = .next out) : out.wf := by
  unfold execBootGo at ht; grind [State.after_wf, State.setPort_wf]

theorem State.setNode_wf {s : State} (v : W32) (hs : s.wf) : (State.setNode s v).wf := by
  unfold State.setNode
  dsimp only
  split
  · suffices h : ∀ (l : List (Nat × Link)) (s : State), s.wf → (l.foldl (fun s l => s.stopPort l.1 .down) s).wf from h _ _ hs
    intro l
    induction l with
    | nil => exact fun _ h => h
    | cons x l ih => exact fun s h => ih _ (State.stopPort_wf _ _ h)
  · exact hs


theorem State.dbgcmd_wf {s : State} (p : Fin 2) (v : W32) (hs : s.wf) : (State.dbgcmd s p v).wf := by
  unfold State.dbgcmd; grind [State.setPort_wf, afterStep_wf, execDbgAttach_wf, execDbgDetach_wf, execDbgHalt_wf, execDbgResume_wf, execDbgStep_wf, State.answerDbg_wf]

theorem State.cxcmd_wf {s : State} (p : Fin 2) (v : W32) (hs : s.wf) : (State.cxcmd s p v).wf := by
  unfold State.cxcmd; grind [afterStep_wf, execBind_wf, execPreempt_wf, execResume_wf, execDestroy_wf, State.answerCx_wf]

theorem execPrqctlWrite_wf (port : Fin 2) (v : BitVec 32) {s : State} (hs : s.wf) {out : State} (ht : execPrqctlWrite port v s = .next out) : out.wf := by
  unfold execPrqctlWrite at ht; grind [State.setPort_wf]

theorem execEvctlWrite_wf (port : Fin 2) (v : BitVec 32) {s : State} (hs : s.wf) {out : State} (ht : execEvctlWrite port v s = .next out) : out.wf := by
  unfold execEvctlWrite at ht; grind [State.setPort_wf]

theorem State.issueHeld_wf {s : State} (link : Nat) (a2 : List (BitVec 9 × PeerReq)) : s.wf → (State.issueHeld s link a2).wf := by
  fun_induction State.issueHeld s link a2 <;> grind [State.servePeer_wf]

theorem State.release_wf {s : State} (kind : Nat) (id : Nat) (hs : s.wf) : (State.release s kind id).wf := by
  unfold State.release; grind [State.unholdAll_wf, State.issueHeld_wf, State.setLink_wf, State.flushScc_wf]

theorem execFrzrelWrite_wf (v : BitVec 32) {s : State} (hs : s.wf) {out : State} (ht : execFrzrelWrite v s = .next out) : out.wf := by
  unfold execFrzrelWrite at ht; grind [State.release_wf]

theorem execFwwWrite_wf (m : Master) (n : Fin 4) (size : Bool) (v : BitVec 64) {s : State} (hs : s.wf) {out : State} (ht : execFwwWrite m n size v s = .next out) : out.wf := by
  unfold execFwwWrite at ht; grind [State.freeze_wf]

theorem execRouteWrite_wf (m : Master) (node : BitVec 9) (v : BitVec 32) {s : State} (hs : s.wf) {out : State} (ht : execRouteWrite m node v s = .next out) : out.wf := by
  unfold execRouteWrite at ht; grind [State.freeze_wf]

theorem State.reg32_wf {s : State} (m : Master) (p : Fin 2) (off : Nat) (hs : s.wf) : RegWf (State.reg32 s m p off) := by
  unfold State.reg32
  dsimp only
  have hp := fun n q => State.setPort_wf (s := s) n q hs
  have hf := fun n => State.freeze_wf (s := s) n hs
  have ha := fun {o} ho => afterStep_wf (s := s) (o := o) hs ho
  repeat' first
    | refine RegWf.ite ?_ ?_
    | refine RegWf.index (fun n => ?_) ?_
  all_goals try refine RegWf.some fun x => ?_
  all_goals first
    | with_reducible exact hs
    | with_reducible exact hp _ _
    | with_reducible exact State.cxcmd_wf _ _ hs
    | with_reducible exact State.qcmd_wf _ _ hs
    | with_reducible exact State.pgcmd_wf _ _ hs
    | with_reducible exact State.dbgcmd_wf _ _ hs
    | with_reducible exact State.lctl_wf _ _ _ hs
    | with_reducible exact ha fun t ht => execPrqctlWrite_wf _ _ hs ht
    | with_reducible exact ha fun t ht => execEvctlWrite_wf _ _ hs ht
    | with_reducible exact ha fun t ht => execFwwWrite_wf _ _ _ _ hs ht
    | with_reducible exact ha fun t ht => execRouteWrite_wf _ _ _ hs ht
    | with_reducible exact ha fun t ht => execExpsWrite_wf _ _ _ hs ht
    | with_reducible exact ha fun t ht => execVminvWrite_wf _ hs ht
    | (split <;> first
        | with_reducible exact hs
        | with_reducible exact hf _
        | with_reducible exact ha fun t ht => execVminvWrite_wf _ hs ht
        | with_reducible exact State.mircmd_wf _ hs
        | with_reducible exact State.setNode_wf _ hs
        | with_reducible exact ha fun t ht => execBootGo_wf _ hs ht
        | with_reducible exact ha fun t ht => execAttestGo_wf _ hs ht
        | with_reducible exact ha fun t ht => execFrzrelWrite_wf _ hs ht)
    | (intro _ _ _ h; cases h)


theorem State.reg64_wf {s : State} (m : Master) (p : Fin 2) (off : Nat) (hs : s.wf) : RegWf (State.reg64 s m p off) := by
  unfold State.reg64
  dsimp only
  have hp := fun n q => State.setPort_wf (s := s) n q hs
  have hf := fun n => State.freeze_wf (s := s) n hs
  have hl := fun n l => State.setLink_wf (s := s) n l hs
  have ha := fun n x => afterStep_wf hs fun t ht => execFwwWrite_wf m (Fin.ofNat 4 n) false x (s := s) (out := t) hs ht
  repeat' first
    | refine RegWf.ite ?_ ?_
    | refine RegWf.index (fun n => ?_) ?_
  all_goals try refine RegWf.some fun x => ?_
  all_goals first
    | exact hs
    | exact hp _ _
    | exact hl _ _
    | exact ha _ _
    | (split <;> first | exact hs | exact hf _)
    | (intro _ _ _ h; cases h)


theorem State.writeReg_wf {s : State} (m : Master) (p : Fin 2) (off : Nat) (v : W32) (hs : s.wf) :
    (State.writeReg s m p off v).wf := by
  unfold State.writeReg
  split
  · rename_i h
    exact State.reg32_wf m p off hs _ _ _ h
  · split
    · rename_i h
      exact State.reg64_wf m p _ hs _ _ _ h
    · exact hs


theorem execRegisterWrite_wf (m : Master) (port : Fin 2) (off : BitVec 20) (wide : Bool) (v : BitVec 64) {s out : State}
    (hs : s.wf) (ht : execRegisterWrite m port off wide v s = .next out) : out.wf := by
  unfold execRegisterWrite at ht
  cases ht
  dsimp only
  have hw := fun o v => State.writeReg_wf m port o v hs
  split
  · exact hs
  split
  · split
    · exact hs
    · split
      · exact State.clearLost_wf _ _ _ (hw _ _)
      · exact hw _ _
  · split
    · exact hs
    · split
      · rename_i h
        have hf := State.reg64_wf _ _ _ hs _ _ v h
        split
        · exact State.clearLost_wf _ _ _ hf
        · exact hf
      · exact State.writeReg_wf _ _ _ _ (hw _ _)


theorem execAttestReport_wf (port : Fin 2) {s : State} (hs : s.wf) {out : State} (ht : execAttestReport port s = .next out) : out.wf := by
  unfold execAttestReport at ht; grind [State.free_wf, State.setPort_wf]

theorem execImageVerified_wf {s : State} (hs : s.wf) {out : State} (ht : execImageVerified s = .next out) : out.wf := by
  unfold execImageVerified at ht; grind [State.setPort_wf, State.event_wf]

end Sys2Proof.Machine
end

