-- ==== Sys2Proof/Laws/KeepsCycle.lean ====
section
/-! SUPPORT. Every operation keeps the memory in its canonical form (log 1): a core cycle and the choice of the next event. -/

namespace Sys2Proof.Machine

set_option Elab.async false

/-! ### Machine/Cycle.lean -/

theorem State.breakBefore_wf {s : State} (e : Env) (n : Nat) (scope : Nat) (hs : s.wf) : (State.breakBefore s e n scope).1.wf := by
  unfold State.breakBefore; grind [State.post_wf, State.modThread_wf]

theorem State.look_wf {s : State} (e : Env) (hs : s.wf) : (State.look s e).1.wf := by
  unfold State.look; grind [State.fetch_wf]

theorem State.unreached_wf {s : State} (gr : Group) (pc : W64) (a : W64) (hs : s.wf) : (State.unreached s gr pc a).1.wf := by
  unfold State.unreached; grind [State.fetch_wf]

theorem State.leadsOn_wf {s : State} (e : Env) (i : Instr) (hs : s.wf) : (State.leadsOn s e i).1.wf := by
  unfold State.leadsOn; grind [State.unreached_wf]

theorem State.prepWord_wf {s : State} (e : Env) (hs : s.wf) : (State.prepWord s e).1.wf := by
  unfold State.prepWord; grind [State.breakBefore_wf, State.look_wf, State.waitAt_wf, State.leadsOn_wf, State.faultAt_wf, State.awaitUntil_wf]

theorem State.halts_wf {s : State} (holds : Bool) (a2 : List Halt) : s.wf → (State.halts s holds a2).wf := by
  fun_induction State.halts s holds a2 <;> grind [State.pageFault_wf, State.holdAll_wf, State.unenqAll_wf]

theorem State.modEntry_wf {s : State} (c : Cand) (f : Entry → Entry) (hs : s.wf) : (State.modEntry s c f).wf := by
  unfold State.modEntry; grind [State.modGroup_wf]

theorem State.ageCands_wf {s : State} (core : Nat) (a2 : List Cand) : s.wf → (State.ageCands s core a2).wf := by
  fun_induction State.ageCands s core a2 <;> grind [State.modEntry_wf, State.setCore_wf]

theorem State.throttled_wf {s : State} (core : Nat) (hs : s.wf) : (State.throttled s core).1.wf := by
  unfold State.throttled; grind [State.free_wf, State.noteThrottle_wf]

theorem State.stall_wf {s : State} (core : Nat) (sel : List Bundle) (c : Cand) (hs : s.wf) : (State.stall s core sel c).1.wf := by
  unfold State.stall; grind [State.free_wf, State.throttled_wf, State.look_wf]

theorem State.extraPasses_wf {s : State} (gr : Group) (i : Instr) (tids : List Nat) (hs : s.wf) : (State.extraPasses s gr i tids).1.wf := by
  unfold State.extraPasses; grind [State.free_wf]

theorem State.owePasses_wf {s : State} (core : Nat) (slot : Nat) (grp : Nat) (pc : W64) (i : Option Instr) (tids : List Nat) (hs : s.wf) : (State.owePasses s core slot grp pc i tids).wf := by
  unfold State.owePasses; grind [State.extraPasses_wf, State.setCore_wf]

theorem State.replayEntry_wf {s : State} (sel : List Bundle) (grp : Nat) (tids : List Nat) (hs : s.wf) : (State.replayEntry s sel grp tids).1.wf := by
  unfold State.replayEntry; grind [State.look_wf, State.owePasses_wf]

theorem State.slotCycle_wf {s : State} (core : Nat) (slot : Nat) (all : List Cand) (sel : List Bundle) (hs : s.wf) : (State.slotCycle s core slot all sel).1.wf := by
  unfold State.slotCycle; grind [State.setCore_wf, State.ageCands_wf, State.stall_wf, State.replayEntry_wf, State.owePasses_wf, State.modEntry_wf]

theorem State.passed_wf {s : State} (i : Option Issue) (hs : s.wf) : (State.passed s i).wf := by
  unfold State.passed; grind [State.settleCvs_wf]

theorem State.tryHeader_wf {s : State} (e : Env) (h : Nat) (hs : s.wf) : (State.tryHeader s e h).wf := by
  unfold State.tryHeader; grind [State.modThread_wf]

theorem State.wakeThread_wf {s : State} (g tid : Nat) (hs : s.wf) : (State.wakeThread s g tid).wf := by
  unfold State.wakeThread
  have h1 : ∀ lim, (if lim ≤ s.time then s.later (.mwaitTimeout g tid) else s).wf := fun lim => by
    split
    · exact State.later_wf _ hs
    · exact hs
  have h2 := State.modThread_wf g tid Thread.freed hs
  split
  · exact hs
  · split
    · exact hs
    · split <;> dsimp only
      · split
        · exact State.retire_wf _ _ _ hs
        · exact hs
      · exact State.tryHeader_wf _ _ hs
      · split
        · exact hs
        · exact h2
      · split
        · exact h2
        · exact hs
      · rename_i lim _
        split
        · exact h2
        · cases lim with
          | none => exact hs
          | some l => exact h1 l
      · split
        · exact h2
        · exact hs
      · exact h1 _
      · exact hs


theorem State.arriveHeader_wf {s : State} (e : Env) (hs : s.wf) : (State.arriveHeader s e).1.wf := by
  unfold State.arriveHeader; grind [State.fetch_wf, State.deliver_wf, State.unreached_wf, State.faultAt_wf, State.modThread_wf, State.retireOps_wf, State.closeBatch_wf, State.tryHeader_wf]

theorem State.prepThread_wf {s : State} (g : Nat) (tid : Nat) (hs : s.wf) : (State.prepThread s g tid).1.wf := by
  unfold State.prepThread; grind [State.later_wf, State.wakeThread_wf, State.arriveHeader_wf, State.prepWord_wf]

theorem State.prepThreads_wf {s : State} (g : Nat) (a2 : List Nat) : s.wf → (State.prepThreads s g a2).1.wf := by
  fun_induction State.prepThreads s g a2 <;> grind [State.prepThread_wf]

theorem State.reachThread_wf {s : State} (g : Nat) (tid : Nat) (hs : s.wf) : (State.reachThread s g tid).wf := by
  unfold State.reachThread; grind [State.modThread_wf, State.look_wf, State.waitAt_wf]

theorem State.reachThreads_wf {s : State} (g : Nat) (a2 : List Nat) : s.wf → (State.reachThreads s g a2).wf := by
  fun_induction State.reachThreads s g a2 <;> grind [State.reachThread_wf]

theorem State.prepGroups_wf {s : State} (a1 : List Nat) : s.wf → (State.prepGroups s a1).1.wf := by
  fun_induction State.prepGroups s a1 <;> grind [State.prepThreads_wf, State.retireOps_wf, State.reachThreads_wf]

theorem State.countKey_wf {s : State} (b : Bundle) (gr : Group) (i : Instr) (num : Nat) (hs : s.wf) : (State.countKey s b gr i num).wf := by
  unfold State.countKey; grind [State.setCore_wf]

theorem State.openKey_wf {s : State} (b : Bundle) (gr : Group) (num : Nat) (hs : s.wf) : (State.openKey s b gr num).wf := by
  unfold State.openKey; grind [State.modGroup_wf, State.countKey_wf]

theorem State.regroup_wf {s : State} (core : Nat) (hs : s.wf) : (State.regroup s core).wf := by
  unfold State.regroup; grind [State.mapGroups_wf]

theorem State.split_wf {s : State} (core : Nat) (hs : s.wf) : (State.split s core).wf := by
  unfold State.split; grind [State.mapGroups_wf]

theorem State.slotCycles_wf {s : State} (core : Nat) (all : List Cand) (sel : List Bundle) (a4 : List Nat) : s.wf → (State.slotCycles s core all sel a4).1.wf := by
  fun_induction State.slotCycles s core all sel a4 <;> grind [State.slotCycle_wf]

theorem State.tickThread_wf {s : State} (g : Nat) (tid : Nat) (hs : s.wf) : (State.tickThread s g tid).wf := by
  unfold State.tickThread; grind [State.later_wf, State.modThread_wf]

theorem State.tickThreads_wf {s : State} (g : Nat) (a2 : List Nat) : s.wf → (State.tickThreads s g a2).wf := by
  fun_induction State.tickThreads s g a2 <;> grind [State.tickThread_wf]

theorem State.tickGroups_wf {s : State} (a1 : List Nat) : s.wf → (State.tickGroups s a1).wf := by
  fun_induction State.tickGroups s a1 <;> grind [State.tickThreads_wf]

theorem State.judge_wf {s : State} (g : Nat) (gr : Group) (hs : s.wf) : (State.judge s g gr).wf := by
  unfold State.judge
  split
  · split
    · exact State.later_wf _ hs
    · exact hs
  · rename_i ws _
    suffices h : ∀ (l : List Nat) (s : State), s.wf → (l.foldl (fun s w => s.later (.convergeMismatch g w)) s).wf from h _ _ hs
    intro l
    induction l with
    | nil => exact fun _ h => h
    | cons x l ih => exact fun s h => ih _ (State.later_wf _ h)


theorem State.judgeAll_wf {s : State} (a1 : List Nat) : s.wf → (State.judgeAll s a1).wf := by
  fun_induction State.judgeAll s a1 <;> grind [State.judge_wf]

theorem State.cycle_wf {s : State} (core : Nat) (hs : s.wf) : (State.cycle s core).wf := by
  unfold State.cycle; grind [State.slipTake_wf, State.settle_wf, State.gateTick_wf, State.endSamples_wf, State.prepGroups_wf, State.halts_wf, State.regroup_wf, State.split_wf, State.slotCycles_wf, State.tickGroups_wf, State.judgeAll_wf]

theorem State.deliverAll_wf {s : State} (g : Nat) (a2 : List (Nat × Raised)) : s.wf → (State.deliverAll s g a2).wf := by
  fun_induction State.deliverAll s g a2 <;> grind [State.deliver_wf]

theorem execConvergeMismatch_wf (grp : Nat) (warp : Nat) {s : State} (hs : s.wf) {out : State} (ht : execConvergeMismatch grp warp s = .next out) : out.wf := by
  unfold execConvergeMismatch at ht; grind [State.deliverAll_wf]

theorem execMwaitTimeout_wf (grp : Nat) (tid : Nat) {s : State} (hs : s.wf) {out : State} (ht : execMwaitTimeout grp tid s = .next out) : out.wf := by
  unfold execMwaitTimeout at ht; grind [State.modThread_wf]

theorem execYieldExpiry_wf (grp : Nat) (tid : Nat) {s : State} (hs : s.wf) {out : State} (ht : execYieldExpiry grp tid s = .next out) : out.wf := by
  unfold execYieldExpiry at ht; grind [State.modThread_wf]

theorem execDeferredFaultDelivery_wf (grp : Nat) (tid : Nat) {s : State} (hs : s.wf) {out : State} (ht : execDeferredFaultDelivery grp tid s = .next out) : out.wf := by
  unfold execDeferredFaultDelivery at ht; grind [State.faultFirst_wf]

theorem State.issueBundle_wf {s : State} (b : Bundle) (hs : s.wf) : (State.issueBundle s b).wf := by
  unfold State.issueBundle; grind [State.free_wf, State.openKey_wf, State.modGroup_wf]

theorem execSlotCycle_wf (core : Fin 1024) {s : State} (hs : s.wf) {out : State} (ht : execSlotCycle core s = .next out) : out.wf := by
  unfold execSlotCycle at ht; grind [State.cycle_wf]

theorem State.issueBundles_wf {s : State} (a1 : List Bundle) : s.wf → (State.issueBundles s a1).wf := by
  fun_induction State.issueBundles s a1 <;> grind [State.issueBundle_wf]

theorem execBarrierDeadlock_wf (grp : Nat) {s : State} (hs : s.wf) {out : State} (ht : execBarrierDeadlock grp s = .next out) : out.wf := by
  unfold execBarrierDeadlock at ht; grind [State.modGroup_wf, State.deliverAll_wf]

theorem execRegroup_wf (core : Fin 1024) {s : State} (hs : s.wf) {out : State} (ht : execRegroup core s = .next out) : out.wf := by
  unfold execRegroup at ht; grind [State.regroup_wf]

theorem execLaneReplay_wf (grp : Nat) (warp : Nat) {s : State} (hs : s.wf) {out : State} (ht : execLaneReplay grp warp s = .next out) : out.wf := by
  unfold execLaneReplay at ht; grind [State.replayEntry_wf]

theorem execNoticeExpiry_wf (grp : Nat) (tid : Nat) {s : State} (hs : s.wf) {out : State} (ht : execNoticeExpiry grp tid s = .next out) : out.wf := by
  unfold execNoticeExpiry at ht; grind [State.modThread_wf]

theorem State.releaseSelected_wf {s : State} (hs : s.wf) : (State.releaseSelected s).wf := by
  unfold State.releaseSelected; grind [State.issueBundles_wf]

theorem execWatchdogTick_wf (grp : Nat) {s : State} (hs : s.wf) {out : State} (ht : execWatchdogTick grp s = .next out) : out.wf := by
  unfold execWatchdogTick at ht; grind [State.modGroup_wf, State.later_wf]

theorem execWatchdogExpiry_wf (grp : Nat) {s : State} (hs : s.wf) {out : State} (ht : execWatchdogExpiry grp s = .next out) : out.wf := by
  unfold execWatchdogExpiry at ht; grind [State.endGroup_wf]

/-! ### Machine/Clock.lean -/

/-- Where the exchange of a port's RESTRIPE ends by itself, the form is kept. -/
theorem State.restripeEnds_wf {s t : State} (hs : s.wf) (h : s.restripeEnds = some t) : t.wf := by
  unfold State.restripeEnds at h
  split at h
  · cases h
  · split at h
    · rename_i hx
      cases h
      exact execRestripeAgreed_wf _ hs hx
    · cases h


theorem State.sends_wf {s : State} (a1 : Nat ⊕ Fin 2 × Nat) (hs : s.wf) : (State.sends s a1).wf := by
  unfold State.sends; grind [State.flitSent_wf, State.performPosted_wf]

theorem State.trainingEnds_wf {s out : State} (hs : s.wf) (ht : State.trainingEnds s = some out) : out.wf := by
  unfold State.trainingEnds at ht
  split at ht
  · cases ht
  · dsimp only at ht
    split at ht
    · rename_i h
      cases ht
      exact execTrainingTimeout_wf _ _ _ (State.free_wf hs) h
    · cases ht


theorem State.attempt_wf {s : State} (a1 : Instr) (hs : s.wf) {out : State} (ht : State.attempt s a1 = .next out) : out.wf := by
  unfold State.attempt at ht; grind [execPacketFinish_wf, execPacketReady_wf, execKernelLaunch_wf, execCopyPacketRun_wf, execPacketConsume_wf, execEvtReleaseApply_wf, execGatingConfirm_wf, execGroupEnd_wf, execSaveFrameWritten_wf, execRestoreComplete_wf, execGroupPlace_wf, execContextHalted_wf, execStagingComplete_wf, execDestroyComplete_wf, execPageRequestWrite_wf, execEventRingWrite_wf, execEgressStallExpiry_wf, execWadiDrained_wf, execSpillTimeout_wf, execLightHoldExpiry_wf, execAccessPerformed_wf, execTileOpPerformed_wf, execCommandComplete_wf]

theorem State.pass_wf {s : State} (hs : s.wf) : (State.pass s).wf := by
  unfold State.pass; grind

/-! ### Machine/Run.lean -/

/-- A word's run keeps the form where its meaning does. -/
theorem State.runs_wf {s t : State} {i : Instr} (hs : s.wf) (he : ∀ t, exec i s = .next t → t.wf) (h : s.runs i = .next t) :
    t.wf := by
  unfold State.runs at h
  split at h
  · rename_i ht
    cases h
    split
    · split
      · exact State.passed_wf _ (State.faultAt_wf _ _ _ _ (State.pop_wf hs))
      · exact he _ ht
    · exact he _ ht
  · exact he _ h

/-! ### Machine/Load.lean -/

theorem State.writeEntries_wf {s : State} (a1 : List (Nat × Nat)) : s.wf → (State.writeEntries s a1).wf := by
  fun_induction State.writeEntries s a1 <;> grind [State.setBytes_wf]

theorem State.standAt_wf {s : State} (_nbits : Nat) (w : Nat) (hs : s.wf) : (State.standAt s _nbits w).wf := by
  unfold State.standAt; grind [State.setBytes_wf, State.writeEntries_wf, State.free_wf]

end Sys2Proof.Machine
end

