-- ==== Sys2Proof/Laws/State.lean ====
section
/-! SUPPORT. What each update of the state, of a group and of a thread leaves in each field: one lemma per field per update. -/

namespace Sys2Proof.Machine

set_option Elab.async false

/-! ### State -/

@[simp] theorem State.setCore_time (s : State) (n : Nat) (c : Core) : (s.setCore n c).time = s.time := rfl
@[simp] theorem State.setCore_mem (s : State) (n : Nat) (c : Core) : (s.setCore n c).mem = s.mem := rfl
@[simp] theorem State.setCore_damaged (s : State) (n : Nat) (c : Core) : (s.setCore n c).damaged = s.damaged := rfl
@[simp] theorem State.setCore_ctxs (s : State) (n : Nat) (c : Core) : (s.setCore n c).ctxs = s.ctxs := rfl
@[simp] theorem State.setCore_queues (s : State) (n : Nat) (c : Core) : (s.setCore n c).queues = s.queues := rfl
@[simp] theorem State.setCore_regions (s : State) (n : Nat) (c : Core) : (s.setCore n c).regions = s.regions := rfl
@[simp] theorem State.setCore_pkts (s : State) (n : Nat) (c : Core) : (s.setCore n c).pkts = s.pkts := rfl
@[simp] theorem State.setCore_kernels (s : State) (n : Nat) (c : Core) : (s.setCore n c).kernels = s.kernels := rfl
@[simp] theorem State.setCore_groups (s : State) (n : Nat) (c : Core) : (s.setCore n c).groups = s.groups := rfl
@[simp] theorem State.setCore_accs (s : State) (n : Nat) (c : Core) : (s.setCore n c).accs = s.accs := rfl
@[simp] theorem State.setCore_batches (s : State) (n : Nat) (c : Core) : (s.setCore n c).batches = s.batches := rfl
@[simp] theorem State.setCore_cmds (s : State) (n : Nat) (c : Core) : (s.setCore n c).cmds = s.cmds := rfl
@[simp] theorem State.setCore_cores (s : State) (n : Nat) (c : Core) : (s.setCore n c).cores = Tbl.set Core.reset s.cores n c := rfl
@[simp] theorem State.setCore_clusters (s : State) (n : Nat) (c : Core) : (s.setCore n c).clusters = s.clusters := rfl
@[simp] theorem State.setCore_dies (s : State) (n : Nat) (c : Core) : (s.setCore n c).dies = s.dies := rfl
@[simp] theorem State.setCore_links (s : State) (n : Nat) (c : Core) : (s.setCore n c).links = s.links := rfl
@[simp] theorem State.setCore_reqs (s : State) (n : Nat) (c : Core) : (s.setCore n c).reqs = s.reqs := rfl
@[simp] theorem State.setCore_ports (s : State) (n : Nat) (c : Core) : (s.setCore n c).ports = s.ports := rfl
@[simp] theorem State.setCore_mgmt (s : State) (n : Nat) (c : Core) : (s.setCore n c).mgmt = s.mgmt := rfl
@[simp] theorem State.setCore_mirage (s : State) (n : Nat) (c : Core) : (s.setCore n c).mirage = s.mirage := rfl
@[simp] theorem State.setCore_boot (s : State) (n : Nat) (c : Core) : (s.setCore n c).boot = s.boot := rfl
@[simp] theorem State.setCore_tlb (s : State) (n : Nat) (c : Core) : (s.setCore n c).tlb = s.tlb := rfl
@[simp] theorem State.setCore_views (s : State) (n : Nat) (c : Core) : (s.setCore n c).views = s.views := rfl
@[simp] theorem State.setCore_samples (s : State) (n : Nat) (c : Core) : (s.setCore n c).samples = s.samples := rfl
@[simp] theorem State.setCore_telemetry (s : State) (n : Nat) (c : Core) : (s.setCore n c).telemetry = s.telemetry := rfl
@[simp] theorem State.setCore_borrowed (s : State) (n : Nat) (c : Core) : (s.setCore n c).borrowed = s.borrowed := rfl
@[simp] theorem State.setCore_shares (s : State) (n : Nat) (c : Core) : (s.setCore n c).shares = s.shares := rfl
@[simp] theorem State.setCore_oasisLost (s : State) (n : Nat) (c : Core) : (s.setCore n c).oasisLost = s.oasisLost := rfl
@[simp] theorem State.setCore_selected (s : State) (n : Nat) (c : Core) : (s.setCore n c).selected = s.selected := rfl
@[simp] theorem State.setCore_issuing (s : State) (n : Nat) (c : Core) : (s.setCore n c).issuing = s.issuing := rfl
@[simp] theorem State.setCore_due (s : State) (n : Nat) (c : Core) : (s.setCore n c).due = s.due := rfl
@[simp] theorem State.setCore_timers (s : State) (n : Nat) (c : Core) : (s.setCore n c).timers = s.timers := rfl
@[simp] theorem State.setCore_agenda (s : State) (n : Nat) (c : Core) : (s.setCore n c).agenda = s.agenda := rfl
@[simp] theorem State.setCore_scan (s : State) (n : Nat) (c : Core) : (s.setCore n c).scan = s.scan := rfl
@[simp] theorem State.setCore_output (s : State) (n : Nat) (c : Core) : (s.setCore n c).output = s.output := rfl
@[simp] theorem State.setCore_fresh (s : State) (n : Nat) (c : Core) : (s.setCore n c).fresh = s.fresh := rfl

@[simp] theorem State.setCluster_time (s : State) (n : Nat) (c : Cluster) : (s.setCluster n c).time = s.time := rfl
@[simp] theorem State.setCluster_mem (s : State) (n : Nat) (c : Cluster) : (s.setCluster n c).mem = s.mem := rfl
@[simp] theorem State.setCluster_damaged (s : State) (n : Nat) (c : Cluster) : (s.setCluster n c).damaged = s.damaged := rfl
@[simp] theorem State.setCluster_ctxs (s : State) (n : Nat) (c : Cluster) : (s.setCluster n c).ctxs = s.ctxs := rfl
@[simp] theorem State.setCluster_queues (s : State) (n : Nat) (c : Cluster) : (s.setCluster n c).queues = s.queues := rfl
@[simp] theorem State.setCluster_regions (s : State) (n : Nat) (c : Cluster) : (s.setCluster n c).regions = s.regions := rfl
@[simp] theorem State.setCluster_pkts (s : State) (n : Nat) (c : Cluster) : (s.setCluster n c).pkts = s.pkts := rfl
@[simp] theorem State.setCluster_kernels (s : State) (n : Nat) (c : Cluster) : (s.setCluster n c).kernels = s.kernels := rfl
@[simp] theorem State.setCluster_groups (s : State) (n : Nat) (c : Cluster) : (s.setCluster n c).groups = s.groups := rfl
@[simp] theorem State.setCluster_accs (s : State) (n : Nat) (c : Cluster) : (s.setCluster n c).accs = s.accs := rfl
@[simp] theorem State.setCluster_batches (s : State) (n : Nat) (c : Cluster) : (s.setCluster n c).batches = s.batches := rfl
@[simp] theorem State.setCluster_cmds (s : State) (n : Nat) (c : Cluster) : (s.setCluster n c).cmds = s.cmds := rfl
@[simp] theorem State.setCluster_cores (s : State) (n : Nat) (c : Cluster) : (s.setCluster n c).cores = s.cores := rfl
@[simp] theorem State.setCluster_clusters (s : State) (n : Nat) (c : Cluster) : (s.setCluster n c).clusters = Tbl.set Cluster.reset s.clusters n c := rfl
@[simp] theorem State.setCluster_dies (s : State) (n : Nat) (c : Cluster) : (s.setCluster n c).dies = s.dies := rfl
@[simp] theorem State.setCluster_links (s : State) (n : Nat) (c : Cluster) : (s.setCluster n c).links = s.links := rfl
@[simp] theorem State.setCluster_reqs (s : State) (n : Nat) (c : Cluster) : (s.setCluster n c).reqs = s.reqs := rfl
@[simp] theorem State.setCluster_ports (s : State) (n : Nat) (c : Cluster) : (s.setCluster n c).ports = s.ports := rfl
@[simp] theorem State.setCluster_mgmt (s : State) (n : Nat) (c : Cluster) : (s.setCluster n c).mgmt = s.mgmt := rfl
@[simp] theorem State.setCluster_mirage (s : State) (n : Nat) (c : Cluster) : (s.setCluster n c).mirage = s.mirage := rfl
@[simp] theorem State.setCluster_boot (s : State) (n : Nat) (c : Cluster) : (s.setCluster n c).boot = s.boot := rfl
@[simp] theorem State.setCluster_tlb (s : State) (n : Nat) (c : Cluster) : (s.setCluster n c).tlb = s.tlb := rfl
@[simp] theorem State.setCluster_views (s : State) (n : Nat) (c : Cluster) : (s.setCluster n c).views = s.views := rfl
@[simp] theorem State.setCluster_samples (s : State) (n : Nat) (c : Cluster) : (s.setCluster n c).samples = s.samples := rfl
@[simp] theorem State.setCluster_telemetry (s : State) (n : Nat) (c : Cluster) : (s.setCluster n c).telemetry = s.telemetry := rfl
@[simp] theorem State.setCluster_borrowed (s : State) (n : Nat) (c : Cluster) : (s.setCluster n c).borrowed = s.borrowed := rfl
@[simp] theorem State.setCluster_shares (s : State) (n : Nat) (c : Cluster) : (s.setCluster n c).shares = s.shares := rfl
@[simp] theorem State.setCluster_oasisLost (s : State) (n : Nat) (c : Cluster) : (s.setCluster n c).oasisLost = s.oasisLost := rfl
@[simp] theorem State.setCluster_selected (s : State) (n : Nat) (c : Cluster) : (s.setCluster n c).selected = s.selected := rfl
@[simp] theorem State.setCluster_issuing (s : State) (n : Nat) (c : Cluster) : (s.setCluster n c).issuing = s.issuing := rfl
@[simp] theorem State.setCluster_due (s : State) (n : Nat) (c : Cluster) : (s.setCluster n c).due = s.due := rfl
@[simp] theorem State.setCluster_timers (s : State) (n : Nat) (c : Cluster) : (s.setCluster n c).timers = s.timers := rfl
@[simp] theorem State.setCluster_agenda (s : State) (n : Nat) (c : Cluster) : (s.setCluster n c).agenda = s.agenda := rfl
@[simp] theorem State.setCluster_scan (s : State) (n : Nat) (c : Cluster) : (s.setCluster n c).scan = s.scan := rfl
@[simp] theorem State.setCluster_output (s : State) (n : Nat) (c : Cluster) : (s.setCluster n c).output = s.output := rfl
@[simp] theorem State.setCluster_fresh (s : State) (n : Nat) (c : Cluster) : (s.setCluster n c).fresh = s.fresh := rfl

@[simp] theorem State.setDie_time (s : State) (n : Nat) (d : Die) : (s.setDie n d).time = s.time := rfl
@[simp] theorem State.setDie_mem (s : State) (n : Nat) (d : Die) : (s.setDie n d).mem = s.mem := rfl
@[simp] theorem State.setDie_damaged (s : State) (n : Nat) (d : Die) : (s.setDie n d).damaged = s.damaged := rfl
@[simp] theorem State.setDie_ctxs (s : State) (n : Nat) (d : Die) : (s.setDie n d).ctxs = s.ctxs := rfl
@[simp] theorem State.setDie_queues (s : State) (n : Nat) (d : Die) : (s.setDie n d).queues = s.queues := rfl
@[simp] theorem State.setDie_regions (s : State) (n : Nat) (d : Die) : (s.setDie n d).regions = s.regions := rfl
@[simp] theorem State.setDie_pkts (s : State) (n : Nat) (d : Die) : (s.setDie n d).pkts = s.pkts := rfl
@[simp] theorem State.setDie_kernels (s : State) (n : Nat) (d : Die) : (s.setDie n d).kernels = s.kernels := rfl
@[simp] theorem State.setDie_groups (s : State) (n : Nat) (d : Die) : (s.setDie n d).groups = s.groups := rfl
@[simp] theorem State.setDie_accs (s : State) (n : Nat) (d : Die) : (s.setDie n d).accs = s.accs := rfl
@[simp] theorem State.setDie_batches (s : State) (n : Nat) (d : Die) : (s.setDie n d).batches = s.batches := rfl
@[simp] theorem State.setDie_cmds (s : State) (n : Nat) (d : Die) : (s.setDie n d).cmds = s.cmds := rfl
@[simp] theorem State.setDie_cores (s : State) (n : Nat) (d : Die) : (s.setDie n d).cores = s.cores := rfl
@[simp] theorem State.setDie_clusters (s : State) (n : Nat) (d : Die) : (s.setDie n d).clusters = s.clusters := rfl
@[simp] theorem State.setDie_dies (s : State) (n : Nat) (d : Die) : (s.setDie n d).dies = Tbl.set Die.reset s.dies n d := rfl
@[simp] theorem State.setDie_links (s : State) (n : Nat) (d : Die) : (s.setDie n d).links = s.links := rfl
@[simp] theorem State.setDie_reqs (s : State) (n : Nat) (d : Die) : (s.setDie n d).reqs = s.reqs := rfl
@[simp] theorem State.setDie_ports (s : State) (n : Nat) (d : Die) : (s.setDie n d).ports = s.ports := rfl
@[simp] theorem State.setDie_mgmt (s : State) (n : Nat) (d : Die) : (s.setDie n d).mgmt = s.mgmt := rfl
@[simp] theorem State.setDie_mirage (s : State) (n : Nat) (d : Die) : (s.setDie n d).mirage = s.mirage := rfl
@[simp] theorem State.setDie_boot (s : State) (n : Nat) (d : Die) : (s.setDie n d).boot = s.boot := rfl
@[simp] theorem State.setDie_tlb (s : State) (n : Nat) (d : Die) : (s.setDie n d).tlb = s.tlb := rfl
@[simp] theorem State.setDie_views (s : State) (n : Nat) (d : Die) : (s.setDie n d).views = s.views := rfl
@[simp] theorem State.setDie_samples (s : State) (n : Nat) (d : Die) : (s.setDie n d).samples = s.samples := rfl
@[simp] theorem State.setDie_telemetry (s : State) (n : Nat) (d : Die) : (s.setDie n d).telemetry = s.telemetry := rfl
@[simp] theorem State.setDie_borrowed (s : State) (n : Nat) (d : Die) : (s.setDie n d).borrowed = s.borrowed := rfl
@[simp] theorem State.setDie_shares (s : State) (n : Nat) (d : Die) : (s.setDie n d).shares = s.shares := rfl
@[simp] theorem State.setDie_oasisLost (s : State) (n : Nat) (d : Die) : (s.setDie n d).oasisLost = s.oasisLost := rfl
@[simp] theorem State.setDie_selected (s : State) (n : Nat) (d : Die) : (s.setDie n d).selected = s.selected := rfl
@[simp] theorem State.setDie_issuing (s : State) (n : Nat) (d : Die) : (s.setDie n d).issuing = s.issuing := rfl
@[simp] theorem State.setDie_due (s : State) (n : Nat) (d : Die) : (s.setDie n d).due = s.due := rfl
@[simp] theorem State.setDie_timers (s : State) (n : Nat) (d : Die) : (s.setDie n d).timers = s.timers := rfl
@[simp] theorem State.setDie_agenda (s : State) (n : Nat) (d : Die) : (s.setDie n d).agenda = s.agenda := rfl
@[simp] theorem State.setDie_scan (s : State) (n : Nat) (d : Die) : (s.setDie n d).scan = s.scan := rfl
@[simp] theorem State.setDie_output (s : State) (n : Nat) (d : Die) : (s.setDie n d).output = s.output := rfl
@[simp] theorem State.setDie_fresh (s : State) (n : Nat) (d : Die) : (s.setDie n d).fresh = s.fresh := rfl

@[simp] theorem State.setLink_time (s : State) (n : Nat) (l : Link) : (s.setLink n l).time = s.time := rfl
@[simp] theorem State.setLink_mem (s : State) (n : Nat) (l : Link) : (s.setLink n l).mem = s.mem := rfl
@[simp] theorem State.setLink_damaged (s : State) (n : Nat) (l : Link) : (s.setLink n l).damaged = s.damaged := rfl
@[simp] theorem State.setLink_ctxs (s : State) (n : Nat) (l : Link) : (s.setLink n l).ctxs = s.ctxs := rfl
@[simp] theorem State.setLink_queues (s : State) (n : Nat) (l : Link) : (s.setLink n l).queues = s.queues := rfl
@[simp] theorem State.setLink_regions (s : State) (n : Nat) (l : Link) : (s.setLink n l).regions = s.regions := rfl
@[simp] theorem State.setLink_pkts (s : State) (n : Nat) (l : Link) : (s.setLink n l).pkts = s.pkts := rfl
@[simp] theorem State.setLink_kernels (s : State) (n : Nat) (l : Link) : (s.setLink n l).kernels = s.kernels := rfl
@[simp] theorem State.setLink_groups (s : State) (n : Nat) (l : Link) : (s.setLink n l).groups = s.groups := rfl
@[simp] theorem State.setLink_accs (s : State) (n : Nat) (l : Link) : (s.setLink n l).accs = s.accs := rfl
@[simp] theorem State.setLink_batches (s : State) (n : Nat) (l : Link) : (s.setLink n l).batches = s.batches := rfl
@[simp] theorem State.setLink_cmds (s : State) (n : Nat) (l : Link) : (s.setLink n l).cmds = s.cmds := rfl
@[simp] theorem State.setLink_cores (s : State) (n : Nat) (l : Link) : (s.setLink n l).cores = s.cores := rfl
@[simp] theorem State.setLink_clusters (s : State) (n : Nat) (l : Link) : (s.setLink n l).clusters = s.clusters := rfl
@[simp] theorem State.setLink_dies (s : State) (n : Nat) (l : Link) : (s.setLink n l).dies = s.dies := rfl
@[simp] theorem State.setLink_links (s : State) (n : Nat) (l : Link) : (s.setLink n l).links = Tbl.set Link.reset s.links n l := rfl
@[simp] theorem State.setLink_reqs (s : State) (n : Nat) (l : Link) : (s.setLink n l).reqs = s.reqs := rfl
@[simp] theorem State.setLink_ports (s : State) (n : Nat) (l : Link) : (s.setLink n l).ports = s.ports := rfl
@[simp] theorem State.setLink_mgmt (s : State) (n : Nat) (l : Link) : (s.setLink n l).mgmt = s.mgmt := rfl
@[simp] theorem State.setLink_mirage (s : State) (n : Nat) (l : Link) : (s.setLink n l).mirage = s.mirage := rfl
@[simp] theorem State.setLink_boot (s : State) (n : Nat) (l : Link) : (s.setLink n l).boot = s.boot := rfl
@[simp] theorem State.setLink_tlb (s : State) (n : Nat) (l : Link) : (s.setLink n l).tlb = s.tlb := rfl
@[simp] theorem State.setLink_views (s : State) (n : Nat) (l : Link) : (s.setLink n l).views = s.views := rfl
@[simp] theorem State.setLink_samples (s : State) (n : Nat) (l : Link) : (s.setLink n l).samples = s.samples := rfl
@[simp] theorem State.setLink_telemetry (s : State) (n : Nat) (l : Link) : (s.setLink n l).telemetry = s.telemetry := rfl
@[simp] theorem State.setLink_borrowed (s : State) (n : Nat) (l : Link) : (s.setLink n l).borrowed = s.borrowed := rfl
@[simp] theorem State.setLink_shares (s : State) (n : Nat) (l : Link) : (s.setLink n l).shares = s.shares := rfl
@[simp] theorem State.setLink_oasisLost (s : State) (n : Nat) (l : Link) : (s.setLink n l).oasisLost = s.oasisLost := rfl
@[simp] theorem State.setLink_selected (s : State) (n : Nat) (l : Link) : (s.setLink n l).selected = s.selected := rfl
@[simp] theorem State.setLink_issuing (s : State) (n : Nat) (l : Link) : (s.setLink n l).issuing = s.issuing := rfl
@[simp] theorem State.setLink_due (s : State) (n : Nat) (l : Link) : (s.setLink n l).due = s.due := rfl
@[simp] theorem State.setLink_timers (s : State) (n : Nat) (l : Link) : (s.setLink n l).timers = s.timers := rfl
@[simp] theorem State.setLink_agenda (s : State) (n : Nat) (l : Link) : (s.setLink n l).agenda = s.agenda := rfl
@[simp] theorem State.setLink_scan (s : State) (n : Nat) (l : Link) : (s.setLink n l).scan = s.scan := rfl
@[simp] theorem State.setLink_output (s : State) (n : Nat) (l : Link) : (s.setLink n l).output = s.output := rfl
@[simp] theorem State.setLink_fresh (s : State) (n : Nat) (l : Link) : (s.setLink n l).fresh = s.fresh := rfl

@[simp] theorem State.setPort_time (s : State) (n : Nat) (p : Port) : (s.setPort n p).time = s.time := rfl
@[simp] theorem State.setPort_mem (s : State) (n : Nat) (p : Port) : (s.setPort n p).mem = s.mem := rfl
@[simp] theorem State.setPort_damaged (s : State) (n : Nat) (p : Port) : (s.setPort n p).damaged = s.damaged := rfl
@[simp] theorem State.setPort_ctxs (s : State) (n : Nat) (p : Port) : (s.setPort n p).ctxs = s.ctxs := rfl
@[simp] theorem State.setPort_queues (s : State) (n : Nat) (p : Port) : (s.setPort n p).queues = s.queues := rfl
@[simp] theorem State.setPort_regions (s : State) (n : Nat) (p : Port) : (s.setPort n p).regions = s.regions := rfl
@[simp] theorem State.setPort_pkts (s : State) (n : Nat) (p : Port) : (s.setPort n p).pkts = s.pkts := rfl
@[simp] theorem State.setPort_kernels (s : State) (n : Nat) (p : Port) : (s.setPort n p).kernels = s.kernels := rfl
@[simp] theorem State.setPort_groups (s : State) (n : Nat) (p : Port) : (s.setPort n p).groups = s.groups := rfl
@[simp] theorem State.setPort_accs (s : State) (n : Nat) (p : Port) : (s.setPort n p).accs = s.accs := rfl
@[simp] theorem State.setPort_batches (s : State) (n : Nat) (p : Port) : (s.setPort n p).batches = s.batches := rfl
@[simp] theorem State.setPort_cmds (s : State) (n : Nat) (p : Port) : (s.setPort n p).cmds = s.cmds := rfl
@[simp] theorem State.setPort_cores (s : State) (n : Nat) (p : Port) : (s.setPort n p).cores = s.cores := rfl
@[simp] theorem State.setPort_clusters (s : State) (n : Nat) (p : Port) : (s.setPort n p).clusters = s.clusters := rfl
@[simp] theorem State.setPort_dies (s : State) (n : Nat) (p : Port) : (s.setPort n p).dies = s.dies := rfl
@[simp] theorem State.setPort_links (s : State) (n : Nat) (p : Port) : (s.setPort n p).links = s.links := rfl
@[simp] theorem State.setPort_reqs (s : State) (n : Nat) (p : Port) : (s.setPort n p).reqs = s.reqs := rfl
@[simp] theorem State.setPort_ports (s : State) (n : Nat) (p : Port) : (s.setPort n p).ports = Tbl.set Port.reset s.ports n p := rfl
@[simp] theorem State.setPort_mgmt (s : State) (n : Nat) (p : Port) : (s.setPort n p).mgmt = s.mgmt := rfl
@[simp] theorem State.setPort_mirage (s : State) (n : Nat) (p : Port) : (s.setPort n p).mirage = s.mirage := rfl
@[simp] theorem State.setPort_boot (s : State) (n : Nat) (p : Port) : (s.setPort n p).boot = s.boot := rfl
@[simp] theorem State.setPort_tlb (s : State) (n : Nat) (p : Port) : (s.setPort n p).tlb = s.tlb := rfl
@[simp] theorem State.setPort_views (s : State) (n : Nat) (p : Port) : (s.setPort n p).views = s.views := rfl
@[simp] theorem State.setPort_samples (s : State) (n : Nat) (p : Port) : (s.setPort n p).samples = s.samples := rfl
@[simp] theorem State.setPort_telemetry (s : State) (n : Nat) (p : Port) : (s.setPort n p).telemetry = s.telemetry := rfl
@[simp] theorem State.setPort_borrowed (s : State) (n : Nat) (p : Port) : (s.setPort n p).borrowed = s.borrowed := rfl
@[simp] theorem State.setPort_shares (s : State) (n : Nat) (p : Port) : (s.setPort n p).shares = s.shares := rfl
@[simp] theorem State.setPort_oasisLost (s : State) (n : Nat) (p : Port) : (s.setPort n p).oasisLost = s.oasisLost := rfl
@[simp] theorem State.setPort_selected (s : State) (n : Nat) (p : Port) : (s.setPort n p).selected = s.selected := rfl
@[simp] theorem State.setPort_issuing (s : State) (n : Nat) (p : Port) : (s.setPort n p).issuing = s.issuing := rfl
@[simp] theorem State.setPort_due (s : State) (n : Nat) (p : Port) : (s.setPort n p).due = s.due := rfl
@[simp] theorem State.setPort_timers (s : State) (n : Nat) (p : Port) : (s.setPort n p).timers = s.timers := rfl
@[simp] theorem State.setPort_agenda (s : State) (n : Nat) (p : Port) : (s.setPort n p).agenda = s.agenda := rfl
@[simp] theorem State.setPort_scan (s : State) (n : Nat) (p : Port) : (s.setPort n p).scan = s.scan := rfl
@[simp] theorem State.setPort_output (s : State) (n : Nat) (p : Port) : (s.setPort n p).output = s.output := rfl
@[simp] theorem State.setPort_fresh (s : State) (n : Nat) (p : Port) : (s.setPort n p).fresh = s.fresh := rfl

@[simp] theorem State.modCtx_time (s : State) (n : Nat) (f : Ctx → Ctx) : (s.modCtx n f).time = s.time := rfl
@[simp] theorem State.modCtx_mem (s : State) (n : Nat) (f : Ctx → Ctx) : (s.modCtx n f).mem = s.mem := rfl
@[simp] theorem State.modCtx_damaged (s : State) (n : Nat) (f : Ctx → Ctx) : (s.modCtx n f).damaged = s.damaged := rfl
@[simp] theorem State.modCtx_ctxs (s : State) (n : Nat) (f : Ctx → Ctx) : (s.modCtx n f).ctxs = Tbl.modify s.ctxs n f := rfl
@[simp] theorem State.modCtx_queues (s : State) (n : Nat) (f : Ctx → Ctx) : (s.modCtx n f).queues = s.queues := rfl
@[simp] theorem State.modCtx_regions (s : State) (n : Nat) (f : Ctx → Ctx) : (s.modCtx n f).regions = s.regions := rfl
@[simp] theorem State.modCtx_pkts (s : State) (n : Nat) (f : Ctx → Ctx) : (s.modCtx n f).pkts = s.pkts := rfl
@[simp] theorem State.modCtx_kernels (s : State) (n : Nat) (f : Ctx → Ctx) : (s.modCtx n f).kernels = s.kernels := rfl
@[simp] theorem State.modCtx_groups (s : State) (n : Nat) (f : Ctx → Ctx) : (s.modCtx n f).groups = s.groups := rfl
@[simp] theorem State.modCtx_accs (s : State) (n : Nat) (f : Ctx → Ctx) : (s.modCtx n f).accs = s.accs := rfl
@[simp] theorem State.modCtx_batches (s : State) (n : Nat) (f : Ctx → Ctx) : (s.modCtx n f).batches = s.batches := rfl
@[simp] theorem State.modCtx_cmds (s : State) (n : Nat) (f : Ctx → Ctx) : (s.modCtx n f).cmds = s.cmds := rfl
@[simp] theorem State.modCtx_cores (s : State) (n : Nat) (f : Ctx → Ctx) : (s.modCtx n f).cores = s.cores := rfl
@[simp] theorem State.modCtx_clusters (s : State) (n : Nat) (f : Ctx → Ctx) : (s.modCtx n f).clusters = s.clusters := rfl
@[simp] theorem State.modCtx_dies (s : State) (n : Nat) (f : Ctx → Ctx) : (s.modCtx n f).dies = s.dies := rfl
@[simp] theorem State.modCtx_links (s : State) (n : Nat) (f : Ctx → Ctx) : (s.modCtx n f).links = s.links := rfl
@[simp] theorem State.modCtx_reqs (s : State) (n : Nat) (f : Ctx → Ctx) : (s.modCtx n f).reqs = s.reqs := rfl
@[simp] theorem State.modCtx_ports (s : State) (n : Nat) (f : Ctx → Ctx) : (s.modCtx n f).ports = s.ports := rfl
@[simp] theorem State.modCtx_mgmt (s : State) (n : Nat) (f : Ctx → Ctx) : (s.modCtx n f).mgmt = s.mgmt := rfl
@[simp] theorem State.modCtx_mirage (s : State) (n : Nat) (f : Ctx → Ctx) : (s.modCtx n f).mirage = s.mirage := rfl
@[simp] theorem State.modCtx_boot (s : State) (n : Nat) (f : Ctx → Ctx) : (s.modCtx n f).boot = s.boot := rfl
@[simp] theorem State.modCtx_tlb (s : State) (n : Nat) (f : Ctx → Ctx) : (s.modCtx n f).tlb = s.tlb := rfl
@[simp] theorem State.modCtx_views (s : State) (n : Nat) (f : Ctx → Ctx) : (s.modCtx n f).views = s.views := rfl
@[simp] theorem State.modCtx_samples (s : State) (n : Nat) (f : Ctx → Ctx) : (s.modCtx n f).samples = s.samples := rfl
@[simp] theorem State.modCtx_telemetry (s : State) (n : Nat) (f : Ctx → Ctx) : (s.modCtx n f).telemetry = s.telemetry := rfl
@[simp] theorem State.modCtx_borrowed (s : State) (n : Nat) (f : Ctx → Ctx) : (s.modCtx n f).borrowed = s.borrowed := rfl
@[simp] theorem State.modCtx_shares (s : State) (n : Nat) (f : Ctx → Ctx) : (s.modCtx n f).shares = s.shares := rfl
@[simp] theorem State.modCtx_oasisLost (s : State) (n : Nat) (f : Ctx → Ctx) : (s.modCtx n f).oasisLost = s.oasisLost := rfl
@[simp] theorem State.modCtx_selected (s : State) (n : Nat) (f : Ctx → Ctx) : (s.modCtx n f).selected = s.selected := rfl
@[simp] theorem State.modCtx_issuing (s : State) (n : Nat) (f : Ctx → Ctx) : (s.modCtx n f).issuing = s.issuing := rfl
@[simp] theorem State.modCtx_due (s : State) (n : Nat) (f : Ctx → Ctx) : (s.modCtx n f).due = s.due := rfl
@[simp] theorem State.modCtx_timers (s : State) (n : Nat) (f : Ctx → Ctx) : (s.modCtx n f).timers = s.timers := rfl
@[simp] theorem State.modCtx_agenda (s : State) (n : Nat) (f : Ctx → Ctx) : (s.modCtx n f).agenda = s.agenda := rfl
@[simp] theorem State.modCtx_scan (s : State) (n : Nat) (f : Ctx → Ctx) : (s.modCtx n f).scan = s.scan := rfl
@[simp] theorem State.modCtx_output (s : State) (n : Nat) (f : Ctx → Ctx) : (s.modCtx n f).output = s.output := rfl
@[simp] theorem State.modCtx_fresh (s : State) (n : Nat) (f : Ctx → Ctx) : (s.modCtx n f).fresh = s.fresh := rfl

@[simp] theorem State.modGroup_time (s : State) (n : Nat) (f : Group → Group) : (s.modGroup n f).time = s.time := rfl
@[simp] theorem State.modGroup_mem (s : State) (n : Nat) (f : Group → Group) : (s.modGroup n f).mem = s.mem := rfl
@[simp] theorem State.modGroup_damaged (s : State) (n : Nat) (f : Group → Group) : (s.modGroup n f).damaged = s.damaged := rfl
@[simp] theorem State.modGroup_ctxs (s : State) (n : Nat) (f : Group → Group) : (s.modGroup n f).ctxs = s.ctxs := rfl
@[simp] theorem State.modGroup_queues (s : State) (n : Nat) (f : Group → Group) : (s.modGroup n f).queues = s.queues := rfl
@[simp] theorem State.modGroup_regions (s : State) (n : Nat) (f : Group → Group) : (s.modGroup n f).regions = s.regions := rfl
@[simp] theorem State.modGroup_pkts (s : State) (n : Nat) (f : Group → Group) : (s.modGroup n f).pkts = s.pkts := rfl
@[simp] theorem State.modGroup_kernels (s : State) (n : Nat) (f : Group → Group) : (s.modGroup n f).kernels = s.kernels := rfl
@[simp] theorem State.modGroup_groups (s : State) (n : Nat) (f : Group → Group) : (s.modGroup n f).groups = Tbl.modify s.groups n f := rfl
@[simp] theorem State.modGroup_accs (s : State) (n : Nat) (f : Group → Group) : (s.modGroup n f).accs = s.accs := rfl
@[simp] theorem State.modGroup_batches (s : State) (n : Nat) (f : Group → Group) : (s.modGroup n f).batches = s.batches := rfl
@[simp] theorem State.modGroup_cmds (s : State) (n : Nat) (f : Group → Group) : (s.modGroup n f).cmds = s.cmds := rfl
@[simp] theorem State.modGroup_cores (s : State) (n : Nat) (f : Group → Group) : (s.modGroup n f).cores = s.cores := rfl
@[simp] theorem State.modGroup_clusters (s : State) (n : Nat) (f : Group → Group) : (s.modGroup n f).clusters = s.clusters := rfl
@[simp] theorem State.modGroup_dies (s : State) (n : Nat) (f : Group → Group) : (s.modGroup n f).dies = s.dies := rfl
@[simp] theorem State.modGroup_links (s : State) (n : Nat) (f : Group → Group) : (s.modGroup n f).links = s.links := rfl
@[simp] theorem State.modGroup_reqs (s : State) (n : Nat) (f : Group → Group) : (s.modGroup n f).reqs = s.reqs := rfl
@[simp] theorem State.modGroup_ports (s : State) (n : Nat) (f : Group → Group) : (s.modGroup n f).ports = s.ports := rfl
@[simp] theorem State.modGroup_mgmt (s : State) (n : Nat) (f : Group → Group) : (s.modGroup n f).mgmt = s.mgmt := rfl
@[simp] theorem State.modGroup_mirage (s : State) (n : Nat) (f : Group → Group) : (s.modGroup n f).mirage = s.mirage := rfl
@[simp] theorem State.modGroup_boot (s : State) (n : Nat) (f : Group → Group) : (s.modGroup n f).boot = s.boot := rfl
@[simp] theorem State.modGroup_tlb (s : State) (n : Nat) (f : Group → Group) : (s.modGroup n f).tlb = s.tlb := rfl
@[simp] theorem State.modGroup_views (s : State) (n : Nat) (f : Group → Group) : (s.modGroup n f).views = s.views := rfl
@[simp] theorem State.modGroup_samples (s : State) (n : Nat) (f : Group → Group) : (s.modGroup n f).samples = s.samples := rfl
@[simp] theorem State.modGroup_telemetry (s : State) (n : Nat) (f : Group → Group) : (s.modGroup n f).telemetry = s.telemetry := rfl
@[simp] theorem State.modGroup_borrowed (s : State) (n : Nat) (f : Group → Group) : (s.modGroup n f).borrowed = s.borrowed := rfl
@[simp] theorem State.modGroup_shares (s : State) (n : Nat) (f : Group → Group) : (s.modGroup n f).shares = s.shares := rfl
@[simp] theorem State.modGroup_oasisLost (s : State) (n : Nat) (f : Group → Group) : (s.modGroup n f).oasisLost = s.oasisLost := rfl
@[simp] theorem State.modGroup_selected (s : State) (n : Nat) (f : Group → Group) : (s.modGroup n f).selected = s.selected := rfl
@[simp] theorem State.modGroup_issuing (s : State) (n : Nat) (f : Group → Group) : (s.modGroup n f).issuing = s.issuing := rfl
@[simp] theorem State.modGroup_due (s : State) (n : Nat) (f : Group → Group) : (s.modGroup n f).due = s.due := rfl
@[simp] theorem State.modGroup_timers (s : State) (n : Nat) (f : Group → Group) : (s.modGroup n f).timers = s.timers := rfl
@[simp] theorem State.modGroup_agenda (s : State) (n : Nat) (f : Group → Group) : (s.modGroup n f).agenda = s.agenda := rfl
@[simp] theorem State.modGroup_scan (s : State) (n : Nat) (f : Group → Group) : (s.modGroup n f).scan = s.scan := rfl
@[simp] theorem State.modGroup_output (s : State) (n : Nat) (f : Group → Group) : (s.modGroup n f).output = s.output := rfl
@[simp] theorem State.modGroup_fresh (s : State) (n : Nat) (f : Group → Group) : (s.modGroup n f).fresh = s.fresh := rfl

@[simp] theorem State.modKernel_time (s : State) (n : Nat) (f : Kernel → Kernel) : (s.modKernel n f).time = s.time := rfl
@[simp] theorem State.modKernel_mem (s : State) (n : Nat) (f : Kernel → Kernel) : (s.modKernel n f).mem = s.mem := rfl
@[simp] theorem State.modKernel_damaged (s : State) (n : Nat) (f : Kernel → Kernel) : (s.modKernel n f).damaged = s.damaged := rfl
@[simp] theorem State.modKernel_ctxs (s : State) (n : Nat) (f : Kernel → Kernel) : (s.modKernel n f).ctxs = s.ctxs := rfl
@[simp] theorem State.modKernel_queues (s : State) (n : Nat) (f : Kernel → Kernel) : (s.modKernel n f).queues = s.queues := rfl
@[simp] theorem State.modKernel_regions (s : State) (n : Nat) (f : Kernel → Kernel) : (s.modKernel n f).regions = s.regions := rfl
@[simp] theorem State.modKernel_pkts (s : State) (n : Nat) (f : Kernel → Kernel) : (s.modKernel n f).pkts = s.pkts := rfl
@[simp] theorem State.modKernel_kernels (s : State) (n : Nat) (f : Kernel → Kernel) : (s.modKernel n f).kernels = Tbl.modify s.kernels n f := rfl
@[simp] theorem State.modKernel_groups (s : State) (n : Nat) (f : Kernel → Kernel) : (s.modKernel n f).groups = s.groups := rfl
@[simp] theorem State.modKernel_accs (s : State) (n : Nat) (f : Kernel → Kernel) : (s.modKernel n f).accs = s.accs := rfl
@[simp] theorem State.modKernel_batches (s : State) (n : Nat) (f : Kernel → Kernel) : (s.modKernel n f).batches = s.batches := rfl
@[simp] theorem State.modKernel_cmds (s : State) (n : Nat) (f : Kernel → Kernel) : (s.modKernel n f).cmds = s.cmds := rfl
@[simp] theorem State.modKernel_cores (s : State) (n : Nat) (f : Kernel → Kernel) : (s.modKernel n f).cores = s.cores := rfl
@[simp] theorem State.modKernel_clusters (s : State) (n : Nat) (f : Kernel → Kernel) : (s.modKernel n f).clusters = s.clusters := rfl
@[simp] theorem State.modKernel_dies (s : State) (n : Nat) (f : Kernel → Kernel) : (s.modKernel n f).dies = s.dies := rfl
@[simp] theorem State.modKernel_links (s : State) (n : Nat) (f : Kernel → Kernel) : (s.modKernel n f).links = s.links := rfl
@[simp] theorem State.modKernel_reqs (s : State) (n : Nat) (f : Kernel → Kernel) : (s.modKernel n f).reqs = s.reqs := rfl
@[simp] theorem State.modKernel_ports (s : State) (n : Nat) (f : Kernel → Kernel) : (s.modKernel n f).ports = s.ports := rfl
@[simp] theorem State.modKernel_mgmt (s : State) (n : Nat) (f : Kernel → Kernel) : (s.modKernel n f).mgmt = s.mgmt := rfl
@[simp] theorem State.modKernel_mirage (s : State) (n : Nat) (f : Kernel → Kernel) : (s.modKernel n f).mirage = s.mirage := rfl
@[simp] theorem State.modKernel_boot (s : State) (n : Nat) (f : Kernel → Kernel) : (s.modKernel n f).boot = s.boot := rfl
@[simp] theorem State.modKernel_tlb (s : State) (n : Nat) (f : Kernel → Kernel) : (s.modKernel n f).tlb = s.tlb := rfl
@[simp] theorem State.modKernel_views (s : State) (n : Nat) (f : Kernel → Kernel) : (s.modKernel n f).views = s.views := rfl
@[simp] theorem State.modKernel_samples (s : State) (n : Nat) (f : Kernel → Kernel) : (s.modKernel n f).samples = s.samples := rfl
@[simp] theorem State.modKernel_telemetry (s : State) (n : Nat) (f : Kernel → Kernel) : (s.modKernel n f).telemetry = s.telemetry := rfl
@[simp] theorem State.modKernel_borrowed (s : State) (n : Nat) (f : Kernel → Kernel) : (s.modKernel n f).borrowed = s.borrowed := rfl
@[simp] theorem State.modKernel_shares (s : State) (n : Nat) (f : Kernel → Kernel) : (s.modKernel n f).shares = s.shares := rfl
@[simp] theorem State.modKernel_oasisLost (s : State) (n : Nat) (f : Kernel → Kernel) : (s.modKernel n f).oasisLost = s.oasisLost := rfl
@[simp] theorem State.modKernel_selected (s : State) (n : Nat) (f : Kernel → Kernel) : (s.modKernel n f).selected = s.selected := rfl
@[simp] theorem State.modKernel_issuing (s : State) (n : Nat) (f : Kernel → Kernel) : (s.modKernel n f).issuing = s.issuing := rfl
@[simp] theorem State.modKernel_due (s : State) (n : Nat) (f : Kernel → Kernel) : (s.modKernel n f).due = s.due := rfl
@[simp] theorem State.modKernel_timers (s : State) (n : Nat) (f : Kernel → Kernel) : (s.modKernel n f).timers = s.timers := rfl
@[simp] theorem State.modKernel_agenda (s : State) (n : Nat) (f : Kernel → Kernel) : (s.modKernel n f).agenda = s.agenda := rfl
@[simp] theorem State.modKernel_scan (s : State) (n : Nat) (f : Kernel → Kernel) : (s.modKernel n f).scan = s.scan := rfl
@[simp] theorem State.modKernel_output (s : State) (n : Nat) (f : Kernel → Kernel) : (s.modKernel n f).output = s.output := rfl
@[simp] theorem State.modKernel_fresh (s : State) (n : Nat) (f : Kernel → Kernel) : (s.modKernel n f).fresh = s.fresh := rfl

@[simp] theorem State.modPkt_time (s : State) (n : Nat) (f : Pkt → Pkt) : (s.modPkt n f).time = s.time := rfl
@[simp] theorem State.modPkt_mem (s : State) (n : Nat) (f : Pkt → Pkt) : (s.modPkt n f).mem = s.mem := rfl
@[simp] theorem State.modPkt_damaged (s : State) (n : Nat) (f : Pkt → Pkt) : (s.modPkt n f).damaged = s.damaged := rfl
@[simp] theorem State.modPkt_ctxs (s : State) (n : Nat) (f : Pkt → Pkt) : (s.modPkt n f).ctxs = s.ctxs := rfl
@[simp] theorem State.modPkt_queues (s : State) (n : Nat) (f : Pkt → Pkt) : (s.modPkt n f).queues = s.queues := rfl
@[simp] theorem State.modPkt_regions (s : State) (n : Nat) (f : Pkt → Pkt) : (s.modPkt n f).regions = s.regions := rfl
@[simp] theorem State.modPkt_pkts (s : State) (n : Nat) (f : Pkt → Pkt) : (s.modPkt n f).pkts = Tbl.modify s.pkts n f := rfl
@[simp] theorem State.modPkt_kernels (s : State) (n : Nat) (f : Pkt → Pkt) : (s.modPkt n f).kernels = s.kernels := rfl
@[simp] theorem State.modPkt_groups (s : State) (n : Nat) (f : Pkt → Pkt) : (s.modPkt n f).groups = s.groups := rfl
@[simp] theorem State.modPkt_accs (s : State) (n : Nat) (f : Pkt → Pkt) : (s.modPkt n f).accs = s.accs := rfl
@[simp] theorem State.modPkt_batches (s : State) (n : Nat) (f : Pkt → Pkt) : (s.modPkt n f).batches = s.batches := rfl
@[simp] theorem State.modPkt_cmds (s : State) (n : Nat) (f : Pkt → Pkt) : (s.modPkt n f).cmds = s.cmds := rfl
@[simp] theorem State.modPkt_cores (s : State) (n : Nat) (f : Pkt → Pkt) : (s.modPkt n f).cores = s.cores := rfl
@[simp] theorem State.modPkt_clusters (s : State) (n : Nat) (f : Pkt → Pkt) : (s.modPkt n f).clusters = s.clusters := rfl
@[simp] theorem State.modPkt_dies (s : State) (n : Nat) (f : Pkt → Pkt) : (s.modPkt n f).dies = s.dies := rfl
@[simp] theorem State.modPkt_links (s : State) (n : Nat) (f : Pkt → Pkt) : (s.modPkt n f).links = s.links := rfl
@[simp] theorem State.modPkt_reqs (s : State) (n : Nat) (f : Pkt → Pkt) : (s.modPkt n f).reqs = s.reqs := rfl
@[simp] theorem State.modPkt_ports (s : State) (n : Nat) (f : Pkt → Pkt) : (s.modPkt n f).ports = s.ports := rfl
@[simp] theorem State.modPkt_mgmt (s : State) (n : Nat) (f : Pkt → Pkt) : (s.modPkt n f).mgmt = s.mgmt := rfl
@[simp] theorem State.modPkt_mirage (s : State) (n : Nat) (f : Pkt → Pkt) : (s.modPkt n f).mirage = s.mirage := rfl
@[simp] theorem State.modPkt_boot (s : State) (n : Nat) (f : Pkt → Pkt) : (s.modPkt n f).boot = s.boot := rfl
@[simp] theorem State.modPkt_tlb (s : State) (n : Nat) (f : Pkt → Pkt) : (s.modPkt n f).tlb = s.tlb := rfl
@[simp] theorem State.modPkt_views (s : State) (n : Nat) (f : Pkt → Pkt) : (s.modPkt n f).views = s.views := rfl
@[simp] theorem State.modPkt_samples (s : State) (n : Nat) (f : Pkt → Pkt) : (s.modPkt n f).samples = s.samples := rfl
@[simp] theorem State.modPkt_telemetry (s : State) (n : Nat) (f : Pkt → Pkt) : (s.modPkt n f).telemetry = s.telemetry := rfl
@[simp] theorem State.modPkt_borrowed (s : State) (n : Nat) (f : Pkt → Pkt) : (s.modPkt n f).borrowed = s.borrowed := rfl
@[simp] theorem State.modPkt_shares (s : State) (n : Nat) (f : Pkt → Pkt) : (s.modPkt n f).shares = s.shares := rfl
@[simp] theorem State.modPkt_oasisLost (s : State) (n : Nat) (f : Pkt → Pkt) : (s.modPkt n f).oasisLost = s.oasisLost := rfl
@[simp] theorem State.modPkt_selected (s : State) (n : Nat) (f : Pkt → Pkt) : (s.modPkt n f).selected = s.selected := rfl
@[simp] theorem State.modPkt_issuing (s : State) (n : Nat) (f : Pkt → Pkt) : (s.modPkt n f).issuing = s.issuing := rfl
@[simp] theorem State.modPkt_due (s : State) (n : Nat) (f : Pkt → Pkt) : (s.modPkt n f).due = s.due := rfl
@[simp] theorem State.modPkt_timers (s : State) (n : Nat) (f : Pkt → Pkt) : (s.modPkt n f).timers = s.timers := rfl
@[simp] theorem State.modPkt_agenda (s : State) (n : Nat) (f : Pkt → Pkt) : (s.modPkt n f).agenda = s.agenda := rfl
@[simp] theorem State.modPkt_scan (s : State) (n : Nat) (f : Pkt → Pkt) : (s.modPkt n f).scan = s.scan := rfl
@[simp] theorem State.modPkt_output (s : State) (n : Nat) (f : Pkt → Pkt) : (s.modPkt n f).output = s.output := rfl
@[simp] theorem State.modPkt_fresh (s : State) (n : Nat) (f : Pkt → Pkt) : (s.modPkt n f).fresh = s.fresh := rfl

@[simp] theorem State.modQueue_time (s : State) (n : Nat) (f : Queue → Queue) : (s.modQueue n f).time = s.time := rfl
@[simp] theorem State.modQueue_mem (s : State) (n : Nat) (f : Queue → Queue) : (s.modQueue n f).mem = s.mem := rfl
@[simp] theorem State.modQueue_damaged (s : State) (n : Nat) (f : Queue → Queue) : (s.modQueue n f).damaged = s.damaged := rfl
@[simp] theorem State.modQueue_ctxs (s : State) (n : Nat) (f : Queue → Queue) : (s.modQueue n f).ctxs = s.ctxs := rfl
@[simp] theorem State.modQueue_queues (s : State) (n : Nat) (f : Queue → Queue) : (s.modQueue n f).queues = Tbl.modify s.queues n f := rfl
@[simp] theorem State.modQueue_regions (s : State) (n : Nat) (f : Queue → Queue) : (s.modQueue n f).regions = s.regions := rfl
@[simp] theorem State.modQueue_pkts (s : State) (n : Nat) (f : Queue → Queue) : (s.modQueue n f).pkts = s.pkts := rfl
@[simp] theorem State.modQueue_kernels (s : State) (n : Nat) (f : Queue → Queue) : (s.modQueue n f).kernels = s.kernels := rfl
@[simp] theorem State.modQueue_groups (s : State) (n : Nat) (f : Queue → Queue) : (s.modQueue n f).groups = s.groups := rfl
@[simp] theorem State.modQueue_accs (s : State) (n : Nat) (f : Queue → Queue) : (s.modQueue n f).accs = s.accs := rfl
@[simp] theorem State.modQueue_batches (s : State) (n : Nat) (f : Queue → Queue) : (s.modQueue n f).batches = s.batches := rfl
@[simp] theorem State.modQueue_cmds (s : State) (n : Nat) (f : Queue → Queue) : (s.modQueue n f).cmds = s.cmds := rfl
@[simp] theorem State.modQueue_cores (s : State) (n : Nat) (f : Queue → Queue) : (s.modQueue n f).cores = s.cores := rfl
@[simp] theorem State.modQueue_clusters (s : State) (n : Nat) (f : Queue → Queue) : (s.modQueue n f).clusters = s.clusters := rfl
@[simp] theorem State.modQueue_dies (s : State) (n : Nat) (f : Queue → Queue) : (s.modQueue n f).dies = s.dies := rfl
@[simp] theorem State.modQueue_links (s : State) (n : Nat) (f : Queue → Queue) : (s.modQueue n f).links = s.links := rfl
@[simp] theorem State.modQueue_reqs (s : State) (n : Nat) (f : Queue → Queue) : (s.modQueue n f).reqs = s.reqs := rfl
@[simp] theorem State.modQueue_ports (s : State) (n : Nat) (f : Queue → Queue) : (s.modQueue n f).ports = s.ports := rfl
@[simp] theorem State.modQueue_mgmt (s : State) (n : Nat) (f : Queue → Queue) : (s.modQueue n f).mgmt = s.mgmt := rfl
@[simp] theorem State.modQueue_mirage (s : State) (n : Nat) (f : Queue → Queue) : (s.modQueue n f).mirage = s.mirage := rfl
@[simp] theorem State.modQueue_boot (s : State) (n : Nat) (f : Queue → Queue) : (s.modQueue n f).boot = s.boot := rfl
@[simp] theorem State.modQueue_tlb (s : State) (n : Nat) (f : Queue → Queue) : (s.modQueue n f).tlb = s.tlb := rfl
@[simp] theorem State.modQueue_views (s : State) (n : Nat) (f : Queue → Queue) : (s.modQueue n f).views = s.views := rfl
@[simp] theorem State.modQueue_samples (s : State) (n : Nat) (f : Queue → Queue) : (s.modQueue n f).samples = s.samples := rfl
@[simp] theorem State.modQueue_telemetry (s : State) (n : Nat) (f : Queue → Queue) : (s.modQueue n f).telemetry = s.telemetry := rfl
@[simp] theorem State.modQueue_borrowed (s : State) (n : Nat) (f : Queue → Queue) : (s.modQueue n f).borrowed = s.borrowed := rfl
@[simp] theorem State.modQueue_shares (s : State) (n : Nat) (f : Queue → Queue) : (s.modQueue n f).shares = s.shares := rfl
@[simp] theorem State.modQueue_oasisLost (s : State) (n : Nat) (f : Queue → Queue) : (s.modQueue n f).oasisLost = s.oasisLost := rfl
@[simp] theorem State.modQueue_selected (s : State) (n : Nat) (f : Queue → Queue) : (s.modQueue n f).selected = s.selected := rfl
@[simp] theorem State.modQueue_issuing (s : State) (n : Nat) (f : Queue → Queue) : (s.modQueue n f).issuing = s.issuing := rfl
@[simp] theorem State.modQueue_due (s : State) (n : Nat) (f : Queue → Queue) : (s.modQueue n f).due = s.due := rfl
@[simp] theorem State.modQueue_timers (s : State) (n : Nat) (f : Queue → Queue) : (s.modQueue n f).timers = s.timers := rfl
@[simp] theorem State.modQueue_agenda (s : State) (n : Nat) (f : Queue → Queue) : (s.modQueue n f).agenda = s.agenda := rfl
@[simp] theorem State.modQueue_scan (s : State) (n : Nat) (f : Queue → Queue) : (s.modQueue n f).scan = s.scan := rfl
@[simp] theorem State.modQueue_output (s : State) (n : Nat) (f : Queue → Queue) : (s.modQueue n f).output = s.output := rfl
@[simp] theorem State.modQueue_fresh (s : State) (n : Nat) (f : Queue → Queue) : (s.modQueue n f).fresh = s.fresh := rfl

@[simp] theorem State.modThread_time (s : State) (g n : Nat) (f : Thread → Thread) : (s.modThread g n f).time = s.time := rfl
@[simp] theorem State.modThread_mem (s : State) (g n : Nat) (f : Thread → Thread) : (s.modThread g n f).mem = s.mem := rfl
@[simp] theorem State.modThread_damaged (s : State) (g n : Nat) (f : Thread → Thread) : (s.modThread g n f).damaged = s.damaged := rfl
@[simp] theorem State.modThread_ctxs (s : State) (g n : Nat) (f : Thread → Thread) : (s.modThread g n f).ctxs = s.ctxs := rfl
@[simp] theorem State.modThread_queues (s : State) (g n : Nat) (f : Thread → Thread) : (s.modThread g n f).queues = s.queues := rfl
@[simp] theorem State.modThread_regions (s : State) (g n : Nat) (f : Thread → Thread) : (s.modThread g n f).regions = s.regions := rfl
@[simp] theorem State.modThread_pkts (s : State) (g n : Nat) (f : Thread → Thread) : (s.modThread g n f).pkts = s.pkts := rfl
@[simp] theorem State.modThread_kernels (s : State) (g n : Nat) (f : Thread → Thread) : (s.modThread g n f).kernels = s.kernels := rfl
@[simp] theorem State.modThread_groups (s : State) (g n : Nat) (f : Thread → Thread) : (s.modThread g n f).groups = Tbl.modify s.groups g fun gr => gr.modThread n f := rfl
@[simp] theorem State.modThread_accs (s : State) (g n : Nat) (f : Thread → Thread) : (s.modThread g n f).accs = s.accs := rfl
@[simp] theorem State.modThread_batches (s : State) (g n : Nat) (f : Thread → Thread) : (s.modThread g n f).batches = s.batches := rfl
@[simp] theorem State.modThread_cmds (s : State) (g n : Nat) (f : Thread → Thread) : (s.modThread g n f).cmds = s.cmds := rfl
@[simp] theorem State.modThread_cores (s : State) (g n : Nat) (f : Thread → Thread) : (s.modThread g n f).cores = s.cores := rfl
@[simp] theorem State.modThread_clusters (s : State) (g n : Nat) (f : Thread → Thread) : (s.modThread g n f).clusters = s.clusters := rfl
@[simp] theorem State.modThread_dies (s : State) (g n : Nat) (f : Thread → Thread) : (s.modThread g n f).dies = s.dies := rfl
@[simp] theorem State.modThread_links (s : State) (g n : Nat) (f : Thread → Thread) : (s.modThread g n f).links = s.links := rfl
@[simp] theorem State.modThread_reqs (s : State) (g n : Nat) (f : Thread → Thread) : (s.modThread g n f).reqs = s.reqs := rfl
@[simp] theorem State.modThread_ports (s : State) (g n : Nat) (f : Thread → Thread) : (s.modThread g n f).ports = s.ports := rfl
@[simp] theorem State.modThread_mgmt (s : State) (g n : Nat) (f : Thread → Thread) : (s.modThread g n f).mgmt = s.mgmt := rfl
@[simp] theorem State.modThread_mirage (s : State) (g n : Nat) (f : Thread → Thread) : (s.modThread g n f).mirage = s.mirage := rfl
@[simp] theorem State.modThread_boot (s : State) (g n : Nat) (f : Thread → Thread) : (s.modThread g n f).boot = s.boot := rfl
@[simp] theorem State.modThread_tlb (s : State) (g n : Nat) (f : Thread → Thread) : (s.modThread g n f).tlb = s.tlb := rfl
@[simp] theorem State.modThread_views (s : State) (g n : Nat) (f : Thread → Thread) : (s.modThread g n f).views = s.views := rfl
@[simp] theorem State.modThread_samples (s : State) (g n : Nat) (f : Thread → Thread) : (s.modThread g n f).samples = s.samples := rfl
@[simp] theorem State.modThread_telemetry (s : State) (g n : Nat) (f : Thread → Thread) : (s.modThread g n f).telemetry = s.telemetry := rfl
@[simp] theorem State.modThread_borrowed (s : State) (g n : Nat) (f : Thread → Thread) : (s.modThread g n f).borrowed = s.borrowed := rfl
@[simp] theorem State.modThread_shares (s : State) (g n : Nat) (f : Thread → Thread) : (s.modThread g n f).shares = s.shares := rfl
@[simp] theorem State.modThread_oasisLost (s : State) (g n : Nat) (f : Thread → Thread) : (s.modThread g n f).oasisLost = s.oasisLost := rfl
@[simp] theorem State.modThread_selected (s : State) (g n : Nat) (f : Thread → Thread) : (s.modThread g n f).selected = s.selected := rfl
@[simp] theorem State.modThread_issuing (s : State) (g n : Nat) (f : Thread → Thread) : (s.modThread g n f).issuing = s.issuing := rfl
@[simp] theorem State.modThread_due (s : State) (g n : Nat) (f : Thread → Thread) : (s.modThread g n f).due = s.due := rfl
@[simp] theorem State.modThread_timers (s : State) (g n : Nat) (f : Thread → Thread) : (s.modThread g n f).timers = s.timers := rfl
@[simp] theorem State.modThread_agenda (s : State) (g n : Nat) (f : Thread → Thread) : (s.modThread g n f).agenda = s.agenda := rfl
@[simp] theorem State.modThread_scan (s : State) (g n : Nat) (f : Thread → Thread) : (s.modThread g n f).scan = s.scan := rfl
@[simp] theorem State.modThread_output (s : State) (g n : Nat) (f : Thread → Thread) : (s.modThread g n f).output = s.output := rfl
@[simp] theorem State.modThread_fresh (s : State) (g n : Nat) (f : Thread → Thread) : (s.modThread g n f).fresh = s.fresh := rfl

@[simp] theorem State.emit_time (s : State) (o : Output) : (s.emit o).time = s.time := rfl
@[simp] theorem State.emit_mem (s : State) (o : Output) : (s.emit o).mem = s.mem := rfl
@[simp] theorem State.emit_damaged (s : State) (o : Output) : (s.emit o).damaged = s.damaged := rfl
@[simp] theorem State.emit_ctxs (s : State) (o : Output) : (s.emit o).ctxs = s.ctxs := rfl
@[simp] theorem State.emit_queues (s : State) (o : Output) : (s.emit o).queues = s.queues := rfl
@[simp] theorem State.emit_regions (s : State) (o : Output) : (s.emit o).regions = s.regions := rfl
@[simp] theorem State.emit_pkts (s : State) (o : Output) : (s.emit o).pkts = s.pkts := rfl
@[simp] theorem State.emit_kernels (s : State) (o : Output) : (s.emit o).kernels = s.kernels := rfl
@[simp] theorem State.emit_groups (s : State) (o : Output) : (s.emit o).groups = s.groups := rfl
@[simp] theorem State.emit_accs (s : State) (o : Output) : (s.emit o).accs = s.accs := rfl
@[simp] theorem State.emit_batches (s : State) (o : Output) : (s.emit o).batches = s.batches := rfl
@[simp] theorem State.emit_cmds (s : State) (o : Output) : (s.emit o).cmds = s.cmds := rfl
@[simp] theorem State.emit_cores (s : State) (o : Output) : (s.emit o).cores = s.cores := rfl
@[simp] theorem State.emit_clusters (s : State) (o : Output) : (s.emit o).clusters = s.clusters := rfl
@[simp] theorem State.emit_dies (s : State) (o : Output) : (s.emit o).dies = s.dies := rfl
@[simp] theorem State.emit_links (s : State) (o : Output) : (s.emit o).links = s.links := rfl
@[simp] theorem State.emit_reqs (s : State) (o : Output) : (s.emit o).reqs = s.reqs := rfl
@[simp] theorem State.emit_ports (s : State) (o : Output) : (s.emit o).ports = s.ports := rfl
@[simp] theorem State.emit_mgmt (s : State) (o : Output) : (s.emit o).mgmt = s.mgmt := rfl
@[simp] theorem State.emit_mirage (s : State) (o : Output) : (s.emit o).mirage = s.mirage := rfl
@[simp] theorem State.emit_boot (s : State) (o : Output) : (s.emit o).boot = s.boot := rfl
@[simp] theorem State.emit_tlb (s : State) (o : Output) : (s.emit o).tlb = s.tlb := rfl
@[simp] theorem State.emit_views (s : State) (o : Output) : (s.emit o).views = s.views := rfl
@[simp] theorem State.emit_samples (s : State) (o : Output) : (s.emit o).samples = s.samples := rfl
@[simp] theorem State.emit_telemetry (s : State) (o : Output) : (s.emit o).telemetry = s.telemetry := rfl
@[simp] theorem State.emit_borrowed (s : State) (o : Output) : (s.emit o).borrowed = s.borrowed := rfl
@[simp] theorem State.emit_shares (s : State) (o : Output) : (s.emit o).shares = s.shares := rfl
@[simp] theorem State.emit_oasisLost (s : State) (o : Output) : (s.emit o).oasisLost = s.oasisLost := rfl
@[simp] theorem State.emit_selected (s : State) (o : Output) : (s.emit o).selected = s.selected := rfl
@[simp] theorem State.emit_issuing (s : State) (o : Output) : (s.emit o).issuing = s.issuing := rfl
@[simp] theorem State.emit_due (s : State) (o : Output) : (s.emit o).due = s.due := rfl
@[simp] theorem State.emit_timers (s : State) (o : Output) : (s.emit o).timers = s.timers := rfl
@[simp] theorem State.emit_agenda (s : State) (o : Output) : (s.emit o).agenda = s.agenda := rfl
@[simp] theorem State.emit_scan (s : State) (o : Output) : (s.emit o).scan = s.scan := rfl
@[simp] theorem State.emit_output (s : State) (o : Output) : (s.emit o).output = s.output ++ [o] := rfl
@[simp] theorem State.emit_fresh (s : State) (o : Output) : (s.emit o).fresh = s.fresh := rfl

@[simp] theorem State.after_time (s : State) (n : Nat) (i : Instr) : (s.after n i).time = s.time := rfl
@[simp] theorem State.after_mem (s : State) (n : Nat) (i : Instr) : (s.after n i).mem = s.mem := rfl
@[simp] theorem State.after_damaged (s : State) (n : Nat) (i : Instr) : (s.after n i).damaged = s.damaged := rfl
@[simp] theorem State.after_ctxs (s : State) (n : Nat) (i : Instr) : (s.after n i).ctxs = s.ctxs := rfl
@[simp] theorem State.after_queues (s : State) (n : Nat) (i : Instr) : (s.after n i).queues = s.queues := rfl
@[simp] theorem State.after_regions (s : State) (n : Nat) (i : Instr) : (s.after n i).regions = s.regions := rfl
@[simp] theorem State.after_pkts (s : State) (n : Nat) (i : Instr) : (s.after n i).pkts = s.pkts := rfl
@[simp] theorem State.after_kernels (s : State) (n : Nat) (i : Instr) : (s.after n i).kernels = s.kernels := rfl
@[simp] theorem State.after_groups (s : State) (n : Nat) (i : Instr) : (s.after n i).groups = s.groups := rfl
@[simp] theorem State.after_accs (s : State) (n : Nat) (i : Instr) : (s.after n i).accs = s.accs := rfl
@[simp] theorem State.after_batches (s : State) (n : Nat) (i : Instr) : (s.after n i).batches = s.batches := rfl
@[simp] theorem State.after_cmds (s : State) (n : Nat) (i : Instr) : (s.after n i).cmds = s.cmds := rfl
@[simp] theorem State.after_cores (s : State) (n : Nat) (i : Instr) : (s.after n i).cores = s.cores := rfl
@[simp] theorem State.after_clusters (s : State) (n : Nat) (i : Instr) : (s.after n i).clusters = s.clusters := rfl
@[simp] theorem State.after_dies (s : State) (n : Nat) (i : Instr) : (s.after n i).dies = s.dies := rfl
@[simp] theorem State.after_links (s : State) (n : Nat) (i : Instr) : (s.after n i).links = s.links := rfl
@[simp] theorem State.after_reqs (s : State) (n : Nat) (i : Instr) : (s.after n i).reqs = s.reqs := rfl
@[simp] theorem State.after_ports (s : State) (n : Nat) (i : Instr) : (s.after n i).ports = s.ports := rfl
@[simp] theorem State.after_mgmt (s : State) (n : Nat) (i : Instr) : (s.after n i).mgmt = s.mgmt := rfl
@[simp] theorem State.after_mirage (s : State) (n : Nat) (i : Instr) : (s.after n i).mirage = s.mirage := rfl
@[simp] theorem State.after_boot (s : State) (n : Nat) (i : Instr) : (s.after n i).boot = s.boot := rfl
@[simp] theorem State.after_tlb (s : State) (n : Nat) (i : Instr) : (s.after n i).tlb = s.tlb := rfl
@[simp] theorem State.after_views (s : State) (n : Nat) (i : Instr) : (s.after n i).views = s.views := rfl
@[simp] theorem State.after_samples (s : State) (n : Nat) (i : Instr) : (s.after n i).samples = s.samples := rfl
@[simp] theorem State.after_telemetry (s : State) (n : Nat) (i : Instr) : (s.after n i).telemetry = s.telemetry := rfl
@[simp] theorem State.after_borrowed (s : State) (n : Nat) (i : Instr) : (s.after n i).borrowed = s.borrowed := rfl
@[simp] theorem State.after_shares (s : State) (n : Nat) (i : Instr) : (s.after n i).shares = s.shares := rfl
@[simp] theorem State.after_oasisLost (s : State) (n : Nat) (i : Instr) : (s.after n i).oasisLost = s.oasisLost := rfl
@[simp] theorem State.after_selected (s : State) (n : Nat) (i : Instr) : (s.after n i).selected = s.selected := rfl
@[simp] theorem State.after_issuing (s : State) (n : Nat) (i : Instr) : (s.after n i).issuing = s.issuing := rfl
@[simp] theorem State.after_due (s : State) (n : Nat) (i : Instr) : (s.after n i).due = s.due := rfl
@[simp] theorem State.after_timers (s : State) (n : Nat) (i : Instr) : (s.after n i).timers = s.timers ++ [(s.time + n, i)] := rfl
@[simp] theorem State.after_agenda (s : State) (n : Nat) (i : Instr) : (s.after n i).agenda = s.agenda := rfl
@[simp] theorem State.after_scan (s : State) (n : Nat) (i : Instr) : (s.after n i).scan = s.scan := rfl
@[simp] theorem State.after_output (s : State) (n : Nat) (i : Instr) : (s.after n i).output = s.output := rfl
@[simp] theorem State.after_fresh (s : State) (n : Nat) (i : Instr) : (s.after n i).fresh = s.fresh := rfl

@[simp] theorem State.pop_time (s : State) : (s.pop).time = s.time := rfl
@[simp] theorem State.pop_mem (s : State) : (s.pop).mem = s.mem := rfl
@[simp] theorem State.pop_damaged (s : State) : (s.pop).damaged = s.damaged := rfl
@[simp] theorem State.pop_ctxs (s : State) : (s.pop).ctxs = s.ctxs := rfl
@[simp] theorem State.pop_queues (s : State) : (s.pop).queues = s.queues := rfl
@[simp] theorem State.pop_regions (s : State) : (s.pop).regions = s.regions := rfl
@[simp] theorem State.pop_pkts (s : State) : (s.pop).pkts = s.pkts := rfl
@[simp] theorem State.pop_kernels (s : State) : (s.pop).kernels = s.kernels := rfl
@[simp] theorem State.pop_groups (s : State) : (s.pop).groups = s.groups := rfl
@[simp] theorem State.pop_accs (s : State) : (s.pop).accs = s.accs := rfl
@[simp] theorem State.pop_batches (s : State) : (s.pop).batches = s.batches := rfl
@[simp] theorem State.pop_cmds (s : State) : (s.pop).cmds = s.cmds := rfl
@[simp] theorem State.pop_cores (s : State) : (s.pop).cores = s.cores := rfl
@[simp] theorem State.pop_clusters (s : State) : (s.pop).clusters = s.clusters := rfl
@[simp] theorem State.pop_dies (s : State) : (s.pop).dies = s.dies := rfl
@[simp] theorem State.pop_links (s : State) : (s.pop).links = s.links := rfl
@[simp] theorem State.pop_reqs (s : State) : (s.pop).reqs = s.reqs := rfl
@[simp] theorem State.pop_ports (s : State) : (s.pop).ports = s.ports := rfl
@[simp] theorem State.pop_mgmt (s : State) : (s.pop).mgmt = s.mgmt := rfl
@[simp] theorem State.pop_mirage (s : State) : (s.pop).mirage = s.mirage := rfl
@[simp] theorem State.pop_boot (s : State) : (s.pop).boot = s.boot := rfl
@[simp] theorem State.pop_tlb (s : State) : (s.pop).tlb = s.tlb := rfl
@[simp] theorem State.pop_views (s : State) : (s.pop).views = s.views := rfl
@[simp] theorem State.pop_samples (s : State) : (s.pop).samples = s.samples := rfl
@[simp] theorem State.pop_telemetry (s : State) : (s.pop).telemetry = s.telemetry := rfl
@[simp] theorem State.pop_borrowed (s : State) : (s.pop).borrowed = s.borrowed := rfl
@[simp] theorem State.pop_shares (s : State) : (s.pop).shares = s.shares := rfl
@[simp] theorem State.pop_oasisLost (s : State) : (s.pop).oasisLost = s.oasisLost := rfl
@[simp] theorem State.pop_selected (s : State) : (s.pop).selected = s.selected := rfl
@[simp] theorem State.pop_issuing (s : State) : (s.pop).issuing = s.issuing.tail := rfl
@[simp] theorem State.pop_due (s : State) : (s.pop).due = s.due := rfl
@[simp] theorem State.pop_timers (s : State) : (s.pop).timers = s.timers := rfl
@[simp] theorem State.pop_agenda (s : State) : (s.pop).agenda = s.agenda := rfl
@[simp] theorem State.pop_scan (s : State) : (s.pop).scan = s.scan := rfl
@[simp] theorem State.pop_output (s : State) : (s.pop).output = s.output := rfl
@[simp] theorem State.pop_fresh (s : State) : (s.pop).fresh = s.fresh := rfl

@[simp] theorem State.unissue_time (s : State) (g : Nat) : (s.unissue g).time = s.time := rfl
@[simp] theorem State.unissue_mem (s : State) (g : Nat) : (s.unissue g).mem = s.mem := rfl
@[simp] theorem State.unissue_damaged (s : State) (g : Nat) : (s.unissue g).damaged = s.damaged := rfl
@[simp] theorem State.unissue_ctxs (s : State) (g : Nat) : (s.unissue g).ctxs = s.ctxs := rfl
@[simp] theorem State.unissue_queues (s : State) (g : Nat) : (s.unissue g).queues = s.queues := rfl
@[simp] theorem State.unissue_regions (s : State) (g : Nat) : (s.unissue g).regions = s.regions := rfl
@[simp] theorem State.unissue_pkts (s : State) (g : Nat) : (s.unissue g).pkts = s.pkts := rfl
@[simp] theorem State.unissue_kernels (s : State) (g : Nat) : (s.unissue g).kernels = s.kernels := rfl
@[simp] theorem State.unissue_groups (s : State) (g : Nat) : (s.unissue g).groups = s.groups := rfl
@[simp] theorem State.unissue_accs (s : State) (g : Nat) : (s.unissue g).accs = s.accs := rfl
@[simp] theorem State.unissue_batches (s : State) (g : Nat) : (s.unissue g).batches = s.batches := rfl
@[simp] theorem State.unissue_cmds (s : State) (g : Nat) : (s.unissue g).cmds = s.cmds := rfl
@[simp] theorem State.unissue_cores (s : State) (g : Nat) : (s.unissue g).cores = s.cores := rfl
@[simp] theorem State.unissue_clusters (s : State) (g : Nat) : (s.unissue g).clusters = s.clusters := rfl
@[simp] theorem State.unissue_dies (s : State) (g : Nat) : (s.unissue g).dies = s.dies := rfl
@[simp] theorem State.unissue_links (s : State) (g : Nat) : (s.unissue g).links = s.links := rfl
@[simp] theorem State.unissue_reqs (s : State) (g : Nat) : (s.unissue g).reqs = s.reqs := rfl
@[simp] theorem State.unissue_ports (s : State) (g : Nat) : (s.unissue g).ports = s.ports := rfl
@[simp] theorem State.unissue_mgmt (s : State) (g : Nat) : (s.unissue g).mgmt = s.mgmt := rfl
@[simp] theorem State.unissue_mirage (s : State) (g : Nat) : (s.unissue g).mirage = s.mirage := rfl
@[simp] theorem State.unissue_boot (s : State) (g : Nat) : (s.unissue g).boot = s.boot := rfl
@[simp] theorem State.unissue_tlb (s : State) (g : Nat) : (s.unissue g).tlb = s.tlb := rfl
@[simp] theorem State.unissue_views (s : State) (g : Nat) : (s.unissue g).views = s.views := rfl
@[simp] theorem State.unissue_samples (s : State) (g : Nat) : (s.unissue g).samples = s.samples := rfl
@[simp] theorem State.unissue_telemetry (s : State) (g : Nat) : (s.unissue g).telemetry = s.telemetry := rfl
@[simp] theorem State.unissue_borrowed (s : State) (g : Nat) : (s.unissue g).borrowed = s.borrowed := rfl
@[simp] theorem State.unissue_shares (s : State) (g : Nat) : (s.unissue g).shares = s.shares := rfl
@[simp] theorem State.unissue_oasisLost (s : State) (g : Nat) : (s.unissue g).oasisLost = s.oasisLost := rfl
@[simp] theorem State.unissue_selected (s : State) (g : Nat) : (s.unissue g).selected = s.selected := rfl
@[simp] theorem State.unissue_issuing (s : State) (g : Nat) : (s.unissue g).issuing = s.issuing.filter fun i => i.grp != g := rfl
@[simp] theorem State.unissue_due (s : State) (g : Nat) : (s.unissue g).due = s.due := rfl
@[simp] theorem State.unissue_timers (s : State) (g : Nat) : (s.unissue g).timers = s.timers := rfl
@[simp] theorem State.unissue_agenda (s : State) (g : Nat) : (s.unissue g).agenda = s.agenda := rfl
@[simp] theorem State.unissue_scan (s : State) (g : Nat) : (s.unissue g).scan = s.scan := rfl
@[simp] theorem State.unissue_output (s : State) (g : Nat) : (s.unissue g).output = s.output := rfl
@[simp] theorem State.unissue_fresh (s : State) (g : Nat) : (s.unissue g).fresh = s.fresh := rfl

@[simp] theorem State.free_time (s : State) : s.free.2.time = s.time := rfl
@[simp] theorem State.free_mem (s : State) : s.free.2.mem = s.mem := rfl
@[simp] theorem State.free_damaged (s : State) : s.free.2.damaged = s.damaged := rfl
@[simp] theorem State.free_ctxs (s : State) : s.free.2.ctxs = s.ctxs := rfl
@[simp] theorem State.free_queues (s : State) : s.free.2.queues = s.queues := rfl
@[simp] theorem State.free_regions (s : State) : s.free.2.regions = s.regions := rfl
@[simp] theorem State.free_pkts (s : State) : s.free.2.pkts = s.pkts := rfl
@[simp] theorem State.free_kernels (s : State) : s.free.2.kernels = s.kernels := rfl
@[simp] theorem State.free_groups (s : State) : s.free.2.groups = s.groups := rfl
@[simp] theorem State.free_accs (s : State) : s.free.2.accs = s.accs := rfl
@[simp] theorem State.free_batches (s : State) : s.free.2.batches = s.batches := rfl
@[simp] theorem State.free_cmds (s : State) : s.free.2.cmds = s.cmds := rfl
@[simp] theorem State.free_cores (s : State) : s.free.2.cores = s.cores := rfl
@[simp] theorem State.free_clusters (s : State) : s.free.2.clusters = s.clusters := rfl
@[simp] theorem State.free_dies (s : State) : s.free.2.dies = s.dies := rfl
@[simp] theorem State.free_links (s : State) : s.free.2.links = s.links := rfl
@[simp] theorem State.free_reqs (s : State) : s.free.2.reqs = s.reqs := rfl
@[simp] theorem State.free_ports (s : State) : s.free.2.ports = s.ports := rfl
@[simp] theorem State.free_mgmt (s : State) : s.free.2.mgmt = s.mgmt := rfl
@[simp] theorem State.free_mirage (s : State) : s.free.2.mirage = s.mirage := rfl
@[simp] theorem State.free_boot (s : State) : s.free.2.boot = s.boot := rfl
@[simp] theorem State.free_tlb (s : State) : s.free.2.tlb = s.tlb := rfl
@[simp] theorem State.free_views (s : State) : s.free.2.views = s.views := rfl
@[simp] theorem State.free_samples (s : State) : s.free.2.samples = s.samples := rfl
@[simp] theorem State.free_telemetry (s : State) : s.free.2.telemetry = s.telemetry := rfl
@[simp] theorem State.free_borrowed (s : State) : s.free.2.borrowed = s.borrowed := rfl
@[simp] theorem State.free_shares (s : State) : s.free.2.shares = s.shares := rfl
@[simp] theorem State.free_oasisLost (s : State) : s.free.2.oasisLost = s.oasisLost := rfl
@[simp] theorem State.free_selected (s : State) : s.free.2.selected = s.selected := rfl
@[simp] theorem State.free_issuing (s : State) : s.free.2.issuing = s.issuing := rfl
@[simp] theorem State.free_due (s : State) : s.free.2.due = s.due := rfl
@[simp] theorem State.free_timers (s : State) : s.free.2.timers = s.timers := rfl
@[simp] theorem State.free_agenda (s : State) : s.free.2.agenda = s.agenda := rfl
@[simp] theorem State.free_scan (s : State) : s.free.2.scan = s.scan := rfl
@[simp] theorem State.free_output (s : State) : s.free.2.output = s.output := rfl
@[simp] theorem State.free_fresh (s : State) : s.free.2.fresh = s.fresh + 1 := rfl
@[simp] theorem State.free_fst (s : State) : s.free.1 = s.fresh := rfl

/-! ### Group and Thread -/

@[simp] theorem Group.modThread_ctx (g : Group) (n : Nat) (f : Thread → Thread) : (g.modThread n f).ctx = g.ctx := rfl
@[simp] theorem Group.modThread_kern (g : Group) (n : Nat) (f : Thread → Thread) : (g.modThread n f).kern = g.kern := rfl
@[simp] theorem Group.modThread_lin (g : Group) (n : Nat) (f : Thread → Thread) : (g.modThread n f).lin = g.lin := rfl
@[simp] theorem Group.modThread_gx (g : Group) (n : Nat) (f : Thread → Thread) : (g.modThread n f).gx = g.gx := rfl
@[simp] theorem Group.modThread_gy (g : Group) (n : Nat) (f : Thread → Thread) : (g.modThread n f).gy = g.gy := rfl
@[simp] theorem Group.modThread_gz (g : Group) (n : Nat) (f : Thread → Thread) : (g.modThread n f).gz = g.gz := rfl
@[simp] theorem Group.modThread_core (g : Group) (n : Nat) (f : Thread → Thread) : (g.modThread n f).core = g.core := rfl
@[simp] theorem Group.modThread_firstCore (g : Group) (n : Nat) (f : Thread → Thread) : (g.modThread n f).firstCore = g.firstCore := rfl
@[simp] theorem Group.modThread_st (g : Group) (n : Nat) (f : Thread → Thread) : (g.modThread n f).st = g.st := rfl
@[simp] theorem Group.modThread_ret (g : Group) (n : Nat) (f : Thread → Thread) : (g.modThread n f).ret = g.ret := rfl
@[simp] theorem Group.modThread_threads (g : Group) (n : Nat) (f : Thread → Thread) : (g.modThread n f).threads = Tbl.modify g.threads n f := rfl
@[simp] theorem Group.modThread_warps (g : Group) (n : Nat) (f : Thread → Thread) : (g.modThread n f).warps = g.warps := rfl
@[simp] theorem Group.modThread_barriers (g : Group) (n : Nat) (f : Thread → Thread) : (g.modThread n f).barriers = g.barriers := rfl
@[simp] theorem Group.modThread_cvs (g : Group) (n : Nat) (f : Thread → Thread) : (g.modThread n f).cvs = g.cvs := rfl
@[simp] theorem Group.modThread_hseed (g : Group) (n : Nat) (f : Thread → Thread) : (g.modThread n f).hseed = g.hseed := rfl
@[simp] theorem Group.modThread_retrymax (g : Group) (n : Nat) (f : Thread → Thread) : (g.modThread n f).retrymax = g.retrymax := rfl
@[simp] theorem Group.modThread_tcs (g : Group) (n : Nat) (f : Thread → Thread) : (g.modThread n f).tcs = g.tcs := rfl
@[simp] theorem Group.modThread_scratch (g : Group) (n : Nat) (f : Thread → Thread) : (g.modThread n f).scratch = g.scratch := rfl
@[simp] theorem Group.modThread_deep (g : Group) (n : Nat) (f : Thread → Thread) : (g.modThread n f).deep = g.deep := rfl
@[simp] theorem Group.modThread_tiles (g : Group) (n : Nat) (f : Thread → Thread) : (g.modThread n f).tiles = g.tiles := rfl
@[simp] theorem Group.modThread_accs (g : Group) (n : Nat) (f : Thread → Thread) : (g.modThread n f).accs = g.accs := rfl
@[simp] theorem Group.modThread_windows (g : Group) (n : Nat) (f : Thread → Thread) : (g.modThread n f).windows = g.windows := rfl
@[simp] theorem Group.modThread_holds (g : Group) (n : Nat) (f : Thread → Thread) : (g.modThread n f).holds = g.holds := rfl
@[simp] theorem Group.modThread_holder (g : Group) (n : Nat) (f : Thread → Thread) : (g.modThread n f).holder = g.holder := rfl
@[simp] theorem Group.modThread_scope (g : Group) (n : Nat) (f : Thread → Thread) : (g.modThread n f).scope = g.scope := rfl
@[simp] theorem Group.modThread_targets (g : Group) (n : Nat) (f : Thread → Thread) : (g.modThread n f).targets = g.targets := rfl
@[simp] theorem Group.modThread_count (g : Group) (n : Nat) (f : Thread → Thread) : (g.modThread n f).count = g.count := rfl
@[simp] theorem Group.modThread_why (g : Group) (n : Nat) (f : Thread → Thread) : (g.modThread n f).why = g.why := rfl
@[simp] theorem Group.modThread_active (g : Group) (n : Nat) (f : Thread → Thread) : (g.modThread n f).active = g.active := rfl
@[simp] theorem Group.modThread_frame (g : Group) (n : Nat) (f : Thread → Thread) : (g.modThread n f).frame = g.frame := rfl
@[simp] theorem Group.modThread_cause (g : Group) (n : Nat) (f : Thread → Thread) : (g.modThread n f).cause = g.cause := rfl
@[simp] theorem Group.modThread_pages (g : Group) (n : Nat) (f : Thread → Thread) : (g.modThread n f).pages = g.pages := rfl
@[simp] theorem Group.modThread_saveTime (g : Group) (n : Nat) (f : Thread → Thread) : (g.modThread n f).saveTime = g.saveTime := rfl
@[simp] theorem Group.modThread_saveSize (g : Group) (n : Nat) (f : Thread → Thread) : (g.modThread n f).saveSize = g.saveSize := rfl
@[simp] theorem Group.modThread_deepIn (g : Group) (n : Nat) (f : Thread → Thread) : (g.modThread n f).deepIn = g.deepIn := rfl
@[simp] theorem Group.modThread_swaps (g : Group) (n : Nat) (f : Thread → Thread) : (g.modThread n f).swaps = g.swaps := rfl
@[simp] theorem Group.modThread_failing (g : Group) (n : Nat) (f : Thread → Thread) : (g.modThread n f).failing = g.failing := rfl
@[simp] theorem Group.modThread_ending (g : Group) (n : Nat) (f : Thread → Thread) : (g.modThread n f).ending = g.ending := rfl

@[simp] theorem Group.modWarp_ctx (g : Group) (n : Nat) (f : Warp → Warp) : (g.modWarp n f).ctx = g.ctx := rfl
@[simp] theorem Group.modWarp_kern (g : Group) (n : Nat) (f : Warp → Warp) : (g.modWarp n f).kern = g.kern := rfl
@[simp] theorem Group.modWarp_lin (g : Group) (n : Nat) (f : Warp → Warp) : (g.modWarp n f).lin = g.lin := rfl
@[simp] theorem Group.modWarp_gx (g : Group) (n : Nat) (f : Warp → Warp) : (g.modWarp n f).gx = g.gx := rfl
@[simp] theorem Group.modWarp_gy (g : Group) (n : Nat) (f : Warp → Warp) : (g.modWarp n f).gy = g.gy := rfl
@[simp] theorem Group.modWarp_gz (g : Group) (n : Nat) (f : Warp → Warp) : (g.modWarp n f).gz = g.gz := rfl
@[simp] theorem Group.modWarp_core (g : Group) (n : Nat) (f : Warp → Warp) : (g.modWarp n f).core = g.core := rfl
@[simp] theorem Group.modWarp_firstCore (g : Group) (n : Nat) (f : Warp → Warp) : (g.modWarp n f).firstCore = g.firstCore := rfl
@[simp] theorem Group.modWarp_st (g : Group) (n : Nat) (f : Warp → Warp) : (g.modWarp n f).st = g.st := rfl
@[simp] theorem Group.modWarp_ret (g : Group) (n : Nat) (f : Warp → Warp) : (g.modWarp n f).ret = g.ret := rfl
@[simp] theorem Group.modWarp_threads (g : Group) (n : Nat) (f : Warp → Warp) : (g.modWarp n f).threads = g.threads := rfl
@[simp] theorem Group.modWarp_warps (g : Group) (n : Nat) (f : Warp → Warp) : (g.modWarp n f).warps = Tbl.modify g.warps n f := rfl
@[simp] theorem Group.modWarp_barriers (g : Group) (n : Nat) (f : Warp → Warp) : (g.modWarp n f).barriers = g.barriers := rfl
@[simp] theorem Group.modWarp_cvs (g : Group) (n : Nat) (f : Warp → Warp) : (g.modWarp n f).cvs = g.cvs := rfl
@[simp] theorem Group.modWarp_hseed (g : Group) (n : Nat) (f : Warp → Warp) : (g.modWarp n f).hseed = g.hseed := rfl
@[simp] theorem Group.modWarp_retrymax (g : Group) (n : Nat) (f : Warp → Warp) : (g.modWarp n f).retrymax = g.retrymax := rfl
@[simp] theorem Group.modWarp_tcs (g : Group) (n : Nat) (f : Warp → Warp) : (g.modWarp n f).tcs = g.tcs := rfl
@[simp] theorem Group.modWarp_scratch (g : Group) (n : Nat) (f : Warp → Warp) : (g.modWarp n f).scratch = g.scratch := rfl
@[simp] theorem Group.modWarp_deep (g : Group) (n : Nat) (f : Warp → Warp) : (g.modWarp n f).deep = g.deep := rfl
@[simp] theorem Group.modWarp_tiles (g : Group) (n : Nat) (f : Warp → Warp) : (g.modWarp n f).tiles = g.tiles := rfl
@[simp] theorem Group.modWarp_accs (g : Group) (n : Nat) (f : Warp → Warp) : (g.modWarp n f).accs = g.accs := rfl
@[simp] theorem Group.modWarp_windows (g : Group) (n : Nat) (f : Warp → Warp) : (g.modWarp n f).windows = g.windows := rfl
@[simp] theorem Group.modWarp_holds (g : Group) (n : Nat) (f : Warp → Warp) : (g.modWarp n f).holds = g.holds := rfl
@[simp] theorem Group.modWarp_holder (g : Group) (n : Nat) (f : Warp → Warp) : (g.modWarp n f).holder = g.holder := rfl
@[simp] theorem Group.modWarp_scope (g : Group) (n : Nat) (f : Warp → Warp) : (g.modWarp n f).scope = g.scope := rfl
@[simp] theorem Group.modWarp_targets (g : Group) (n : Nat) (f : Warp → Warp) : (g.modWarp n f).targets = g.targets := rfl
@[simp] theorem Group.modWarp_count (g : Group) (n : Nat) (f : Warp → Warp) : (g.modWarp n f).count = g.count := rfl
@[simp] theorem Group.modWarp_why (g : Group) (n : Nat) (f : Warp → Warp) : (g.modWarp n f).why = g.why := rfl
@[simp] theorem Group.modWarp_active (g : Group) (n : Nat) (f : Warp → Warp) : (g.modWarp n f).active = g.active := rfl
@[simp] theorem Group.modWarp_frame (g : Group) (n : Nat) (f : Warp → Warp) : (g.modWarp n f).frame = g.frame := rfl
@[simp] theorem Group.modWarp_cause (g : Group) (n : Nat) (f : Warp → Warp) : (g.modWarp n f).cause = g.cause := rfl
@[simp] theorem Group.modWarp_pages (g : Group) (n : Nat) (f : Warp → Warp) : (g.modWarp n f).pages = g.pages := rfl
@[simp] theorem Group.modWarp_saveTime (g : Group) (n : Nat) (f : Warp → Warp) : (g.modWarp n f).saveTime = g.saveTime := rfl
@[simp] theorem Group.modWarp_saveSize (g : Group) (n : Nat) (f : Warp → Warp) : (g.modWarp n f).saveSize = g.saveSize := rfl
@[simp] theorem Group.modWarp_deepIn (g : Group) (n : Nat) (f : Warp → Warp) : (g.modWarp n f).deepIn = g.deepIn := rfl
@[simp] theorem Group.modWarp_swaps (g : Group) (n : Nat) (f : Warp → Warp) : (g.modWarp n f).swaps = g.swaps := rfl
@[simp] theorem Group.modWarp_failing (g : Group) (n : Nat) (f : Warp → Warp) : (g.modWarp n f).failing = g.failing := rfl
@[simp] theorem Group.modWarp_ending (g : Group) (n : Nat) (f : Warp → Warp) : (g.modWarp n f).ending = g.ending := rfl

@[simp] theorem Thread.setX_tid (t : Thread) (r : BitVec 6) (v : W32) : (t.setX r v).tid = t.tid := rfl
@[simp] theorem Thread.setX_pos (t : Thread) (r : BitVec 6) (v : W32) : (t.setX r v).pos = t.pos := rfl
@[simp] theorem Thread.setX_x (t : Thread) (r : BitVec 6) (v : W32) : (t.setX r v).x = Tbl.set 0 t.x r.toNat v := rfl
@[simp] theorem Thread.setX_p (t : Thread) (r : BitVec 6) (v : W32) : (t.setX r v).p = t.p := rfl
@[simp] theorem Thread.setX_stack (t : Thread) (r : BitVec 6) (v : W32) : (t.setX r v).stack = t.stack := rfl
@[simp] theorem Thread.setX_rep (t : Thread) (r : BitVec 6) (v : W32) : (t.setX r v).rep = t.rep := rfl
@[simp] theorem Thread.setX_ptimeh (t : Thread) (r : BitVec 6) (v : W32) : (t.setX r v).ptimeh = t.ptimeh := rfl
@[simp] theorem Thread.setX_handler (t : Thread) (r : BitVec 6) (v : W32) : (t.setX r v).handler = t.handler := rfl
@[simp] theorem Thread.setX_run (t : Thread) (r : BitVec 6) (v : W32) : (t.setX r v).run = t.run := rfl
@[simp] theorem Thread.setX_monitor (t : Thread) (r : BitVec 6) (v : W32) : (t.setX r v).monitor = t.monitor := rfl
@[simp] theorem Thread.setX_late (t : Thread) (r : BitVec 6) (v : W32) : (t.setX r v).late = t.late := rfl
@[simp] theorem Thread.setX_yieldLeft (t : Thread) (r : BitVec 6) (v : W32) : (t.setX r v).yieldLeft = t.yieldLeft := rfl
@[simp] theorem Thread.setX_noticeLeft (t : Thread) (r : BitVec 6) (v : W32) : (t.setX r v).noticeLeft = t.noticeLeft := rfl
@[simp] theorem Thread.setX_notice (t : Thread) (r : BitVec 6) (v : W32) : (t.setX r v).notice = t.notice := rfl
@[simp] theorem Thread.setX_skipBreak (t : Thread) (r : BitVec 6) (v : W32) : (t.setX r v).skipBreak = t.skipBreak := rfl
@[simp] theorem Thread.setX_stepping (t : Thread) (r : BitVec 6) (v : W32) : (t.setX r v).stepping = t.stepping := rfl
@[simp] theorem Thread.setX_again (t : Thread) (r : BitVec 6) (v : W32) : (t.setX r v).again = t.again := rfl
@[simp] theorem Thread.setX_pass (t : Thread) (r : BitVec 6) (v : W32) : (t.setX r v).pass = t.pass := rfl
@[simp] theorem Thread.setX_part (t : Thread) (r : BitVec 6) (v : W32) : (t.setX r v).part = t.part := rfl
@[simp] theorem Thread.setX_last (t : Thread) (r : BitVec 6) (v : W32) : (t.setX r v).last = t.last := rfl

@[simp] theorem Thread.setX2_tid (t : Thread) (r : BitVec 6) (v : W64) : (t.setX2 r v).tid = t.tid := rfl
@[simp] theorem Thread.setX2_pos (t : Thread) (r : BitVec 6) (v : W64) : (t.setX2 r v).pos = t.pos := rfl
@[simp] theorem Thread.setX2_x (t : Thread) (r : BitVec 6) (v : W64) : (t.setX2 r v).x = ((t.setX r (v.extractLsb' 0 32)).setX (r + 1) (v.extractLsb' 32 32)).x := rfl
@[simp] theorem Thread.setX2_p (t : Thread) (r : BitVec 6) (v : W64) : (t.setX2 r v).p = t.p := rfl
@[simp] theorem Thread.setX2_stack (t : Thread) (r : BitVec 6) (v : W64) : (t.setX2 r v).stack = t.stack := rfl
@[simp] theorem Thread.setX2_rep (t : Thread) (r : BitVec 6) (v : W64) : (t.setX2 r v).rep = t.rep := rfl
@[simp] theorem Thread.setX2_ptimeh (t : Thread) (r : BitVec 6) (v : W64) : (t.setX2 r v).ptimeh = t.ptimeh := rfl
@[simp] theorem Thread.setX2_handler (t : Thread) (r : BitVec 6) (v : W64) : (t.setX2 r v).handler = t.handler := rfl
@[simp] theorem Thread.setX2_run (t : Thread) (r : BitVec 6) (v : W64) : (t.setX2 r v).run = t.run := rfl
@[simp] theorem Thread.setX2_monitor (t : Thread) (r : BitVec 6) (v : W64) : (t.setX2 r v).monitor = t.monitor := rfl
@[simp] theorem Thread.setX2_late (t : Thread) (r : BitVec 6) (v : W64) : (t.setX2 r v).late = t.late := rfl
@[simp] theorem Thread.setX2_yieldLeft (t : Thread) (r : BitVec 6) (v : W64) : (t.setX2 r v).yieldLeft = t.yieldLeft := rfl
@[simp] theorem Thread.setX2_noticeLeft (t : Thread) (r : BitVec 6) (v : W64) : (t.setX2 r v).noticeLeft = t.noticeLeft := rfl
@[simp] theorem Thread.setX2_notice (t : Thread) (r : BitVec 6) (v : W64) : (t.setX2 r v).notice = t.notice := rfl
@[simp] theorem Thread.setX2_skipBreak (t : Thread) (r : BitVec 6) (v : W64) : (t.setX2 r v).skipBreak = t.skipBreak := rfl
@[simp] theorem Thread.setX2_stepping (t : Thread) (r : BitVec 6) (v : W64) : (t.setX2 r v).stepping = t.stepping := rfl
@[simp] theorem Thread.setX2_again (t : Thread) (r : BitVec 6) (v : W64) : (t.setX2 r v).again = t.again := rfl
@[simp] theorem Thread.setX2_pass (t : Thread) (r : BitVec 6) (v : W64) : (t.setX2 r v).pass = t.pass := rfl
@[simp] theorem Thread.setX2_part (t : Thread) (r : BitVec 6) (v : W64) : (t.setX2 r v).part = t.part := rfl
@[simp] theorem Thread.setX2_last (t : Thread) (r : BitVec 6) (v : W64) : (t.setX2 r v).last = t.last := rfl

@[simp] theorem Thread.setP_tid (t : Thread) (i : Nat) (b : Bool) : (t.setP i b).tid = t.tid := rfl
@[simp] theorem Thread.setP_pos (t : Thread) (i : Nat) (b : Bool) : (t.setP i b).pos = t.pos := rfl
@[simp] theorem Thread.setP_x (t : Thread) (i : Nat) (b : Bool) : (t.setP i b).x = t.x := rfl
@[simp] theorem Thread.setP_p (t : Thread) (i : Nat) (b : Bool) : (t.setP i b).p = (t.p &&& ~~~ (BitVec.ofNat 24 (2 ^ i))) ||| (if b then BitVec.ofNat 24 (2 ^ i) else 0) := rfl
@[simp] theorem Thread.setP_stack (t : Thread) (i : Nat) (b : Bool) : (t.setP i b).stack = t.stack := rfl
@[simp] theorem Thread.setP_rep (t : Thread) (i : Nat) (b : Bool) : (t.setP i b).rep = t.rep := rfl
@[simp] theorem Thread.setP_ptimeh (t : Thread) (i : Nat) (b : Bool) : (t.setP i b).ptimeh = t.ptimeh := rfl
@[simp] theorem Thread.setP_handler (t : Thread) (i : Nat) (b : Bool) : (t.setP i b).handler = t.handler := rfl
@[simp] theorem Thread.setP_run (t : Thread) (i : Nat) (b : Bool) : (t.setP i b).run = t.run := rfl
@[simp] theorem Thread.setP_monitor (t : Thread) (i : Nat) (b : Bool) : (t.setP i b).monitor = t.monitor := rfl
@[simp] theorem Thread.setP_late (t : Thread) (i : Nat) (b : Bool) : (t.setP i b).late = t.late := rfl
@[simp] theorem Thread.setP_yieldLeft (t : Thread) (i : Nat) (b : Bool) : (t.setP i b).yieldLeft = t.yieldLeft := rfl
@[simp] theorem Thread.setP_noticeLeft (t : Thread) (i : Nat) (b : Bool) : (t.setP i b).noticeLeft = t.noticeLeft := rfl
@[simp] theorem Thread.setP_notice (t : Thread) (i : Nat) (b : Bool) : (t.setP i b).notice = t.notice := rfl
@[simp] theorem Thread.setP_skipBreak (t : Thread) (i : Nat) (b : Bool) : (t.setP i b).skipBreak = t.skipBreak := rfl
@[simp] theorem Thread.setP_stepping (t : Thread) (i : Nat) (b : Bool) : (t.setP i b).stepping = t.stepping := rfl
@[simp] theorem Thread.setP_again (t : Thread) (i : Nat) (b : Bool) : (t.setP i b).again = t.again := rfl
@[simp] theorem Thread.setP_pass (t : Thread) (i : Nat) (b : Bool) : (t.setP i b).pass = t.pass := rfl
@[simp] theorem Thread.setP_part (t : Thread) (i : Nat) (b : Bool) : (t.setP i b).part = t.part := rfl
@[simp] theorem Thread.setP_last (t : Thread) (i : Nat) (b : Bool) : (t.setP i b).last = t.last := rfl

end Sys2Proof.Machine
end

