-- ==== Sys2Proof/Laws/Memory.lean ====
section
/-! SUPPORT. Reads after writes: of bytes of memory, of the package's parts, of groups, threads and registers. -/

namespace Sys2Proof.Machine

set_option Elab.async false

/-! ### Memory -/

theorem State.byte_setByte (s : State) (p q : Nat) (b : Byte) :
    (s.setByte p b).byte q = if p = q ∧ p < hbmBytes then b else s.byte q := by
  unfold State.setByte
  by_cases hp : p < hbmBytes
  · rw [if_pos hp]
    simp [State.byte, Tbl.get_set, hp]
  · simp [hp]

/-- Bytes outside the places written read as before. -/
theorem State.byte_setAt_other (s : State) (ps : List Nat) (bs : List Byte) (q : Nat) (h : q ∉ ps) :
    (s.setAt ps bs).byte q = s.byte q := by
  induction ps generalizing s bs with
  | nil => cases bs <;> rfl
  | cons p ps ih =>
    cases bs with
    | nil => rfl
    | cons b bs =>
      simp only [List.mem_cons, not_or] at h
      rw [State.setAt, ih _ _ h.2, State.byte_setByte, if_neg fun x => h.1 x.1.symm]

/-- The places written, each once and inside the memory, read as the bytes. -/
theorem State.bytes_setAt (s : State) (ps : List Nat) (bs : List Byte) (hl : ps.length = bs.length) (hn : ps.Nodup)
    (hp : ∀ p ∈ ps, p < hbmBytes) : ps.map (s.setAt ps bs).byte = bs := by
  induction ps generalizing s bs with
  | nil => cases bs <;> simp_all
  | cons p ps ih =>
    cases bs with
    | nil => simp at hl
    | cons b bs =>
      simp only [List.nodup_cons] at hn
      simp only [State.setAt, List.map_cons, List.cons.injEq]
      refine ⟨?_, ih _ _ (by simpa using hl) hn.2 fun q hq => hp q (by simp [hq])⟩
      rw [State.byte_setAt_other _ _ _ _ hn.1, State.byte_setByte, if_pos ⟨rfl, hp p (by simp)⟩]

@[simp] theorem State.byte_repair (s : State) (ps : List Nat) (q : Nat) : (s.repair ps).byte q = s.byte q := rfl

@[simp] theorem State.mem_wakeWhere (s : State) (p w : Nat → Bool) (c : Nat) : (s.wakeWhere p w c).mem = s.mem := rfl

@[simp] theorem State.mem_wake (s : State) (l : List Nat) (c : Nat) : (s.wake l c).mem = s.mem := rfl

/-- A write performed at its homes is a write of its bytes. -/
theorem State.byte_homeWrite (s : State) (c : Nat) (ps : List Nat) (bs : List Byte) (q : Nat) :
    (s.homeWrite c ps bs).byte q = (s.setAt ps bs).byte q := rfl

theorem mem_span (a n q : Nat) : q ∈ span a n ↔ a ≤ q ∧ q < a + n := by
  induction n generalizing a with
  | zero => simp [span]
  | succ n ih => simp only [span, List.mem_cons, ih]; omega

theorem span_length (a n : Nat) : (span a n).length = n := by
  induction n generalizing a <;> simp_all [span]

theorem span_nodup (a n : Nat) : (span a n).Nodup := by
  induction n generalizing a with
  | zero => simp [span]
  | succ n ih => simp only [span, List.nodup_cons, mem_span]; exact ⟨by omega, ih _⟩

theorem State.bytes_eq_map (s : State) (a n : Nat) : s.bytes a n = (span a n).map s.byte := by
  induction n generalizing a <;> simp_all [State.bytes, span]

/-- Bytes outside what the device writes read as before. -/
theorem State.byte_deviceWrite_other (s : State) (a n v q : Nat) (h : q < a ∨ a + n ≤ q) :
    (s.deviceWrite a n v).byte q = s.byte q := by
  rw [State.deviceWrite, State.byte_homeWrite, State.byte_setAt_other]
  rw [mem_span]
  omega

/-! ### The parts of the package -/

theorem State.core_setCore (s : State) (n m : Nat) (c : Core) : (s.setCore n c).core m = if n = m then c else s.core m := by
  simp [State.core, Tbl.get_set]

theorem State.cluster_setCluster (s : State) (n m : Nat) (c : Cluster) :
    (s.setCluster n c).cluster m = if n = m then c else s.cluster m := by
  simp [State.cluster, Tbl.get_set]

theorem State.die_setDie (s : State) (n m : Nat) (d : Die) : (s.setDie n d).die m = if n = m then d else s.die m := by
  simp [State.die, Tbl.get_set]

theorem State.link_setLink (s : State) (n m : Nat) (l : Link) : (s.setLink n l).link m = if n = m then l else s.link m := by
  simp [State.link, Tbl.get_set]

theorem State.port_setPort (s : State) (n m : Nat) (p : Port) : (s.setPort n p).port m = if n = m then p else s.port m := by
  simp [State.port, Tbl.get_set]

theorem State.ctx?_modCtx (s : State) (n m : Nat) (f : Ctx → Ctx) :
    (s.modCtx n f).ctx? m = if n = m then (s.ctx? m).map f else s.ctx? m := by
  simp [State.ctx?, Tbl.find?_modify]

theorem State.group?_modGroup (s : State) (n m : Nat) (f : Group → Group) :
    (s.modGroup n f).group? m = if n = m then (s.group? m).map f else s.group? m := by
  simp [State.group?, Tbl.find?_modify]

theorem State.kernel?_modKernel (s : State) (n m : Nat) (f : Kernel → Kernel) :
    (s.modKernel n f).kernel? m = if n = m then (s.kernel? m).map f else s.kernel? m := by
  simp [State.kernel?, Tbl.find?_modify]

theorem State.pkt?_modPkt (s : State) (n m : Nat) (f : Pkt → Pkt) :
    (s.modPkt n f).pkt? m = if n = m then (s.pkt? m).map f else s.pkt? m := by
  simp [State.pkt?, Tbl.find?_modify]

theorem State.thread?_modThread (s : State) (g h n m : Nat) (f : Thread → Thread) :
    (s.modThread g n f).thread? h m = if g = h ∧ n = m then (s.thread? h m).map f else s.thread? h m := by
  simp only [State.thread?, State.modThread, State.group?_modGroup]
  by_cases hh : g = h
  · subst hh
    cases s.group? g <;> by_cases hm : n = m <;> simp [Tbl.find?_modify, hm]
  · simp [hh]

/-! ### Registers and predicates -/

theorem Thread.getX_setX (t : Thread) (r q : BitVec 6) (v : W32) : (t.setX r v).getX q = if r = q then v else t.getX q := by
  simp only [Thread.getX, Thread.setX, Tbl.get_set]
  simp [BitVec.toNat_inj]

theorem Thread.getX2_setX2 (t : Thread) (r : BitVec 6) (v : W64) : (t.setX2 r v).getX2 r = v := by
  have h : r ≠ r + 1 := by bv_omega
  simp only [Thread.getX2, Thread.setX2, Thread.getX_setX, if_neg h.symm, if_pos]
  ext i hi
  simp only [BitVec.getElem_append, BitVec.getElem_extractLsb']
  split <;> simp_all [BitVec.getLsbD_eq_getElem]

end Sys2Proof.Machine
end

