-- ==== Sys2Proof/Laws/Words.lean ====
section
/-! SUPPORT. What a word's common shell does when the word issues: the one lemma per shape (`runWord`, `runThread`, and the
shapes of IntAlu) that the claims about words cite. -/

namespace Sys2Proof.Machine

set_option Elab.async false

theorem runWord_issues {i : Instr} {s : State} {e : Env} (body : Env → State → State) (h : s.Issues i e) :
    runWord i body s = .next (body e s.pop) := by
  obtain ⟨h1, h2, h3⟩ := h
  simp [runWord, h1, h2, h3]

theorem runWord_guarded {i : Instr} {s : State} {e : Env} (body : Env → State → State) (h1 : s.issuer = some e)
    (h2 : checkWord i e.k = none) (h3 : e.t.guard (guardOf i) = false) :
    runWord i body s = .next (s.pop.retire e e.t (wordsOf i)) := by
  simp [runWord, h1, h2, h3]

theorem runWord_check {i : Instr} {s : State} {e : Env} (body : Env → State → State) {c b : Byte}
    (h1 : s.issuer = some e) (h2 : checkWord i e.k = some (c, b)) :
    runWord i body s = .next (s.pop.faultAt e c b 0) := by
  simp [runWord, h1, h2]

/-- What a word that acts on its thread alone comes to. -/
theorem runThread_eq {i : Instr} {act : Env → Act} {s : State} {e : Env} (h : s.Issues i e) :
    runThread i act s = .next (match act e with
      | .done t => s.pop.retire e t (wordsOf i)
      | .fault code sub addr => s.pop.faultAt e code sub addr) := runWord_issues _ h

theorem runThread_done {i : Instr} {act : Env → Act} {s : State} {e : Env} {t : Thread} (h : s.Issues i e)
    (ha : act e = .done t) : runThread i act s = .next (s.pop.retire e t (wordsOf i)) := by
  simp [runThread, runWord_issues _ h, ha]

theorem runThread_fault {i : Instr} {act : Env → Act} {s : State} {e : Env} {c b : Byte} {a : W64} (h : s.Issues i e)
    (ha : act e = .fault c b a) : runThread i act s = .next (s.pop.faultAt e c b a) := by
  simp [runThread, runWord_issues _ h, ha]

theorem alu1_done {i : Instr} {d a : BitVec 6} {f : W32 → W32} {s : State} {e : Env} (h : s.Issues i e) :
    alu1 i d a f s = .next (s.pop.retire e (e.t.setX d (f (e.t.getX a))) (wordsOf i)) := runThread_done h rfl

theorem alu2_done {i : Instr} {d a b : BitVec 6} {f : W32 → W32 → W32} {s : State} {e : Env} (h : s.Issues i e) :
    alu2 i d a b f s = .next (s.pop.retire e (e.t.setX d (f (e.t.getX a) (e.t.getX b))) (wordsOf i)) :=
  runThread_done h rfl

theorem alu3_done {i : Instr} {d a b c : BitVec 6} {f : W32 → W32 → W32 → W32} {s : State} {e : Env} (h : s.Issues i e) :
    alu3 i d a b c f s
      = .next (s.pop.retire e (e.t.setX d (f (e.t.getX a) (e.t.getX b) (e.t.getX c))) (wordsOf i)) :=
  runThread_done h rfl

theorem aluWide_done {i : Instr} {d a b : BitVec 6} {f : W32 → W32 → W64} {s : State} {e : Env} (h : s.Issues i e) :
    aluWide i d a b f s = .next (s.pop.retire e (e.t.setX2 d (f (e.t.getX a) (e.t.getX b))) (wordsOf i)) :=
  runThread_done h rfl

theorem alu64_done {i : Instr} {d a b : BitVec 6} {f : W64 → W64 → W64} {s : State} {e : Env} (h : s.Issues i e) :
    alu64 i d a b f s = .next (s.pop.retire e (e.t.setX2 d (f (e.t.getX2 a) (e.t.getX2 b))) (wordsOf i)) :=
  runThread_done h rfl

theorem aluI64_done {i : Instr} {d a : BitVec 6} {f : W64 → W64} {s : State} {e : Env} (h : s.Issues i e) :
    aluI64 i d a f s = .next (s.pop.retire e (e.t.setX2 d (f (e.t.getX2 a))) (wordsOf i)) := runThread_done h rfl

theorem setPred_done {i : Instr} {p : Nat} {f : Thread → Bool} {s : State} {e : Env} (h : s.Issues i e) :
    setPred i p f s = .next (s.pop.retire e (e.t.setP p (f e.t)) (wordsOf i)) := runThread_done h rfl

theorem divide_done {i : Instr} {d a b : BitVec 6} {sub : Byte} {f : W32 → W32 → W32} {s : State} {e : Env}
    (h : s.Issues i e) (hb : e.t.getX b ≠ 0) :
    divide i d a b sub f s = .next (s.pop.retire e (e.t.setX d (f (e.t.getX a) (e.t.getX b))) (wordsOf i)) :=
  runThread_done h (if_neg hb)

theorem divide_zero {i : Instr} {d a b : BitVec 6} {sub : Byte} {f : W32 → W32 → W32} {s : State} {e : Env}
    (h : s.Issues i e) (hb : e.t.getX b = 0) : divide i d a b sub f s = .next (s.pop.faultAt e 0x07 sub 0) :=
  runThread_fault h (if_pos hb)

end Sys2Proof.Machine
end

