-- ==== Sys2Proof/Laws/Shell.lean ====
section
/-! SUPPORT. Every word of the encoding runs through `runWord`, so its checks and its guard come first. -/

namespace Sys2Proof.Machine

set_option Elab.async false

/-- Every word runs through the common shell: its checks, its guard, then its body (R61, R62). -/
theorem exec_shell (i : Instr) (s : State) (h : encode i ≠ []) : ∃ body, exec i s = runWord i body s := by
  cases i with
  | nop => exact ⟨_, by simp only [exec, execNop, runThread]; rfl⟩
  | mov => exact ⟨_, by simp only [exec, execMov, alu1, runThread]; rfl⟩
  | movi => exact ⟨_, by simp only [exec, execMovi, runThread]; rfl⟩
  | movhi => exact ⟨_, by simp only [exec, execMovhi, runThread]; rfl⟩
  | movx => exact ⟨_, by simp only [exec, execMovx, runThread]; rfl⟩
  | sel => exact ⟨_, by simp only [exec, execSel, runThread]; rfl⟩
  | srd => exact ⟨_, by simp only [exec, execSrd]; rfl⟩
  | swr => exact ⟨_, by simp only [exec, execSwr]; rfl⟩
  | add => exact ⟨_, by simp only [exec, execAdd, alu2, runThread]; rfl⟩
  | sub => exact ⟨_, by simp only [exec, execSub, alu2, runThread]; rfl⟩
  | addi => exact ⟨_, by simp only [exec, execAddi, alu1, runThread]; rfl⟩
  | addc => exact ⟨_, by simp only [exec, execAddc, runThread]; rfl⟩
  | addSatS32 => exact ⟨_, by simp only [exec, execAddSatS32, alu2, runThread]; rfl⟩
  | addSatZ32 => exact ⟨_, by simp only [exec, execAddSatZ32, alu2, runThread]; rfl⟩
  | subSatS32 => exact ⟨_, by simp only [exec, execSubSatS32, alu2, runThread]; rfl⟩
  | subSatZ32 => exact ⟨_, by simp only [exec, execSubSatZ32, alu2, runThread]; rfl⟩
  | mul => exact ⟨_, by simp only [exec, execMul, alu2, runThread]; rfl⟩
  | mulhS32 => exact ⟨_, by simp only [exec, execMulhS32, alu2, runThread]; rfl⟩
  | mulhZ32 => exact ⟨_, by simp only [exec, execMulhZ32, alu2, runThread]; rfl⟩
  | mad => exact ⟨_, by simp only [exec, execMad, alu3, runThread]; rfl⟩
  | mulwS32 => exact ⟨_, by simp only [exec, execMulwS32, aluWide, runThread]; rfl⟩
  | mulwZ32 => exact ⟨_, by simp only [exec, execMulwZ32, aluWide, runThread]; rfl⟩
  | divS32 => exact ⟨_, by simp only [exec, execDivS32, divide, runThread]; rfl⟩
  | divZ32 => exact ⟨_, by simp only [exec, execDivZ32, divide, runThread]; rfl⟩
  | remS32 => exact ⟨_, by simp only [exec, execRemS32, divide, runThread]; rfl⟩
  | remZ32 => exact ⟨_, by simp only [exec, execRemZ32, divide, runThread]; rfl⟩
  | minS32 => exact ⟨_, by simp only [exec, execMinS32, alu2, runThread]; rfl⟩
  | minZ32 => exact ⟨_, by simp only [exec, execMinZ32, alu2, runThread]; rfl⟩
  | maxS32 => exact ⟨_, by simp only [exec, execMaxS32, alu2, runThread]; rfl⟩
  | maxZ32 => exact ⟨_, by simp only [exec, execMaxZ32, alu2, runThread]; rfl⟩
  | absS32 => exact ⟨_, by simp only [exec, execAbsS32, alu1, runThread]; rfl⟩
  | neg => exact ⟨_, by simp only [exec, execNeg, alu1, runThread]; rfl⟩
  | and => exact ⟨_, by simp only [exec, execAnd, alu2, runThread]; rfl⟩
  | or => exact ⟨_, by simp only [exec, execOr, alu2, runThread]; rfl⟩
  | xor => exact ⟨_, by simp only [exec, execXor, alu2, runThread]; rfl⟩
  | andn => exact ⟨_, by simp only [exec, execAndn, alu2, runThread]; rfl⟩
  | not => exact ⟨_, by simp only [exec, execNot, alu1, runThread]; rfl⟩
  | andi => exact ⟨_, by simp only [exec, execAndi, alu1, runThread]; rfl⟩
  | ori => exact ⟨_, by simp only [exec, execOri, alu1, runThread]; rfl⟩
  | xori => exact ⟨_, by simp only [exec, execXori, alu1, runThread]; rfl⟩
  | shl => exact ⟨_, by simp only [exec, execShl, alu2, runThread]; rfl⟩
  | shr => exact ⟨_, by simp only [exec, execShr, alu2, runThread]; rfl⟩
  | sra => exact ⟨_, by simp only [exec, execSra, alu2, runThread]; rfl⟩
  | shli => exact ⟨_, by simp only [exec, execShli, alu1, runThread]; rfl⟩
  | shri => exact ⟨_, by simp only [exec, execShri, alu1, runThread]; rfl⟩
  | srai => exact ⟨_, by simp only [exec, execSrai, alu1, runThread]; rfl⟩
  | rotl => exact ⟨_, by simp only [exec, execRotl, alu2, runThread]; rfl⟩
  | rotli => exact ⟨_, by simp only [exec, execRotli, alu1, runThread]; rfl⟩
  | popc => exact ⟨_, by simp only [exec, execPopc, alu1, runThread]; rfl⟩
  | clz => exact ⟨_, by simp only [exec, execClz, alu1, runThread]; rfl⟩
  | brev => exact ⟨_, by simp only [exec, execBrev, alu1, runThread]; rfl⟩
  | bfxS => exact ⟨_, by simp only [exec, execBfxS, alu1, runThread]; rfl⟩
  | bfxZ => exact ⟨_, by simp only [exec, execBfxZ, alu1, runThread]; rfl⟩
  | bfi => exact ⟨_, by simp only [exec, execBfi, alu2, runThread]; rfl⟩
  | lea => exact ⟨_, by simp only [exec, execLea, runThread]; rfl⟩
  | add64 => exact ⟨_, by simp only [exec, execAdd64, alu64, runThread]; rfl⟩
  | sub64 => exact ⟨_, by simp only [exec, execSub64, alu64, runThread]; rfl⟩
  | addi64 => exact ⟨_, by simp only [exec, execAddi64, aluI64, runThread]; rfl⟩
  | shl64i => exact ⟨_, by simp only [exec, execShl64i, aluI64, runThread]; rfl⟩
  | shr64i => exact ⟨_, by simp only [exec, execShr64i, aluI64, runThread]; rfl⟩
  | fkeyF16 => exact ⟨_, by simp only [exec, execFkeyF16, alu1, runThread]; rfl⟩
  | fkeyF32 => exact ⟨_, by simp only [exec, execFkeyF32, alu1, runThread]; rfl⟩
  | cmpS32 => exact ⟨_, by simp only [exec, execCmpS32, setPred, runThread]; rfl⟩
  | cmpZ32 => exact ⟨_, by simp only [exec, execCmpZ32, setPred, runThread]; rfl⟩
  | cmpS64 => exact ⟨_, by simp only [exec, execCmpS64, setPred, runThread]; rfl⟩
  | cmpZ64 => exact ⟨_, by simp only [exec, execCmpZ64, setPred, runThread]; rfl⟩
  | cmpiS32 => exact ⟨_, by simp only [exec, execCmpiS32, setPred, runThread]; rfl⟩
  | cmpiZ32 => exact ⟨_, by simp only [exec, execCmpiZ32, setPred, runThread]; rfl⟩
  | fcmpF32 => exact ⟨_, by simp only [exec, execFcmpF32, setPred, runThread]; rfl⟩
  | fcmpF16 => exact ⟨_, by simp only [exec, execFcmpF16, setPred, runThread]; rfl⟩
  | plog => exact ⟨_, by simp only [exec, execPlog, setPred, runThread]; rfl⟩
  | pmov => exact ⟨_, by simp only [exec, execPmov, runThread]; rfl⟩
  | vote => exact ⟨_, by simp only [exec, execVote, runConv]; rfl⟩
  | faddF32 => exact ⟨_, by simp only [exec, execFaddF32, alu2, runThread]; rfl⟩
  | fsubF32 => exact ⟨_, by simp only [exec, execFsubF32, alu2, runThread]; rfl⟩
  | fmulF32 => exact ⟨_, by simp only [exec, execFmulF32, alu2, runThread]; rfl⟩
  | ffmaF32 => exact ⟨_, by simp only [exec, execFfmaF32, alu3, runThread]; rfl⟩
  | fminF32 => exact ⟨_, by simp only [exec, execFminF32, alu2, runThread]; rfl⟩
  | fmaxF32 => exact ⟨_, by simp only [exec, execFmaxF32, alu2, runThread]; rfl⟩
  | fabsF32 => exact ⟨_, by simp only [exec, execFabsF32, alu1, runThread]; rfl⟩
  | fnegF32 => exact ⟨_, by simp only [exec, execFnegF32, alu1, runThread]; rfl⟩
  | frcpF32 => exact ⟨_, by simp only [exec, execFrcpF32, alu1, runThread]; rfl⟩
  | frsqF32 => exact ⟨_, by simp only [exec, execFrsqF32, alu1, runThread]; rfl⟩
  | fsqrtF32 => exact ⟨_, by simp only [exec, execFsqrtF32, alu1, runThread]; rfl⟩
  | fexp2F32 => exact ⟨_, by simp only [exec, execFexp2F32, alu1, runThread]; rfl⟩
  | flog2F32 => exact ⟨_, by simp only [exec, execFlog2F32, alu1, runThread]; rfl⟩
  | fdivF32 => exact ⟨_, by simp only [exec, execFdivF32, alu2, runThread]; rfl⟩
  | faddRzF32 => exact ⟨_, by simp only [exec, execFaddRzF32, alu2, runThread]; rfl⟩
  | ffmaRzF32 => exact ⟨_, by simp only [exec, execFfmaRzF32, alu3, runThread]; rfl⟩
  | hadd2 => exact ⟨_, by simp only [exec, execHadd2, alu2, runThread]; rfl⟩
  | hmul2 => exact ⟨_, by simp only [exec, execHmul2, alu2, runThread]; rfl⟩
  | hfma2 => exact ⟨_, by simp only [exec, execHfma2, alu3, runThread]; rfl⟩
  | hmin2 => exact ⟨_, by simp only [exec, execHmin2, alu2, runThread]; rfl⟩
  | hmax2 => exact ⟨_, by simp only [exec, execHmax2, alu2, runThread]; rfl⟩
  | badd2 => exact ⟨_, by simp only [exec, execBadd2, alu2, runThread]; rfl⟩
  | bmul2 => exact ⟨_, by simp only [exec, execBmul2, alu2, runThread]; rfl⟩
  | bfma2 => exact ⟨_, by simp only [exec, execBfma2, alu3, runThread]; rfl⟩
  | bmin2 => exact ⟨_, by simp only [exec, execBmin2, alu2, runThread]; rfl⟩
  | bmax2 => exact ⟨_, by simp only [exec, execBmax2, alu2, runThread]; rfl⟩
  | cvtF32S32 => exact ⟨_, by simp only [exec, execCvtF32S32, alu1, runThread]; rfl⟩
  | cvtF32Z32 => exact ⟨_, by simp only [exec, execCvtF32Z32, alu1, runThread]; rfl⟩
  | cvtS32F32Rz => exact ⟨_, by simp only [exec, execCvtS32F32Rz, alu1, runThread]; rfl⟩
  | cvtS32F32Rn => exact ⟨_, by simp only [exec, execCvtS32F32Rn, alu1, runThread]; rfl⟩
  | cvtZ32F32Rz => exact ⟨_, by simp only [exec, execCvtZ32F32Rz, alu1, runThread]; rfl⟩
  | cvtF16F32 => exact ⟨_, by simp only [exec, execCvtF16F32, alu1, runThread]; rfl⟩
  | cvtF16F32Sat => exact ⟨_, by simp only [exec, execCvtF16F32Sat, alu1, runThread]; rfl⟩
  | cvtBf16F32 => exact ⟨_, by simp only [exec, execCvtBf16F32, alu1, runThread]; rfl⟩
  | cvtF32F16 => exact ⟨_, by simp only [exec, execCvtF32F16, alu1, runThread]; rfl⟩
  | cvtF32Bf16 => exact ⟨_, by simp only [exec, execCvtF32Bf16, alu1, runThread]; rfl⟩
  | cvtb => exact ⟨_, by simp only [exec, execCvtb, runConv]; rfl⟩
  | widb => exact ⟨_, by simp only [exec, execWidb, runConv]; rfl⟩
  | cvtw => exact ⟨_, by simp only [exec, execCvtw, alu1, runThread]; rfl⟩
  | xshf => exact ⟨_, by simp only [exec, execXshf, laneWord, runConv]; rfl⟩
  | xshfw => exact ⟨_, by simp only [exec, execXshfw, laneWord, runConv]; rfl⟩
  | red => exact ⟨_, by simp only [exec, execRed, runConv]; rfl⟩
  | scan => exact ⟨_, by simp only [exec, execScan, runConv]; rfl⟩
  | permb => exact ⟨_, by simp only [exec, execPermb, runConv]; rfl⟩
  | ldG => exact ⟨_, by simp only [exec, execLdG, ldG]; rfl⟩
  | stG => exact ⟨_, by simp only [exec, execStG, stG]; rfl⟩
  | ldS => exact ⟨_, by simp only [exec, execLdS]; rfl⟩
  | stS => exact ⟨_, by simp only [exec, execStS]; rfl⟩
  | ldD => exact ⟨_, by simp only [exec, execLdD]; rfl⟩
  | stD => exact ⟨_, by simp only [exec, execStD]; rfl⟩
  | ldaCore => exact ⟨_, by simp only [exec, execLdaCore, lda]; rfl⟩
  | ldaDev => exact ⟨_, by simp only [exec, execLdaDev, lda]; rfl⟩
  | ldaSys => exact ⟨_, by simp only [exec, execLdaSys, lda]; rfl⟩
  | stlCore => exact ⟨_, by simp only [exec, execStlCore, stl]; rfl⟩
  | stlDev => exact ⟨_, by simp only [exec, execStlDev, stl]; rfl⟩
  | stlSys => exact ⟨_, by simp only [exec, execStlSys, stl]; rfl⟩
  | atomCore => exact ⟨_, by simp only [exec, execAtomCore, atomic]; rfl⟩
  | atomDev => exact ⟨_, by simp only [exec, execAtomDev, atomic]; rfl⟩
  | atomSys => exact ⟨_, by simp only [exec, execAtomSys, atomic]; rfl⟩
  | redaDev => exact ⟨_, by simp only [exec, execRedaDev, atomic]; rfl⟩
  | redaSys => exact ⟨_, by simp only [exec, execRedaSys, atomic]; rfl⟩
  | fence => exact ⟨_, by simp only [exec, execFence]; rfl⟩
  | fenceAlias => exact ⟨_, by simp only [exec, execFenceAlias]; rfl⟩
  | pref => exact ⟨_, by simp only [exec, execPref]; rfl⟩
  | marm => exact ⟨_, by simp only [exec, execMarm]; rfl⟩
  | maps => exact ⟨_, by simp only [exec, execMaps]; rfl⟩
  | flushs => exact ⟨_, by simp only [exec, execFlushs]; rfl⟩
  | invs => exact ⟨_, by simp only [exec, execInvs]; rfl⟩
  | tlbp => exact ⟨_, by simp only [exec, execTlbp]; rfl⟩
  | bra => exact ⟨_, by simp only [exec, execBra]; rfl⟩
  | brx => exact ⟨_, by simp only [exec, execBrx]; rfl⟩
  | call => exact ⟨_, by simp only [exec, execCall]; rfl⟩
  | callx => exact ⟨_, by simp only [exec, execCallx]; rfl⟩
  | ret => exact ⟨_, by simp only [exec, execRet]; rfl⟩
  | rep => exact ⟨_, by simp only [exec, execRep]; rfl⟩
  | exit => exact ⟨_, by simp only [exec, execExit]; rfl⟩
  | wait => exact ⟨_, by simp only [exec, execWait]; rfl⟩
  | mwait => exact ⟨_, by simp only [exec, execMwait]; rfl⟩
  | bar => exact ⟨_, by simp only [exec, execBar]; rfl⟩
  | barcfg => exact ⟨_, by simp only [exec, execBarcfg]; rfl⟩
  | cvdecl => exact ⟨_, by simp only [exec, execCvdecl]; rfl⟩
  | yield => exact ⟨_, by simp only [exec, execYield, runThread]; rfl⟩
  | ckm => exact ⟨_, by simp only [exec, execCkm]; rfl⟩
  | trap => exact ⟨_, by simp only [exec, execTrap]; rfl⟩
  | bkpt => exact ⟨_, by simp only [exec, execBkpt]; rfl⟩
  | rft => exact ⟨_, by simp only [exec, execRft]; rfl⟩
  | haltg => exact ⟨_, by simp only [exec, execHaltg]; rfl⟩
  | acmark => exact ⟨_, by simp only [exec, execAcmark]; rfl⟩
  | trk => exact ⟨_, by simp only [exec, execTrk]; rfl⟩
  | copy => exact ⟨_, by simp only [exec, execCopy, runSigned]; rfl⟩
  | copyR => exact ⟨_, by simp only [exec, execCopyR, runSigned]; rfl⟩
  | chain => exact ⟨_, by simp only [exec, execChain, runSigned]; rfl⟩
  | gather => exact ⟨_, by simp only [exec, execGather, runSigned]; rfl⟩
  | scatter => exact ⟨_, by simp only [exec, execScatter, runSigned]; rfl⟩
  | commit => exact ⟨_, by simp only [exec, execCommit, runSigned]; rfl⟩
  | enq => exact ⟨_, by simp only [exec, execEnq, runSigned]; rfl⟩
  | evt => exact ⟨_, by simp only [exec, execEvt, runSigned]; rfl⟩
  | atomR => exact ⟨_, by simp only [exec, execAtomR, runSigned]; rfl⟩
  | tcfg => exact ⟨_, by simp only [exec, execTcfg]; rfl⟩
  | tld => exact ⟨_, by simp only [exec, execTld, runSigned]; rfl⟩
  | tst => exact ⟨_, by simp only [exec, execTst, runSigned]; rfl⟩
  | tzero => exact ⟨_, by simp only [exec, execTzero, runSigned]; rfl⟩
  | qnt => exact ⟨_, by simp only [exec, execQnt, runSigned]; rfl⟩
  | tcvt => exact ⟨_, by simp only [exec, execTcvt, runSigned]; rfl⟩
  | mmaBf16 => exact ⟨_, by simp only [exec, execMmaBf16, runSigned]; rfl⟩
  | mmaF16 => exact ⟨_, by simp only [exec, execMmaF16, runSigned]; rfl⟩
  | mmaE4m3 => exact ⟨_, by simp only [exec, execMmaE4m3, runSigned]; rfl⟩
  | mmaE5m2 => exact ⟨_, by simp only [exec, execMmaE5m2, runSigned]; rfl⟩
  | mmaE2m3 => exact ⟨_, by simp only [exec, execMmaE2m3, runSigned]; rfl⟩
  | mmaE3m2 => exact ⟨_, by simp only [exec, execMmaE3m2, runSigned]; rfl⟩
  | mmaE2m1 => exact ⟨_, by simp only [exec, execMmaE2m1, runSigned]; rfl⟩
  | mmaDl8 => exact ⟨_, by simp only [exec, execMmaDl8, runSigned]; rfl⟩
  | mmaS8 => exact ⟨_, by simp only [exec, execMmaS8, runSigned]; rfl⟩
  | mmaS4 => exact ⟨_, by simp only [exec, execMmaS4, runSigned]; rfl⟩
  | segn => exact ⟨_, by simp only [exec, execSegn, runThread]; rfl⟩
  | scacc => exact ⟨_, by simp only [exec, execScacc, runSigned]; rfl⟩
  | aclr => exact ⟨_, by simp only [exec, execAclr, runSigned]; rfl⟩
  | amov => exact ⟨_, by simp only [exec, execAmov, runSigned]; rfl⟩
  | ast => exact ⟨_, by simp only [exec, execAst, runSigned]; rfl⟩
  | ald => exact ⟨_, by simp only [exec, execAld, runSigned]; rfl⟩
  | tchk => exact ⟨_, by simp only [exec, execTchk, runSigned]; rfl⟩
  | bind => exact absurd rfl h
  | preempt => exact absurd rfl h
  | resume => exact absurd rfl h
  | destroy => exact absurd rfl h
  | queueAttach => exact absurd rfl h
  | queueDetach => exact absurd rfl h
  | resolve => exact absurd rfl h
  | retire => exact absurd rfl h
  | horizon => exact absurd rfl h
  | dbgAttach => exact absurd rfl h
  | dbgDetach => exact absurd rfl h
  | dbgHalt => exact absurd rfl h
  | dbgResume => exact absurd rfl h
  | dbgStep => exact absurd rfl h
  | capture => exact absurd rfl h
  | mirageStop => exact absurd rfl h
  | replay => exact absurd rfl h
  | bootGo => exact absurd rfl h
  | attestGo => exact absurd rfl h
  | frzrelWrite => exact absurd rfl h
  | vminvWrite => exact absurd rfl h
  | lctlEnSet => exact absurd rfl h
  | lctlEnClear => exact absurd rfl h
  | fwwWrite => exact absurd rfl h
  | expsWrite => exact absurd rfl h
  | prqctlWrite => exact absurd rfl h
  | evctlWrite => exact absurd rfl h
  | routeWrite => exact absurd rfl h
  | registerWrite => exact absurd rfl h
  | packageColdReset => exact absurd rfl h
  | dieWarmReset => exact absurd rfl h
  | dieLoss => exact absurd rfl h
  | oasisLoss => exact absurd rfl h
  | phaseFail => exact absurd rfl h
  | lossOfLight => exact absurd rfl h
  | calicheThermal => exact absurd rfl h
  | boostWithdraw => exact absurd rfl h
  | hostWrite => exact absurd rfl h
  | hostRead => exact absurd rfl h
  | hostAtomicop => exact absurd rfl h
  | peerRequest => exact absurd rfl h
  | flitReceive => exact absurd rfl h
  | trainingLocked => exact absurd rfl h
  | trainingTimeout => exact absurd rfl h
  | restripeAgreed => exact absurd rfl h
  | replayAckTimeout => exact absurd rfl h
  | lightHoldExpiry => exact absurd rfl h
  | egressStallExpiry => exact absurd rfl h
  | wadiDrained => exact absurd rfl h
  | spillTimeout => exact absurd rfl h
  | linkRequestTimeout => exact absurd rfl h
  | slotCycle => exact absurd rfl h
  | noticeExpiry => exact absurd rfl h
  | regroup => exact absurd rfl h
  | yieldExpiry => exact absurd rfl h
  | deferredFaultDelivery => exact absurd rfl h
  | convergeMismatch => exact absurd rfl h
  | barrierDeadlock => exact absurd rfl h
  | accessPerformed => exact absurd rfl h
  | laneReplay => exact absurd rfl h
  | pageRequestWrite => exact absurd rfl h
  | leaseExpiry => exact absurd rfl h
  | mwaitTimeout => exact absurd rfl h
  | memScrubDamage => exact absurd rfl h
  | telemetryAdd => exact absurd rfl h
  | commandComplete => exact absurd rfl h
  | tileOpPerformed => exact absurd rfl h
  | packetConsume => exact absurd rfl h
  | packetReady => exact absurd rfl h
  | kernelLaunch => exact absurd rfl h
  | copyPacketRun => exact absurd rfl h
  | packetFinish => exact absurd rfl h
  | evtReleaseApply => exact absurd rfl h
  | groupPlace => exact absurd rfl h
  | groupEnd => exact absurd rfl h
  | saveFrameWritten => exact absurd rfl h
  | restoreComplete => exact absurd rfl h
  | contextHalted => exact absurd rfl h
  | stagingComplete => exact absurd rfl h
  | destroyComplete => exact absurd rfl h
  | fqRoomPoll => exact absurd rfl h
  | eventRingWrite => exact absurd rfl h
  | watchdogTick => exact absurd rfl h
  | watchdogExpiry => exact absurd rfl h
  | tokenCharge => exact absurd rfl h
  | tokenRefill => exact absurd rfl h
  | accountSpill => exact absurd rfl h
  | currentRecord => exact absurd rfl h
  | vminSample => exact absurd rfl h
  | throttleExpiry => exact absurd rfl h
  | gatingIdleExpiry => exact absurd rfl h
  | gatingConfirm => exact absurd rfl h
  | wakeWaitExpiry => exact absurd rfl h
  | softStartStep => exact absurd rfl h
  | imageVerified => exact absurd rfl h
  | attestReport => exact absurd rfl h
  | lightRestored => exact absurd rfl h
  | neighbourDrawFall => exact absurd rfl h
  | boostBankRecharged => exact absurd rfl h

end Sys2Proof.Machine
end

