-- ==== Sys2Proof/Laws/Sign.lean ====
section
/-! SUPPORT. What the last signature of a convergence register comes to. -/

namespace Sys2Proof.Machine

set_option Elab.async false

/-- The last signature runs what the set then issues. -/
theorem runSigned_last {i : Instr} {n : BitVec 3} {s : State} {e m : Env} (h : s.SignsLast i n.toNat e m) :
    runSigned i n s = .next (match s.pop.completeCv e n.toNat { e.gr.cv n.toNat with
      st := .gathering, signed := (e.gr.cv n.toNat).signed ++ [e.tid], pc := e.t.pos.pc, word := some i
      waits := (e.gr.cv n.toNat).waits ++ s.pop.pendingIds e.g e.tid } i e.t.pos.pc true with
      | (s, true) => s
      | (s, false) => s.releaseHeld e n.toNat) := by
  obtain ⟨h1, h2, h3, h4, h5, h6, h7, h8⟩ := h
  simp only [runSigned, runWord_issues _ h1, State.sign]
  rw [if_neg (by simpa using h2), if_neg (by simpa using h3)]
  rw [if_neg (by simp; intro a; exact (h4 a).1), if_neg (by simp; intro a; exact (h4 a).2)]
  have hx : s.pop.touchesLater e.g n.toNat { e.gr.cv n.toNat with
      st := .gathering, signed := (e.gr.cv n.toNat).signed ++ [e.tid], pc := e.t.pos.pc, word := some i
      waits := (e.gr.cv n.toNat).waits ++ s.pop.pendingIds e.g e.tid } = false := by
    simp only [State.touchesLater, List.any_eq_false, Bool.and_eq_true, not_and, beq_iff_eq, List.contains_iff_mem]
    rintro x hx ⟨hg, hm⟩
    simpa using h7 x hx hg hm
  have hf : Cv.full { e.gr.cv n.toNat with
      st := .gathering, signed := (e.gr.cv n.toNat).signed ++ [e.tid], pc := e.t.pos.pc, word := some i
      waits := (e.gr.cv n.toNat).waits ++ s.pop.pendingIds e.g e.tid } = true := by
    simp [Cv.full]; intro t ht; exact (h5 t ht).symm
  rw [if_neg (by rw [hx]; simp), if_pos hf]
  all_goals rfl

/-- The set's word issues for its lowest member. -/
theorem issueCv_last {i : Instr} {n : BitVec 3} {s : State} {e m : Env} (h : s.SignsLast i n.toNat e m) :
    (s.pop.issueCv e.g { e.gr.cv n.toNat with
      st := .gathering, signed := (e.gr.cv n.toNat).signed ++ [e.tid], pc := e.t.pos.pc, word := some i
      waits := (e.gr.cv n.toNat).waits ++ s.pop.pendingIds e.g e.tid } i e.t.pos.pc)
    = issueWord i ((e.gr.cv n.toNat).signed ++ [e.tid]) m e.t.pos.pc s.pop.free.2 := by
  obtain ⟨h1, h2, h3, h4, h5, h6, -, h7⟩ := h
  simp only [State.issueCv]
  rw [if_neg]
  · have : s.pop.free.1 = s.fresh := rfl
    simp only [Cv.lowest, State.free] at h7 ⊢
    simp only [State.pop] at h7 ⊢
    rw [h7]
  · simp [State.pendingIds, State.pop]
    intro a ha
    refine ⟨(h6 a ha).1, fun b hb h1 h2 _ => (h6 b hb).2 ⟨h1, h2⟩⟩

/-- The word of a set whose operation issues. -/
theorem runSigned_done {i : Instr} {n : BitVec 3} {s u : State} {e m : Env} (h : s.SignsLast i n.toNat e m)
    (hi : issueWord i ((e.gr.cv n.toNat).signed ++ [e.tid]) m e.t.pos.pc s.pop.free.2 = (u, .done)) :
    runSigned i n s = .next (u.signed e n.toNat) := by
  rw [runSigned_last h]
  simp only [State.completeCv, issueCv_last h, hi]
  rfl

theorem signsLast_member {i : Instr} {n : BitVec 3} {s : State} {e m : Env} (h : s.SignsLast i n.toNat e m) : m.g = e.g ∧ m.op = s.fresh := by
  have := h.2.2.2.2.2.2.2; revert this; simp only [State.envAt]; grind

end Sys2Proof.Machine
end

