-- ==== Sys2Proof/WellFormed.lean ====
section
/-! DEFINITION. Which instructions are well formed: a word whose fields hold values the spec gives a meaning (R62 step 3), an
event whose operands stand in the package's ranges. -/

namespace Sys2Proof

/-- The ranges of an event's operands: a thread, a warp and an engine have their bounds (R2, R121), an address 64 bits, a read
1 to 4,096 bytes, a host's write 1 to 512 (R343), a peer a node number from 1 to 288 (R332). -/
def Instr.inRange : Instr → Bool
  | .noticeExpiry _ t => t < 1024
  | .yieldExpiry _ t => t < 1024
  | .deferredFaultDelivery _ t => t < 1024
  | .mwaitTimeout _ t => t < 1024
  | .convergeMismatch _ w => w < 16
  | .laneReplay _ w => w < 16
  | .hostWrite _ a w => decide (a < 2 ^ 64) && !w.data.isEmpty && decide (w.data.length ≤ 512)
  | .hostRead _ a n => decide (a < 2 ^ 64) && decide (0 < n) && decide (n ≤ 4096)
  | .hostAtomicop _ _ _ a _ _ => a < 2 ^ 64
  | .peerRequest _ n _ => decide (1 ≤ n.toNat) && decide (n.toNat ≤ 288)
  | .memScrubDamage a _ => a < 2 ^ 64
  | _ => true

/-- A well-formed instruction. -/
abbrev Instr.WellFormed (i : Instr) : Prop := illegal i = none ∧ i.inRange = true

end Sys2Proof
end

