-- ==== Sys2Proof/Tests/Slice0.lean ====
section
/-! SUPPORT. Tests: ill-formed instructions are refused, words written out in the spec decode, single steps do what the spec's
rules and examples say, and the hypotheses of each statement can be met. -/

namespace Sys2Proof.Machine.Tests

set_option Elab.async false

/-! ### Ill-formed instructions -/

/-- One word for each check of R71: an odd pair, a guard or predicate that does not exist, an operation, condition or size out of
range, and so on, with the lowest sub-code. -/
theorem test_ill_formed_words : ∀ p ∈ ([
    (.cmpS32 0 1 2 6, 0x04), (.red 1 2 11, 0x04), (.ldaDev 1 2 3 0 31, 0x04), (.fence 3, 0x04),
    (.add 1 2 3 24, 0x05), (.addc 1 2 3 31, 0x05), (.plog 0 25 1 8, 0x05), (.cmpS32 24 1 2 0, 0x05), (.bar 3 0 24, 0x05),
    (.movx 1 0 0, 0x06), (.add64 2 3 4 31, 0x06), (.ldG 2 5 4 0 31, 0x06), (.ldG 1 4 5 0 31, 0x06),
    (.movhi 1 0x4000, 0x07), (.bfxZ 1 2 31 1, 0x07), (.xshf 1 2 64, 0x07), (.xshfw 1 2 0, 0x07), (.swr 1 0, 0x0B)]
      : List (Instr × Byte)), illegal p.1 = some p.2 := by decide +kernel

/-- One event for each range: a thread, a warp, an address, a length, a node. -/
theorem test_out_of_range : ∀ i ∈ ([.noticeExpiry 0 1024, .yieldExpiry 0 1024, .deferredFaultDelivery 0 1024, .mwaitTimeout 0 1024,
    .convergeMismatch 0 16, .laneReplay 0 16, .hostWrite 0 (2 ^ 64) ⟨[0], false⟩, .hostWrite 0 0 ⟨[], true⟩, .hostRead 0 0 0,
    .hostRead 0 (2 ^ 64) 1, .hostAtomicop 0 .swap true (2 ^ 64) 0 0, .peerRequest 0 0 ⟨1, true, 0, .read 0 1⟩,
    .peerRequest 0 289 ⟨1, true, 0, .read 0 1⟩, .memScrubDamage (2 ^ 64) 1] : List Instr), ¬i.WellFormed := by decide +kernel

/-! ### Words of the spec (the examples beside each encoding, 02_encoding.md and 08 to 17) -/

theorem test_decode_thread : ∀ p ∈ ([
    (0x00000000, .nop), (0x02045678, .movi 1 0x5678), (0x0304048D, .movhi 1 0x48D), (0x050420E4, .sel 1 2 3 36),
    (0x06040001, .srd 1 1), (0x34081068, .bfxZ 2 1 3 8), (0x36206083, .lea 8 6 2 3), (0x45042A28, .cmpiZ32 1 2 40 5),
    (0x500C109F, .faddF32 3 1 2 31), (0x53101083, .ffmaF32 4 1 2 3), (0x7508501F, .cvtF16F32 2 5 31)] : List (Nat × Instr)),
    decodeTableWord 32 p.1 = some p.2 := by decide +kernel

theorem test_decode_lanes : ∀ p ∈ ([
    (0x4A21FC00, .vote 8 31 3), (0x7A182380, .cvtb 6 2 3 16), (0x8010A060, .xshf 4 10 3), (0x821C3080, .red 7 3 1),
    (0x84141300, .permb 5 1 12 0)] : List (Nat × Instr)), decodeTableWord 32 p.1 = some p.2 := by decide +kernel

theorem test_decode_memory : ∀ p ∈ ([
    (0x900C445F, .ldG 3 4 4 1 31), (0x9318251F, .stS 6 2 5 31), (0x9714841F, .ldaDev 5 8 4 0 31),
    (0x9D0C4185, .atomDev 3 4 6 0 5), (0xA2004000, .fenceAlias 4), (0xA300409F, .pref 4 2 31), (0xA400A01F, .marm 10 31),
    (0xA50840C0, .maps 2 4 3), (0xA6083000, .flushs 2 3), (0xA7083000, .invs 2 3), (0xA8284000, .tlbp 10 4)]
      : List (Nat × Instr)), decodeTableWord 32 p.1 = some p.2 := by decide +kernel

theorem test_decode_control : ∀ p ∈ ([
    (0xC400001F, .ret 31), (0xC600001F, .exit 31), (0xC807FC00, .wait 7 7 7 0), (0xC8001F80, .wait 0 0 7 7),
    (0xC9083800, .mwait 2 3 1), (0xCA400000, .bar 1 0 0), (0xCA840000, .bar 2 1 0), (0xCACC4000, .bar 3 3 2),
    (0xCB087000, .barcfg 2 7), (0xCC202000, .cvdecl 1 0 2), (0xCC100000, .cvdecl 0 1 0), (0xF8001234, .trap 0x1234),
    (0xF9000012, .bkpt 0x12), (0xFA000000, .rft), (0xFB000001, .haltg 1), (0xFC000007, .acmark 7), (0xFD00302A, .trk 3 0x2A)]
      : List (Nat × Instr)), decodeTableWord 32 p.1 = some p.2 := by decide +kernel

theorem test_decode_engine_tile : ∀ p ∈ ([
    (0xD0140000, .copy 5 0), (0xD3146200, .gather 5 6 1), (0xD5000400, .commit 2), (0xD6107000, .enq 4 7 0),
    (0xD70C0021, .evt 3 0 0x21), (0xE0402000, .tcfg 4 2), (0xE1010C00, .tld 0 4 12 0), (0xE4406680, .qnt 4 0 3 13 0),
    (0xF028C340, .segn 10 12 13)] : List (Nat × Instr)), decodeTableWord 32 p.1 = some p.2 := by decide +kernel

theorem test_decode_extension : decodeWords [0x040BFFFF, 0x89ABCDEF] = .ok (.movx 2 0x3FFFF 0x89ABCDEF) := rfl

/-- An unassigned opcode, a header's mark and a non-zero reserved field are no instruction (R70). -/
theorem test_no_instruction : ∀ w ∈ [0xFF000000, 0x3E000000, 0xC7000000, 0x00000001], decodeTableWord 32 w = none := by
  decide +kernel

/-! ### Single steps of one thread -/

/-- One thread that stands at word `w` with registers `x` and predicates `p`, its handler at the next page's header. -/
def lone (w : Nat) (x : Tbl W32 := []) (p : BitVec 24 := 0) : State :=
  (((State.reset.withFetchWord 32 w).setBytes (2 ^ 30) (leBytes 4 0xC707FFD1)).modKernel (2 ^ 32 + 1) fun k =>
    { k with trapv := 0x40000000 }).modThread 0 0 fun t => { t with x := x, p := p }

/-- The thread after the step. -/
def after (w : Nat) (x : Tbl W32 := []) (p : BitVec 24 := 0) : Option Thread :=
  match step (lone w x p) with
  | .next s => s.thread? 0 0
  | _ => none

/-- Register `r` after the step. -/
def reads (w : Nat) (x : Tbl W32) (r : BitVec 6) : Option W32 := (after w x).map (·.getX r)

/-- R148's example. -/
theorem test_movhi : reads 0x0304048D [(1, 0x5678)] 1 = some 0x12345678 := by decide +kernel
theorem test_add_wraps : reads 0x080C109F [(1, 0xFFFFFFFF), (2, 2)] 3 = some 1 := by decide +kernel
theorem test_sub_sat : reads 0x0F0C109F [(1, 1), (2, 2)] 3 = some 0 := by decide +kernel
theorem test_add_sat : reads 0x0C0C109F [(1, 0x7FFFFFFF), (2, 1)] 3 = some 0x7FFFFFFF := by decide +kernel
theorem test_mulh : reads 0x110C109F [(1, 0x80000000), (2, 2)] 3 = some 0xFFFFFFFF := by decide +kernel
/-- R152's table. -/
theorem test_div : reads 0x160C109F [(1, 0xFFFFFFF9), (2, 2)] 3 = some 0xFFFFFFFD := by decide +kernel
theorem test_div_most_negative : reads 0x160C109F [(1, 0x80000000), (2, 0xFFFFFFFF)] 3 = some 0x80000000 := by decide +kernel
theorem test_rem : reads 0x180C109F [(1, 0xFFFFFFF9), (2, 2)] 3 = some 0xFFFFFFFF := by decide +kernel
theorem test_div_zero : (after 0x160C109F [(1, 5), (3, 9)]).map (fun t => (t.getX 3, t.pos.pc, t.handler.map Handler.code))
    = some (9, 0x40000000, some 0x07) := by decide +kernel
theorem test_abs : reads 0x1E0C101F [(1, 0x80000000)] 3 = some 0x80000000 := by decide +kernel
theorem test_shl_32 : reads 0x280C109F [(1, 1), (2, 32)] 3 = some 0 := by decide +kernel
theorem test_sra_32 : reads 0x2A0C109F [(1, 0x80000000), (2, 33)] 3 = some 0xFFFFFFFF := by decide +kernel
/-- R159's example. -/
theorem test_bfx : reads 0x34081068 [(1, 0xA5F)] 2 = some 0xA := by decide +kernel
theorem test_clz_zero : reads 0x310C101F [] 3 = some 32 := by decide +kernel
theorem test_lea : reads 0x36206083 [(2, 0xFFFFFFFF), (6, 16)] 8 = some 8 := by decide +kernel
theorem test_cmp : (after 0x40081090 [(1, 0xFFFFFFFF), (2, 1)]).map (·.p) = some 4 := by decide +kernel
theorem test_guard_false : (after 0x080C1080 [(1, 1), (2, 2)]).map (fun t => (t.getX 3, t.pos.left)) = some (0, 14) := by
  decide +kernel
theorem test_fadd : reads 0x500C109F [(1, 0x3F800000), (2, 0x40000000)] 3 = some 0x40400000 := by decide +kernel
/-- A tie goes to the even significand: 1 + 2^-24. -/
theorem test_fadd_tie : reads 0x500C109F [(1, 0x3F800000), (2, 0x33800000)] 3 = some 0x3F800000 := by decide +kernel
theorem test_fadd_nan : reads 0x500C109F [(1, 0xFF800001), (2, 0)] 3 = some 0x7FC00000 := by decide +kernel
theorem test_fneg : reads 0x570C101F [] 3 = some 0x80000000 := by decide +kernel
/-- 65520 rounds to infinity in F16. -/
theorem test_cvt_f16 : reads 0x750C101F [(1, 0x477FF000)] 3 = some 0x7C00 := by decide +kernel
theorem test_xshf_alone : reads 0x800C1020 [(1, 7), (3, 9)] 3 = some 0 := by decide +kernel
theorem test_red_add : reads 0x820C1000 [(1, 7)] 3 = some 7 := by decide +kernel
theorem test_vote_any : (after 0x4A041400 []).map (·.p) = some 0 := by decide +kernel
theorem test_srd_warp_size : reads 0x060C0000 [] 3 = some 64 := by decide +kernel
/-- R174. -/
theorem test_trap : (after 0xF8001234 []).map (fun t => (t.pos.pc, t.handler.map fun h => (h.code, h.sub, h.addr, h.saved.left)))
    = some (0x40000000, some (0x7F, 0x34, 0x1234, 14)) := by decide +kernel
theorem test_rft_outside : (after 0xFA000000 []).map (fun t => t.handler.map fun h => (h.code, h.sub))
    = some (some (0x01, 0x18)) := by decide +kernel
theorem test_ret_empty : (after 0xC400001F []).map (fun t => t.handler.map fun h => (h.code, h.sub))
    = some (some (0x01, 0x16)) := by decide +kernel
/-- With no debugger attached (R360). -/
theorem test_bkpt : (after 0xF9000012 []).map (fun t => t.handler.map fun h => (h.code, h.sub))
    = some (some (0x70, 0x12)) := by decide +kernel
/-- A BRX to an address that is no multiple of 4 (R168). -/
theorem test_brx_misaligned : (after 0xC100401F [(4, 0x40000002)]).map (fun t => t.handler.map fun h => (h.code, h.sub, h.addr))
    = some (some (0x03, 0x03, 0x40000002)) := by decide +kernel
theorem test_misaligned : (after 0x900C445F [(4, 2)]).map (fun t => t.handler.map fun h => (h.code, h.sub, h.addr))
    = some (some (0x06, 0x01, 2)) := by decide +kernel
theorem test_bar_outside : (after 0xCA000000 []).map (fun t => t.pos.left) = some 14 := by decide +kernel
theorem test_wait_met : (after 0xC807FC00 []).map (fun t => t.pos.left) = some 14 := by decide +kernel
theorem test_mwait_none : (after 0xC9080000 [(2, 5)]).map (fun t => (t.getX 2, t.pos.left)) = some (0, 14) := by decide +kernel
theorem test_cvdecl : (match step (lone 0xCC100000) with
    | .next s => (s.group? 0).map fun g => (g.cv 0).members
    | _ => none) = some [0] := by decide +kernel
/-- An operation of a register that is UNSET is CONV_FOREIGN 0x03 (R293). -/
theorem test_unset_register : (after 0xD5000400 []).map (fun t => t.handler.map fun h => (h.code, h.sub))
    = some (some (0x31, 0x03)) := by decide +kernel


/-! ### Witnesses: states and operands that meet the hypotheses of each statement, clause by clause -/

/-- Word `i` issues in `s`, for a thread that meets `p`. -/
def issuesIf (s : State) (i : Instr) (p : Env → Bool) : Bool :=
  match s.issuer with
  | some e => (checkWord i e.k).isNone && e.t.guard (guardOf i) && p e
  | none => false

/-- Each word of `l` issues in `s`, for a thread that meets `p`. -/
def Meets (s : State) (l : List Instr) (p : Env → Bool := fun _ => true) : Prop := ∀ i ∈ l, ∃ e, s.Issues i e ∧ p e = true

theorem met {s : State} {p : Env → Bool} {l : List Instr} (h : l.all (issuesIf s · p) = true) : Meets s l p := by
  intro i hi
  have := List.all_eq_true.mp h i hi
  unfold issuesIf at this
  split at this
  · rename_i e he
    simp only [Bool.and_eq_true, Option.isNone_iff_eq_none] at this
    exact ⟨e, ⟨he, this.1.1, this.1.2⟩, this.2⟩
  · exact absurd this (by decide)

/-- `lone`, its thread, its group or its warp changed; a second thread beside it. -/
def loneT (f : Thread → Thread) (w : Nat := 0) : State := (lone w).modThread 0 0 f
def loneG (f : Group → Group) : State := (lone 0).modGroup 0 f
def loneW (f : Warp → Warp) : State := loneG fun g => g.modWarp 0 f
def pair (f : Group → Group := id) : State :=
  ((lone 0).modKernel (2 ^ 32 + 1) fun k => { k with gszx := 2 }).modGroup 0 fun g =>
    f { g with threads := g.threads ++ g.threads.map fun x => (1, { x.2 with tid := 1 }) }
/-- A thread in a handler of a fault. -/
def trapped (moved : Bool) (to_ : W64) : Option Handler := some ⟨0x7F, 1, 2, ⟨to_, 3, loadHeader⟩, none, moved⟩

/-- An acquire load of the thread that is not performed. -/
def anAccess : Access := ⟨7, 0, 0, 0, 0, 5, .load, .global, .device, true, true, false, 0, 0x1000, span 0x1000 4, 0, 4, 0x11223344, 0, 1,
  false, 100, none, span 0x1000 4, 1, 1, 0, none, none, [], false⟩

theorem witness_MovesLogicResult : Meets (lone 0) [.nop, .mov 63 62 31, .movi 63 0x3FFFF, .movhi 63 0x3FFF, .movx 62 0x20000 0xFFFFFFFF,
    .sel 0 1 2 55, .sel 0 1 2 23, .pmov 63 0, .pmov 63 1, .and 63 0 1 31, .or 0 63 63 55, .xor 0 0 0 31, .andn 1 2 3 31,
    .not 63 63 31, .andi 63 0 0xFFF, .ori 0 63 0, .xori 0 0 0x800] := met (by decide +kernel)

theorem witness_IntegerResult : Meets (lone 0) [.add 63 62 61 31, .sub 0 0 0 31, .addi 63 0 0x800, .neg 0 63 31, .absS32 0 63 31,
    .mul 0 1 2 31, .mad 63 62 61 60, .mulhS32 0 1 2 31, .mulhZ32 0 1 2 31, .mulwS32 62 63 63 31, .mulwZ32 0 0 1 31,
    .minS32 0 1 2 31, .maxS32 0 1 2 31, .minZ32 0 1 2 31, .maxZ32 0 1 2 31, .addSatS32 0 1 2 31, .subSatS32 0 1 2 31,
    .addSatZ32 0 1 2 31, .subSatZ32 0 1 2 31, .addc 0 1 2 23, .add64 62 62 62 31, .sub64 0 0 0 31, .addi64 62 0 0xFFF,
    .shl64i 0 62 63, .shr64i 62 0 0, .lea 62 0 63 7] := met (by decide +kernel)

theorem witness_DivisionResult : Meets (lone 0 [(2, 1)]) [.divS32 0 1 2 31, .divZ32 0 1 2 31, .remS32 0 1 2 31, .remZ32 0 1 2 31]
      (fun e => e.t.getX 2 ≠ 0) ∧
    Meets (lone 0) [.divS32 0 1 2 31, .divZ32 0 1 2 31, .remS32 0 1 2 31, .remZ32 0 1 2 31] (fun e => e.t.getX 2 = 0) :=
  ⟨met (by decide +kernel), met (by decide +kernel)⟩

theorem witness_ShiftFieldResult : Meets (lone 0) [.shl 0 1 2 31, .shr 63 62 61 31, .sra 0 1 2 31, .shli 0 1 31, .shri 0 1 0,
    .srai 0 1 31, .rotl 0 1 2 31, .rotli 0 1 31, .popc 0 63 31, .clz 0 63 31, .brev 63 0 31, .bfxZ 0 1 31 0, .bfxS 0 1 0 31,
    .bfi 0 1 15 16, .fkeyF32 0 1 31, .fkeyF16 0 1 31] := met (by decide +kernel)

theorem witness_CompareResult : Meets (lone 0) [.cmpS32 0 1 2 0, .cmpZ32 23 1 2 5, .cmpS64 0 62 0 1, .cmpZ64 0 0 62 2,
      .cmpiS32 0 1 0x20 3, .cmpiZ32 0 1 0x3F 4, .plog 0 31 23 15] ∧
    Meets (lone 0 [(1, 0x7F800001)]) [.fcmpF32 0 1 2 6, .fcmpF32 23 2 1 7] (fun e => (f32 (e.t.getX 1)).isNan) ∧
    Meets (lone 0 [(1, 0x7F800000)]) [.fcmpF32 0 1 2 0] (fun e => !(f32 (e.t.getX 1)).isNan && !(f32 (e.t.getX 2)).isNan) ∧
    Meets (lone 0 [(1, 0x7C01)]) [.fcmpF16 0 1 2 1] (fun e => (f16Low (e.t.getX 1)).isNan) ∧
    Meets (lone 0 [(1, 0x7C00)]) [.fcmpF16 0 1 2 5] (fun e => !(f16Low (e.t.getX 1)).isNan && !(f16Low (e.t.getX 2)).isNan) :=
  ⟨met (by decide +kernel), met (by decide +kernel), met (by decide +kernel), met (by decide +kernel), met (by decide +kernel)⟩

theorem witness_FloatResult : Meets (lone 0) [.faddF32 0 1 2 31, .fsubF32 0 1 2 31, .fmulF32 0 1 2 31, .fdivF32 0 1 2 31,
      .faddRzF32 0 1 2 31, .ffmaF32 0 1 2 63, .ffmaRzF32 0 1 2 63, .fminF32 0 1 2 31, .fmaxF32 0 1 2 31, .frcpF32 0 1 31,
      .frsqF32 0 1 31, .fsqrtF32 0 1 31, .fexp2F32 0 1 31, .flog2F32 0 1 31, .fabsF32 0 1 31, .fnegF32 0 1 31, .hadd2 0 1 2 31,
      .badd2 0 1 2 31, .hmul2 0 1 2 31, .bmul2 0 1 2 31, .hfma2 0 1 2 63, .bfma2 0 1 2 63, .hmin2 0 1 2 31, .bmin2 0 1 2 31,
      .hmax2 0 1 2 31, .bmax2 0 1 2 31] ∧
    Meets (lone 0 [(1, 0xFFFFFFFF)]) [.faddF32 0 1 2 31, .fsubF32 0 1 2 31, .fmulF32 0 1 2 31, .fdivF32 0 1 2 31,
      .faddRzF32 0 1 2 31, .fminF32 0 1 2 31, .fmaxF32 0 1 2 31, .ffmaF32 0 1 2 63, .ffmaRzF32 0 1 2 63]
      (fun e => (f32 (e.t.getX 1)).isNan) ∧
    Meets (lone 0 [(63, 0x7F800001)]) [.ffmaF32 0 1 2 63, .ffmaRzF32 0 1 2 63] (fun e => (f32 (e.t.getX 63)).isNan) :=
  ⟨met (by decide +kernel), met (by decide +kernel), met (by decide +kernel)⟩

theorem witness_ConversionResult : Meets (lone 0) [.cvtF32S32 0 1 31, .cvtF32Z32 0 1 31, .cvtS32F32Rz 0 1 31, .cvtS32F32Rn 0 1 31,
    .cvtZ32F32Rz 0 1 31, .cvtF16F32 0 1 31, .cvtF16F32Sat 0 1 31, .cvtBf16F32 0 1 31, .cvtF32F16 0 1 31, .cvtF32Bf16 0 1 31,
    .cvtw 0 1 3, .cvtw 0 1 8] (fun _ => (Fmt.ofCode 3).isSome && (Fmt.ofCode 8).isSome) := met (by decide +kernel)

/-- The largest pattern of each format that is no NaN, and the smallest of all. -/
theorem witness_RoundTripFormat : ∀ x ∈ [(Fmt.f32, 0xFF800000), (.bf16, 0xFF80), (.f16, 0xFC00), (.e4m3, 0xFE), (.e5m2, 0xFC), (.e2m3, 0x3F),
    (.e3m2, 0x3F), (.e2m1, 0xF), (.f32, 0)], x.2 < 2 ^ x.1.width ∧ (x.1.decode x.2).isNan = false := by decide +kernel

theorem witness_ConvergentWait : Meets (pair) [.xshf 0 1 63, .xshfw 0 1 1, .red 0 1 0, .scan 0 1 8 1, .vote 0 31 3, .permb 0 1 2 1,
    .cvtb 0 1 3 16, .widb 0 1 10 23] (fun e => e.arrived.converged e.t = false) := met (by decide +kernel)

theorem witness_LaneResult : Meets (lone 0) [.xshf 63 0 63, .xshf 0 63 0, .xshfw 0 1 1, .xshfw 0 1 6, .vote 0 31 0, .vote 23 0 1,
    .vote 0 0 2, .vote 62 31 3, .permb 0 1 2 0, .permb 0 1 2 1, .red 0 1 0, .red 63 0 10, .scan 0 1 0 0, .scan 0 1 10 1]
    (fun e => e.arrived.converged e.t) := met (by decide +kernel)

theorem witness_ReductionIsFold : (List.replicate 64 (0xFFFFFFFF : W32)).length = 64 ∧ ∀ o ∈ [0, 2, 8], o = 0 ∨ (2 ≤ o ∧ o ≤ 8) := by decide

theorem witness_RotatingResult : Meets (lone 0) [.cvtb 0 1 3 16, .cvtb 63 62 3 23, .widb 0 1 3 16]
    (fun e => e.arrived.converged e.t && (Fmt.ofCode (3 : BitVec 4).toNat).isSome) := met (by decide +kernel)

theorem witness_SpecialRegisters :
    Meets (lone 0) (([0x000, 0x001, 0x002, 0x003, 0x004, 0x005, 0x006, 0x008, 0x009, 0x00A, 0x00C, 0x00D, 0x00E, 0x010, 0x011,
      0x012, 0x013, 0x014, 0x015, 0x016, 0x017, 0x020, 0x027, 0x030, 0x03F, 0x040, 0x041, 0x042, 0x043, 0x044, 0x050, 0x051,
      0x060, 0x061, 0x070, 0x071, 0x072, 0x073, 0x074] : List (BitVec 12)).map (.srd 63)) ∧
    Meets (lone 0 [(1, 7)]) [.swr 1 0x020, .swr 1 0x027, .swr 1 0x030, .swr 1 0x03F, .swr 1 0x040, .swr 1 0x041]
      (fun e => e.t.getX 1 ≤ 7) ∧
    Meets (lone 0 [(1, 8)]) [.swr 1 0x041] (fun e => 7 < (e.t.getX 1).toNat) ∧
    Meets (lone 0) [.swr 1 0x071, .swr 1 0x072] (fun e => e.t.handler = none) ∧
    Meets (loneT fun t => { t with handler := trapped false 0 }) [.swr 1 0x071, .swr 1 0x072] (fun e => e.t.handler.isSome) ∧
    Meets (lone 0) [.ckm 0, .ckm 1, .ckm 2] :=
  ⟨met (by decide +kernel), met (by decide +kernel), met (by decide +kernel), met (by decide +kernel), met (by decide +kernel),
    met (by decide +kernel)⟩

/-- The word at `pc` can be fetched and meets `p`. -/
def fetches (s : State) (e : Env) (pc : W64) (p : Nat → Bool) : Bool :=
  match s.pop.fetch e.gr pc with
  | (_, .ok w) => p w
  | _ => false
/-- The word of `lone` stands below a header; here it stands below an ADD. -/
def beforeAdd : State := (lone 0).setBytes (2 ^ 30) (leBytes 4 0x080C109F)

/-- Targets that are headers and one that is none, addresses of words and one that is none; full and empty call stacks; repeats
of an ADD, none and most, and at a clause's end. -/
theorem witness_BranchCallRepeat :
    Meets (lone 0) [.bra 1 31, .call 1 31] (fun e => e.t.stack.length < 31 && fetches (lone 0) e (e.t.pos.pc + 4) isHeader) ∧
    Meets (lone 0) [.bra 0 31] (fun e => fetches (lone 0) e e.t.pos.pc (!isHeader ·)) ∧
    Meets (lone 0 [(0, 0x40000000)]) [.brx 0 31, .callx 0 31]
      (fun e => (e.t.getX2 0).toNat % 4 = 0 && fetches (lone 0) e (e.t.getX2 0) isHeader) ∧
    Meets (lone 0 [(0, 0x40000003)]) [.brx 0 31] (fun e => (e.t.getX2 0).toNat % 4 ≠ 0) ∧
    Meets (loneT fun t => { t with stack := List.replicate 30 t.pos }) [.call 1 31, .ret 31]
      (fun e => e.t.stack.length < 31 && e.t.stack != [] && fetches (lone 0) e (e.t.pos.pc + 4) isHeader) ∧
    Meets (loneT fun t => { t with stack := List.replicate 31 t.pos }) [.call 1 31, .callx 0 31] (fun e => 31 ≤ e.t.stack.length) ∧
    Meets (lone 0) [.ret 31] (fun e => e.t.stack = []) ∧
    Meets beforeAdd [.rep 0 14 1, .rep 61 14 1] (fun e => 1 < e.t.pos.left && fetches beforeAdd e (e.t.pos.pc + 4) fun w =>
      repCheck e.t.pos.hdr e.k 0 14 1 w = none && repCheck e.t.pos.hdr e.k 61 14 1 w = none) ∧
    (let s := beforeAdd.modThread 0 0 fun t => { t with pos := { t.pos with hdr := 0xC707FFBF } }
     Meets s [.rep 0 14 1, .rep 61 14 1]
       (fun e => 1 < e.t.pos.left && fetches s e (e.t.pos.pc + 4) fun w => (classSub e.t.pos.hdr w).isSome)) ∧
    Meets (loneT fun t => { t with pos := { t.pos with left := 1 } }) [.rep 1 14 1] (fun e => e.t.pos.left ≤ 1) :=
  ⟨met (by decide +kernel), met (by decide +kernel), met (by decide +kernel), met (by decide +kernel), met (by decide +kernel), met (by decide +kernel),
    met (by decide +kernel), met (by decide +kernel), met (by decide +kernel), met (by decide +kernel)⟩

theorem witness_TrapAndReturn : Meets (lone 0) [.trap 0xFFFF, .bkpt 0] (fun e => ((lone 0).ctx? e.gr.ctx).bind Ctx.debug = none) ∧
    (let s := (lone 0).modCtx 1 fun c => { c with debug := some 3 }
     Meets s [.bkpt 0xFFFF] (fun e => (s.ctx? e.gr.ctx).bind Ctx.debug = some 3)) ∧
    Meets (loneT fun t => { t with handler := trapped false 0x40000000 }) [.rft]
      (fun e => e.t.handler.map Handler.moved = some false) ∧
    Meets (loneT fun t => { t with handler := trapped true 0x40000000 }) [.rft]
      (fun e => (e.t.handler.map fun h => h.moved && h.saved.pc.toNat % 4 == 0 && fetches (lone 0) e h.saved.pc isHeader) = some true) ∧
    Meets (lone 0) [.rft] (fun e => e.t.handler = none) :=
  ⟨met (by decide +kernel), met (by decide +kernel), met (by decide +kernel), met (by decide +kernel), met (by decide +kernel)⟩

/-- A WAIT that is met and one that is not; an MWAIT with no monitor, a woken one, and one that has to wait, with no limit, a
limit of 0 and one that is not 0. -/
theorem witness_WaitResult :
    Meets (lone 0) [.wait 0 0 0 0, .wait 7 7 7 7] (fun e => !e.warp.cannotClose &&
      (((((lone 0).pop.closeBatch e.g (warpOf e.tid)).retireOps e.g).envAt e.g e.tid e.op).map fun e' =>
        e'.warp.lq.length == 0 && e'.warp.mq.length == 0 && !e'.gr.owes e.tid ⟨0, 0, 0, 0⟩) == some true) ∧
    (let s := { loneW (fun w => { w with lq := [5] }) with accs := [anAccess] }
     Meets s [.wait 7 7 7 0] (fun e => !e.warp.cannotClose &&
       ((((s.pop.closeBatch e.g (warpOf e.tid)).retireOps e.g).envAt e.g e.tid e.op).map fun e' => e'.warp.lq.length == 1)
         == some true)) ∧
    Meets (lone 0) [.mwait 0 0 0, .mwait 0 1 1] (fun e => e.t.monitor = none) ∧
    Meets (loneT fun t => { t with monitor := some ⟨0, 0, some 4, 0⟩ }) [.mwait 0 0 0]
      (fun e => e.t.monitor.bind Monitor.code = some 4) ∧
    Meets (loneT fun t => { t with monitor := some ⟨0, 0, none, 0⟩ }) [.mwait 0 1 1, .mwait 0 0 0]
      (fun e => e.t.monitor.map Monitor.code = some none && e.t.getX 1 == 0) ∧
    Meets (loneT fun t => { t with monitor := some ⟨0, 0, none, 0⟩, x := [(1, 0xFFFFFFFF)] }) [.mwait 0 1 1]
      (fun e => e.t.monitor.map Monitor.code = some none && e.t.getX 1 != 0) :=
  ⟨met (by decide +kernel), met (by decide +kernel), met (by decide +kernel), met (by decide +kernel), met (by decide +kernel),
    met (by decide +kernel)⟩

/-- An arrival that leaves members unarrived, as the last, from a warp that is no member; one that is pending; the members of an
idle barrier and of one that is not. -/
theorem witness_BarrierResult :
    (let here := fun (s : State) (e : Env) => (e.gr.bar 15).wmask.getLsbD (warpOf e.tid) && !(e.gr.bar 15).pend.contains e.tid &&
        !s.pop.pending e.g e.tid
     let joined := fun (e : Env) => { e.gr.bar 15 with pend := (e.gr.bar 15).pend ++ [e.tid] }
     Meets pair [.bar 0 15 0, .bar 2 15 0] (fun e => here pair e && !e.gr.allArrived (joined e)) ∧
     Meets (lone 0) [.bar 0 15 0, .bar 2 15 0] (fun e => here (lone 0) e && e.gr.allArrived (joined e))) ∧
    (let s := pair fun g => g.setBar 15 ⟨1, [0]⟩
     Meets s [.bar 0 15 0, .bar 2 15 0] (fun e => (e.gr.bar 15).wmask.getLsbD (warpOf e.tid) && (e.gr.bar 15).pend.contains e.tid &&
       !s.pop.pending e.g e.tid)) ∧
    Meets (loneG fun g => g.setBar 0 ⟨2, []⟩) [.bar 0 0 0, .bar 2 0 0] (fun e => !(e.gr.bar 0).wmask.getLsbD (warpOf e.tid)) ∧
    Meets (lone 0) [.bar 1 0 0, .bar 3 15 0, .bar 3 0 23] ∧
    Meets (lone 0 [(1, 1)]) [.barcfg 0 1, .barcfg 15 1] (fun e => (e.t.getX 1).toNat ≠ 0 &&
      (e.t.getX 1).toNat &&& e.gr.allWarps.toNat == (e.t.getX 1).toNat && (e.gr.bar 15).pend == []) ∧
    Meets (pair fun g => (g.setBar 0 ⟨1, [1]⟩).modThread 0 fun t => { t with x := [(1, 1)] }) [.barcfg 0 1]
      (fun e => (e.t.getX 1).toNat ≠ 0 && (e.t.getX 1).toNat &&& e.gr.allWarps.toNat == (e.t.getX 1).toNat &&
        (e.gr.bar 0).pend != []) :=
  ⟨⟨met (by decide +kernel), met (by decide +kernel)⟩, met (by decide +kernel), met (by decide +kernel), met (by decide +kernel), met (by decide +kernel),
    met (by decide +kernel)⟩

theorem witness_GroupMarkExit :
    Meets (lone 0) [.haltg 0, .haltg 1] (fun e => e.t.handler = none) ∧
    Meets (loneT fun t => { t with handler := trapped false 0 }) [.haltg 0, .haltg 1]
      (fun e => e.t.handler.isSome && e.gr.holder == none) ∧
    Meets (lone 0) [.yield, .trk 0 0xFFF, .trk 63 0] ∧
    Meets (lone 0) [.acmark 0xFFFF] (fun e => e.keyIssue ∉ ((lone 0).core e.gr.core).marks) ∧
    (let s := (lone 0).setCore 0 { Core.reset with marks := ((lone 0).issuer.map Env.keyIssue).toList }
     Meets s [.acmark 0] (fun e => e.keyIssue ∈ (s.core e.gr.core).marks)) ∧
    Meets pair [.exit 31] (fun e => e.t.tid == e.tid && e.gr.barriers == [] && e.gr.cvs == [] && e.t.handler == none &&
      !(e.gr.others e.tid).isEmpty && !e.t.stepping) :=
  ⟨met (by decide +kernel), met (by decide +kernel), met (by decide +kernel), met (by decide +kernel), met (by decide +kernel),
    met (by decide +kernel)⟩

/-- An access of `n` bytes at `va` translates. -/
def maps (s : State) (e : Env) (va n : Nat) (needs : Needs) (marked : Bool) : Bool :=
  match (s.pop.mapAccess e.gr.ctx e.gr.core va n needs marked).2 with
  | .ok _ _ _ _ => true
  | _ => false

/-- Global accesses at the last aligned place of the mapped memory, scratch accesses at the end of scratch and beyond it,
misaligned ones; the counters at 62. -/
theorem witness_AccessWords :
    (let s := (lone 0 [(2, 0x7FFFFFF0)]).modGroup 0 fun g => g.modWarp 0 fun w =>
        { w with lq := List.range 62, sq := List.range 62 }
     Meets s [.ldG 4 2 4 0 31, .ldG 4 2 6 0 31, .ldG 4 2 1 0 31, .stG 4 2 4 0 31, .stG 4 2 6 0 31, .ldaCore 4 2 4 0 31,
       .ldaDev 4 2 5 0 31, .ldaSys 4 2 4 0 31, .stlCore 4 2 4 0 31, .stlDev 4 2 5 0 31, .stlSys 4 2 4 0 31, .atomCore 4 2 6 0 0,
       .atomDev 4 2 6 3 1, .atomSys 4 2 6 1 14, .redaDev 2 6 2 0, .redaSys 2 6 0 1]
       (fun e => (e.t.getX2 2).toNat % 16 == 0 && !fullFor e.warp.lq e.op && !fullFor e.warp.sq e.op &&
         maps s e (e.t.getX2 2).toNat 16 needsBoth true && maps s e (e.t.getX2 2).toNat 16 needsRead false &&
         maps s e (e.t.getX2 2).toNat 16 needsWrite false)) ∧
    Meets (lone 0 [(2, 256 * 2048 - 16)]) [.ldS 4 2 6 31, .stS 4 2 6 31, .ldS 4 2 4 31, .stS 4 2 0 31]
      (fun e => (e.t.getX 2).toNat % 16 == 0 && (e.t.getX 2).toNat + 16 ≤ 256 * e.k.scru && e.gr.windowAt (e.t.getX 2).toNat == none) ∧
    Meets (lone 0 [(2, 0xEFFFFF0)]) [.ldD 4 2 6 31, .stD 4 2 6 31]
      (fun e => (e.t.getX2 2).toNat % 16 == 0 && (e.t.getX2 2).toNat + 16 ≤ 4096 * e.k.deepu) ∧
    Meets (lone 0 [(2, 256 * 2048)]) [.ldS 4 2 0 31, .stS 4 2 0 31] (fun e => 256 * e.k.scru < (e.t.getX 2).toNat + 1) ∧
    Meets (lone 0 [(2, 0xF000000)]) [.ldD 4 2 0 31, .stD 4 2 0 31] (fun e => 4096 * e.k.deepu < (e.t.getX2 2).toNat + 1) ∧
    Meets (lone 0 [(2, 3)]) [.ldG 4 2 4 0 31, .stG 4 2 2 0 31, .ldD 4 2 5 31, .stD 4 2 6 31, .ldS 4 2 4 31, .stS 4 2 4 31,
      .ldaCore 4 2 4 0 31, .ldaDev 4 2 5 0 31, .ldaSys 4 2 4 0 31, .stlCore 4 2 4 0 31, .stlDev 4 2 5 0 31, .stlSys 4 2 4 0 31,
      .atomCore 4 2 6 0 0, .atomDev 4 2 6 3 1, .atomSys 4 2 6 1 14, .redaDev 2 6 2 0, .redaSys 2 6 0 1]
      (fun e => [2, 4, 8, 16].all fun n => (e.t.getX2 2).toNat % n != 0 && (e.t.getX 2).toNat % n != 0) :=
  ⟨met (by decide +kernel), met (by decide +kernel), met (by decide +kernel), met (by decide +kernel), met (by decide +kernel),
    met (by decide +kernel)⟩

/-- FENCE.ALIAS with a store of the thread to its page outstanding, and without. -/
theorem witness_FenceResult_alias :
    (let s := { lone 0 [(2, 0x1003)] with accs := [{ anAccess with kind := .store }] }
     Meets s [.fenceAlias 2] (fun e => match s.pop.mapAccess e.gr.ctx e.gr.core (e.t.getX2 2).toNat 1 needsRead false with
       | (s', .ok pas _ node _) => s'.accs.any fun x => x.grp == e.g && x.tid == e.tid && x.level == .global && x.kind.writes &&
           x.node == node && x.pas.any fun p => p == pas.headD 0
       | _ => false)) ∧
    Meets (lone 0 [(2, 0x1003)]) [.fenceAlias 2] (fun e =>
      match (lone 0 [(2, 0x1003)]).pop.mapAccess e.gr.ctx e.gr.core (e.t.getX2 2).toNat 1 needsRead false with
       | (s', .ok _ _ _ _) => s'.accs == []
       | _ => false) := ⟨met (by decide +kernel), met (by decide +kernel)⟩

theorem witness_FenceResult :
    (let s := { lone 0 with accs := [anAccess] }
     Meets s [.fence 0, .fence 2] (fun e => s.pop.pending e.g e.tid)) ∧
    Meets (lone 0) [.fence 0, .fence 1, .fence 2] (fun e => !(lone 0).pop.pending e.g e.tid) ∧
    Meets (lone 0 [(2, 0x7FFFFFFF)]) [.fenceAlias 2, .pref 2 0 31, .pref 2 1 31, .pref 2 2 31, .tlbp 4 2] (fun e =>
      !fullFor e.warp.lq e.op && maps (lone 0) e (e.t.getX2 2).toNat 1 needsRead false) ∧
    Meets (lone 0 [(2, 0x7FFFFFFF)]) [.marm 2 31] (fun e =>
      match (lone 0).pop.viewsOf e.gr.ctx with
      | (s0, vs) => vs == [] && match (s0.mapAccess e.gr.ctx e.gr.core (e.t.getX2 2).toNat 1 needsRead false).2 with
        | .ok [p] _ _ _ => p == 0x7FFFFFFF && !e.t.stepping
        | _ => false) :=
  ⟨met (by decide +kernel), met (by decide +kernel), met (by decide +kernel), met (by decide +kernel)⟩

/-- The last 4 KiB of scratch. -/
theorem witness_WindowResult : Meets (lone 0 [(1, 0x7F000), (2, 0x10000), (4, 0x1000)]) [.maps 1 2 4, .flushs 1 4, .invs 1 4]
    (fun e =>
      let s := lone 0
      let o := (e.t.getX 1).toNat
      let va := (e.t.getX2 2).toNat
      let len := (e.t.getX 4).toNat
      o % 4096 == 0 && len % 4096 == 0 && va % 4096 == 0 && 0 < len && o + len == 256 * e.k.scru && canonicalVa va &&
        canonicalVa (va + len - 1) && !s.pop.windowBusy e && e.gr.windows == [] && s.accs == [] && !fullFor e.warp.sq e.op) :=
  met (by decide +kernel)

/-- `lone` with one access in flight. -/
def flying (a : Access) : State := { lone 0 with accs := [a] }
/-- What the statements about performed accesses ask of one. -/
def flies (a : Access) : Bool :=
  let s := flying a
  (s.accs.find? fun b => b.id == a.id) == some a && s.mayPerform a && (s.group? a.grp).isSome && a.node == 0 && a.req == none &&
    a.paged == none && s.accessHere a && s.time + 2 < a.expiry && s.mirage.st == .idle && s.samples == [] && a.pas.length == a.size &&
    decide a.pas.Nodup && a.pas.all (· < 2 ^ 40) && s.damageAt a.pas == 0 &&
    ((s.thread? a.grp a.tid).map Thread.live) == some true

/-- A store of the memory's last 16 bytes; a byte of scratch and of deep scratch. -/
theorem witness_StorePerformed : ∀ a ∈ [{ anAccess with kind := .store, pas := span (2 ^ 40 - 16) 16, size := 16 },
    { anAccess with kind := .store, level := .scratch, pas := span 0x7FFFF 1, size := 1 },
    { anAccess with kind := .load, level := .deep, pas := span 0 1, size := 1 }], flies a = true := by decide +kernel
/-- `lone` with no scratch, so that its L1 has room. -/
def roomy : State := (lone 0).modKernel (2 ^ 32 + 1) fun k => { k with scru := 0 }
/-- Loads of each level, one of a sector that the L1 holds; a fill of the L1, read up to the sector's last byte; every size. -/
theorem witness_LoadPerformed : (flies anAccess && anAccess.acquire && anAccess.scope != .core) = true ∧
    (let a := { anAccess with acquire := false }
     let s := (flying a).setCore 0
       { Core.reset with l1 := [⟨1, 0x40, (span 0x1000 64).map fun v => (v, 0xA5), span 0x1000 64, 100, []⟩] }
     (flies a && (s.accs == [a]) && s.mayPerform a && s.accessHere a && s.time + 2 < a.expiry) = true ∧
       s.readL1 a.core a.ctx a.va.toNat a.size (a.grp, a.tid) = some [0xA5, 0xA5, 0xA5, 0xA5]) ∧
    (∀ a ∈ [{ anAccess with level := .scratch, pas := span 0x7FFFF 1, size := 1 }, { anAccess with level := .deep, pas := span 0 4 }],
      flies a = true) ∧
    (match (roomy.dropL1 0 fun l => l.ctx == 1 && l.line == 0x1000 / 64).mapAccess 1 0 (0x1000 / 64 * 64) 64 needsRead false with
     | (t, .ok pas _ 0 expiry) => pas.length == 64 && decide (roomy.time + 2 < expiry) && decide (0 < t.l1Room 0) && 0x1038 % 64 + 8 == 64
     | _ => false) = true ∧
    ∀ n ∈ [1, 2, 4, 8, 16], ({ anAccess with size := n, dst := 63 }).dst = (63 : BitVec 6).toNat := by decide +kernel
theorem witness_AtomicPerformed : ∀ o ∈ [(0 : BitVec 4), 11, 12, 13, 14],
    flies { anAccess with kind := .atom o, pas := span 0x1000 (atomBytes o), size := atomBytes o } = true := by decide +kernel

/-- A store performed leaves its bytes, the lowest first (R9, R208). -/
theorem test_store : (match exec (.accessPerformed 7 0) (flying { anAccess with kind := .store }) with
    | .next t => [t.byte 0x1000, t.byte 0x1003, t.byte 0x1004]
    | _ => []) = [0x44, 0x11, 0] := by decide +kernel

/-- A word that fails a check, with a guard that is false; one that passes them, with a guard that is false. -/
theorem witness_IssueChecks : encode (.add 3 4 5 24) ≠ [] ∧ encode (.movx 62 0 0) ≠ [] ∧ (lone 0).issuer.isSome ∧
    ((lone 0).issuer.map fun e => ((checkWord (.add 3 4 5 24) e.k).isSome, checkWord (.add 3 4 5 0) e.k, e.t.guard (guardOf (.add 3 4 5 0))))
      = some (true, none, false) := by decide +kernel

/-- The thread, group and kernel that a fault finds. -/
def finds (s : State) (p : Group → Kernel → Thread → Bool) : Bool :=
  match s.group? 0, s.thread? 0 0 with
  | some gr, some t => ((s.kernel? gr.kern).map fun k => p gr k t).getD false
  | _, _ => false

/-- A vector whose word is a header; a record with every field at its largest value. -/
theorem witness_TrapEntry : (finds (lone 0) fun gr k t => t.handler == none && k.trapv != 0 && !t.stepping &&
      match ((lone 0).fetch gr k.trapv).2 with
      | .ok w => w / 2 ^ 24 == 0xC7
      | _ => false) = true ∧
    (let r : FaultRec := ⟨true, true, 63, 0xFF, 0xFF, 2 ^ 64 - 1, 0xFFFFFFFFFFFFFFFF, 0xFFFFFFFFFFFFFFFF, 2 ^ 32 - 1, 2 ^ 32 - 1, 2 ^ 32 - 1,
       2 ^ 16 - 1, 2 ^ 16 - 1, 0⟩
     r.die < 2 ^ 6 ∧ r.kern < 2 ^ 32 ∧ r.grp < 2 ^ 32 ∧ r.tid < 2 ^ 16 ∧ r.core < 2 ^ 16 ∧ r.detail < 2 ^ 32) := by decide +kernel

/-- A record posted to a full queue is held. -/
theorem held_when_full (s : State) (id : Nat) (c : Ctx) (r : FaultRec) (h : s.ctx? id = some c) (hf : s.fqFull c = true)
    (hr : r.code ≠ 0x42) : (s.post id r).holdsRecord id r = true := by
  have h' : Tbl.find? s.ctxs id = some c := h
  rw [State.post, if_neg hr, State.enter, h]
  simp [hf, State.holdsRecord, State.ctx?, State.modCtx, Tbl.find?_modify, h']

/-- A fault in a handler, and one with no vector, of a kernel that runs; its record is held with a full queue, and only then. -/
theorem witness_FaultEndsGroup :
    (finds (loneT fun t => { t with handler := trapped false 0 }) fun gr k t => t.handler.isSome && k.st == .running && gr.ending == none)
      = true ∧
    (finds ((lone 0).modKernel (2 ^ 32 + 1) fun k => { k with trapv := 0 }) fun gr k t => k.trapv == 0 && k.st == .running &&
      gr.ending == none && t.handler == none) = true ∧
    (let s := (lone 0).modCtx 1 fun c => { c with fqwr := 16 }
     finds s (fun gr _ _ => (s.ctx? gr.ctx).map (fun c => s.fqFull c) == some true) = true) ∧
    (finds (lone 0) fun gr k _ =>
      let r := groupRec (lone 0) gr k 0x07 1 true false 0 0 0 0 (item 1 gr.lin)
      !((lone 0).post gr.ctx r).holdsRecord gr.ctx r) = true := by decide +kernel

theorem witness_RetireFrame : ((lone 0).issuer.map fun e => e.t.stepping) = some false := by decide +kernel

theorem witness_ThreadWordFrame : Meets (lone 0 [(2, 1)]) [.nop, .divS32 3 1 2 31, .addc 3 1 2 23, .cmpS32 0 1 2 0, .cvtw 0 1 3]
    (fun _ => actsOnThread .nop && actsOnThread (.divS32 3 1 2 31) && actsOnThread (.cvtw 0 1 3)) := met (by decide +kernel)

/-- What a selected thread finds at its position: a word, and for MOVX the 32 bits that follow. -/
def selected (s : State) (p : Env → Bool) : Bool :=
  match s.issuing, s.issuer with
  | h :: _, some e => !s.oasisLost && e.t.run == .runnable && e.t.pos.pc.toNat == h.key && e.gr.st == .running && e.t.rep == none && p e
  | _, _ => false
def fetched (s : State) (e : Env) (pc : W64) : State × Nat :=
  match s.fetch e.gr pc with
  | (s, .ok w) => (s, w)
  | (s, _) => (s, 0xFF000000)

/-- `lone w` whose next word stands on a page that it may not fetch from. -/
def cutOff (w : Nat) : State := (lone w).setBytes (loadTables + 0x2008) (leBytes 8 (2 ^ 30 + 0x1E))

/-- A word; an extended one; an ADD and a division by zero that lead to a page that may not be fetched from; an event that is due
and one from outside. -/
theorem witness_StepRunsDecoded :
    (selected (lone 0x080C109F) fun e => match fetched (lone 0x080C109F) e e.t.pos.pc with
      | (s, _) => (s.leadsOn e (.add 3 1 2 31)).2.isNone) = true ∧
    (∀ w ∈ [(0x080C109F, true), (0x160C109F, false)], (selected (cutOff w.1) fun e => match fetched (cutOff w.1) e e.t.pos.pc with
      | (s, x) => match (decodeWords [x]).toOption with
        | some i => classSub e.t.pos.hdr x == none && x / 2 ^ 24 != 4 && (s.leadsOn e i).2.isSome &&
          match exec i s with
          | .next t => e.wentOn t == w.2
          | _ => false
        | none => false) = true) ∧
    (selected (lone 0x080C109F) fun e => match fetched (lone 0x080C109F) e e.t.pos.pc with
      | (_, w) => w / 2 ^ 24 != 4 && classSub e.t.pos.hdr w == none && (decodeWords [w]).toOption == some (.add 3 1 2 31)) = true ∧
    (selected (lone 0x040BFFFF) fun e => match fetched (lone 0x040BFFFF) e e.t.pos.pc with
      | (s, w) => w / 2 ^ 24 == 4 && classSub e.t.pos.hdr w == none && 1 < e.t.pos.left &&
        match fetched s e (e.t.pos.pc + 4) with
        | (_, x) => (decodeWords [w, x]).toOption == some (.movx 2 0x3FFFF 0xC707FFD1)) = true ∧
    State.reset.oasisLost = false ∧ State.reset.issuing = [] ∧ ({ State.reset with due := [.tokenCharge] }).due = .tokenCharge :: [] ∧
    ({ State.reset with agenda := [(0, .oasisLoss)] }).agenda = (0, .oasisLoss) :: [] := by decide +kernel

theorem witness_DecodeEncode : encode (.xshf 63 62 63) ≠ [] ∧ encode (.movx 62 0x3FFFF 0xFFFFFFFF) ≠ [] := by decide +kernel
theorem witness_EncodeDecode : (decodeWords [(0x040BFFFF : W32).toNat, (0x89ABCDEF : W32).toNat]).toOption = some (.movx 2 0x3FFFF 0x89ABCDEF) := by
  decide +kernel
theorem witness_StepKeepsInv : Memory.wf (lone 0).mem = true ∧ (match step (lone 0) with | .next _ => true | _ => false) = true := by
  decide +kernel

/-! Signatures, tile and engine words -/

/-- A convergence register and the group's threads, one or two, with thread 0 at its word. -/
def signing (cv : Cv) (two : Bool) : State := (if two then pair else lone 0).modGroup 0 fun g => g.setCv 7 cv
def cvReady (l : List Nat) : Cv := ⟨.ready, false, l, [], 0, none, []⟩
def cvGathers (signed : List Nat) (pc : W64) : Cv := ⟨.gathering, false, [0, 1], signed, pc, some .nop, []⟩
def herePc : W64 := BitVec.ofNat 64 loadPc

/-- The other member of register 7 signs, or exits, later in the cycle. -/
def signsLater (exits : Bool) : State :=
  let s := signing (cvReady [0, 1]) true
  { s with issuing := s.issuing ++ [⟨0, 1, 0, loadPc, exits, if exits then none else some 7⟩] }

theorem witness_SignatureResult :
    Meets (lone 0 [(0, 1)]) [.cvdecl 7 1 0, .cvdecl 0 0 0] (fun e => (e.gr.cv 7).st != .gathering && (e.t.getX2 0).getLsbD 0) ∧
    Meets (lone 0) [.cvdecl 0 0 2] (fun e => (e.t.getX2 2).toNat == 0) ∧
    Meets (signing (cvGathers [1] 0) true) [.cvdecl 7 1 0] (fun e => (e.gr.cv 7).st == .gathering && e.gr.live != []) ∧
    Meets (signing (cvReady [0, 1]) true) [.tzero 0 7, .enq 0 2 7, .evt 0 7 0x21, .copy 0 7] (fun e => (e.gr.cv 7).signed == [] &&
      (e.gr.cv 7).members.contains e.tid && (e.gr.cv 7).members.any fun t => t != e.tid && !(e.gr.cv 7).signed.contains t) ∧
    (let cv : Cv := ⟨.gathering, true, [0, 1, 2], [1], herePc, some (.tzero 0 7), []⟩
     Meets (signing cv true) [.tzero 0 7, .evt 0 7 0x21] (fun e => !(e.gr.cv 7).signed.contains e.tid && (e.gr.cv 7).pc == e.t.pos.pc)) ∧
    Meets (lone 0) [.tzero 0 7, .commit 0] (fun e => (e.gr.cv 7).st == .unset && (e.gr.cv 0).st == .unset) ∧
    Meets (signing (cvReady [1]) true) [.tzero 0 7] (fun e => (e.gr.cv 7).st != .unset && !(e.gr.cv 7).members.contains e.tid) ∧
    Meets (signing (cvGathers [0] herePc) true) [.tzero 0 7] (fun e => (e.gr.cv 7).signed.contains e.tid) ∧
    Meets (signing (cvGathers [1] 0) true) [.tzero 0 7]
      (fun e => !(e.gr.cv 7).signed.contains e.tid && (e.gr.cv 7).pc != e.t.pos.pc) ∧
    (∀ x : Bool, Meets (signsLater x) [.tzero 0 7, .copy 0 7] fun e => (e.gr.cv 7).members.contains e.tid &&
      (e.gr.cv 7).members.any (fun t => t != e.tid && !(e.gr.cv 7).signed.contains t) &&
      (signsLater x).pop.issuing.any fun i => i.grp == e.g && (e.gr.cv 7).members.contains i.tid && (i.cv == some 7 || i.exits)) ∧
    (signing (cvReady [0, 1]) true).pop.issuing = [] ∧ (holdsSigners (.enq 0 2 7) && !holdsSigners (.tzero 0 7)) = true :=
  ⟨met (by decide +kernel), met (by decide +kernel), met (by decide +kernel), met (by decide +kernel), met (by decide +kernel),
    met (by decide +kernel), met (by decide +kernel), met (by decide +kernel), met (by decide +kernel),
    fun x => met (by cases x <;> decide +kernel), by decide +kernel, by decide +kernel⟩

/-- Word `i` signs register 7 last in `s`, and its lowest member meets `ok`. -/
def signs (s : State) (i : Instr) (ok : Env → Bool) : Bool :=
  issuesIf s i fun e =>
    let cv := e.gr.cv 7
    cv.st != .unset && cv.members.contains e.tid && (cv.st != .gathering || !cv.signed.contains e.tid && cv.pc == e.t.pos.pc) &&
      cv.members.all (fun t => t == e.tid || cv.signed.contains t) && s.accs == [] &&
      ((s.pop.free.2.envAt e.g cv.lowest s.fresh).map ok).getD false

/-- A control register: format, tag, rows, columns. -/
def tcOf (code tag rows cols : Nat) : W32 := BitVec.ofNat 32 (code + 16 * (rows - 1) + 2048 * (cols - 1) + 2 ^ 20 * tag)
/-- A thread that may sign register 7 alone, or last of two, and its group's control registers: those below 8 hold `v`, the
others `u`. -/
def tiled (v u : W32) (x : Tbl W32) (cv : Cv := cvReady [0]) : State :=
  (pair fun g => (g.setCv 7 cv).modThread 0 fun t => { t with x := x }).modGroup 0 fun g =>
    { g with tcs := (List.range 16).foldl (fun m t => m.setWord t (if t < 8 then v else u)) g.tcs }
/-- Room in the queue and in M. -/
def room (s : State) (m : Env) : Bool := (s.core m.gr.core).tileq.length < 8 && m.warp.mq.length < 63

theorem witness_TileWordIssues :
    (let s := tiled (tcOf 0 0 128 64) 0 [(2, 0x10000), (4, 0xFFFFFF00)] (cvGathers [1] herePc)
     ∀ i ∈ [Instr.tld 0 2 4 7, .tst 7 2 4 7, .tzero 0 7, .tchk 63 7 7, .aclr 31 7, .amov 31 0 0 7, .amov 0 7 1 7, .ast 31 2 4 7,
        .ald 0 2 4 7, .scacc 31 30 6 7],
      signs s i (fun m => room s m && (m.t.getX2 2).toNat % 4 == 0 && ((m.t.getX 4).signExtend 64).toNat % 4 == 0 && (m.t.getX 6) == 0)
        = true) ∧
    tcUsable (tcOf 0 0 128 64) ∧ tcUsable (tcOf 1 0 32 128) ∧ bareNarrow (tcOf 0 0 128 64) = false ∧
    (let s := tiled (tcOf 3 0x10 1 64) (tcOf 0 0 1 64) [(1, 0x7F000)]
     signs s (.qnt 0 8 3 1 7) (fun m => room s m && qntTarget (m.gr.tcs.word 0) && (m.t.getX 1).toNat % 128 == 0 &&
       (m.t.getX 1).toNat + qntArea 64 ≤ 256 * m.k.scru) = true ∧
     signs s (.tcvt 0 8 7) (room s) = true ∧ signs s (.tcvt 8 0 7) (room s) = true ∧ signs s (.tcvt 8 9 7) (room s) = true) ∧
    tcUsable (tcOf 3 0x10 1 64) ∧ tcUsable (tcOf 0 0 1 64) ∧ tcUsable (tcOf 0 0 1 1) ∧ tcUsable (tcOf 3 0x1F 128 256) :=
  ⟨by decide +kernel, by unfold tcUsable; decide +kernel, by unfold tcUsable; decide +kernel, by decide +kernel, by decide +kernel,
    by unfold tcUsable; decide +kernel, by unfold tcUsable; decide +kernel, by unfold tcUsable; decide +kernel,
    by unfold tcUsable; decide +kernel⟩

/-- An MMA of each format, of four pairs of tiles or one, over the whole of a chunk. -/
theorem witness_TileWordIssues_mma : ∀ x ∈ [(1, Instr.mmaBf16 0 0 4 7 0 1), (2, .mmaF16 31 0 4 7 1 1), (3, .mmaE4m3 0 0 4 7 2 1),
    (4, .mmaE5m2 0 0 4 7 3 1), (5, .mmaE2m3 0 0 4 7 0 1), (6, .mmaE3m2 0 0 4 7 1 1), (7, .mmaE2m1 0 0 4 7 2 1),
    (8, .mmaDl8 0 0 4 7 3 1), (9, .mmaS8 0 0 4 7 0 1), (10, .mmaS4 0 0 4 7 1 1)],
    let v := tcOf x.1 (if x.1 < 3 then 0 else 0x10) 128 (chunk x.1)
    let s := tiled v 0 [(1, BitVec.ofNat 32 (chunk x.1 * 2 ^ 16))]
    signs s x.2 (fun m => room s m && (m.gr.tcs.word 0 == v) && (m.gr.tcs.word 7 == v) && (m.t.getX 1).toNat % 2 ^ 16 == 0 &&
      (m.t.getX 1).toNat / 2 ^ 16 == chunk x.1) = true ∧ tagReserved (tcTag v) = false ∧ tcFormed v = true ∧ tcCode v = x.1 ∧
      tcRows v = 128 ∧ tcCols v = chunk x.1 ∧ chunk x.1 % 8 = 0 := by decide +kernel

/-- The block of an engine command in scratch at offset `64 n`, from its first five words. -/
def block (n : Nat) (src dst shape strides spaces : Nat) (m : Store Byte) : Store Byte :=
  m.setBytes (64 * n) ([src, dst, shape, strides, spaces, 0, 0, 0].flatMap (leBytes 8))
/-- The thread with a command's block at the end of scratch, its offset in X[0], a list's in X[4]. -/
def armed (src dst shape spaces : Nat) : State := (tiled 0 0 [(0, 0x7FFC0), (4, 0x7FF00)]).modGroup 0 fun g =>
  { g with scratch := block 8191 src dst shape 0 spaces g.scratch }
/-- What a command's block at X[0] has to meet. -/
def blockOk (s : State) (kind : CmdKind) (m : Env) : Bool :=
  let off := (m.t.getX 0).toNat
  let list := if kind == .gather || kind == .scatter then (m.t.getX 4).toNat else 0
  off % 64 == 0 && off + 64 == 256 * m.k.scru && list < 256 * m.k.scru && !s.lastStalls m &&
    (blockCheck ((List.range 8).map fun i => BitVec.ofNat 64 (m.gr.scratch.readN (off + 8 * i) 8)) kind false m.gr.scratch m.gr.windows
      (256 * m.k.scru) list).isNone

/-- COPY, GATHER and SCATTER from an address to scratch, COPY.R from node 1, CHAIN with no slot, ATOM.R to node 1. -/
theorem witness_EngineWordIssues : (∀ x ∈ [(Instr.copy 0 7, CmdKind.copy, 0, 0x1000, 3, 0x10), (.copyR 0 7, .copyR, 2 ^ 55, 0x1000, 3, 0x13),
    (.chain 0 7, .chain, 0, 0x1000, 3, 0x810), (.gather 0 4 7, .gather, 0, 0x1000, 3, 0x10), (.scatter 0 4 7, .scatter, 0, 0x1000, 3, 0x10),
    (.atomR 0 7, .atomR, 0x2000, 2 ^ 55, 0, 0x31)],
    let s := armed x.2.2.1 x.2.2.2.1 x.2.2.2.2.1 x.2.2.2.2.2
    signs s x.1 (blockOk s x.2.1) = true) ∧ signs (tiled 0 0 []) (.commit 7) (fun m => !m.warp.cannotClose) = true := by decide +kernel

/-- A packet's image at scratch offset 0x40, whose first word is `p`, and a tail link at `tl`, which holds `tail`; a third page of
1 GiB, mapped to itself. -/
def enqAt (tl p tail : Nat) : State :=
  ((((tiled 0 0 [(0, 0x40), (2, BitVec.ofNat 32 tl), (4, 0x10000)]).setBytes (loadTables + 0x2010) (leBytes 8 (2 ^ 31 + 0x5E))).setBytes tl
    (leBytes 8 tail)).modGroup 0 fun g => { g with scratch := block 1 p 0 0 0 0 g.scratch })
def queued (tail : Nat) : State := enqAt 0x40000000 0x10000 tail
/-- The second page of 1 GiB in the memory of node 1, which port 0 leads to. -/
def peering (s : State) : State :=
  let s := s.setBytes (loadTables + 0x2008) (leBytes 8 (2 ^ 30 + 0xDE))
  { s with mgmt := { s.mgmt with route := [(1, 1)] }, links := [(0, { Link.reset with st := .up })] }
def peerQueued : State := peering (queued 0)
/-- Both translations of an ENQ succeed; `q` of the tail link's node, the word there, and the state. -/
def enqMaps (s : State) (m : Env) (q : Nat → Nat → State → Bool) (tl : Nat := 0x40000000) (p : Nat := 0x10000) : Bool :=
  match s.pop.free.2.mapAccess m.gr.ctx m.gr.core p 64 needsWrite false with
  | (s1, .ok ppas pvas pn _) =>
    let image := m.gr.scratch.bytes 0x40 64
    let w := s1.enqWrite m 1 (BitVec.ofNat 64 p) ppas pvas (List.replicate 8 0 ++ (image.drop 8).take 10 ++ List.replicate 6 0 ++ image.drop 24)
    match w.mapAccess m.gr.ctx m.gr.core tl 8 needsBoth false with
    | (s2, .ok tpas _ tn _) => pn == 0 && s2.damageAt tpas == 0 && q tn (leNat (tpas.map s2.byte)) s2
    | _ => false
  | _ => false
/-- Port 0 alone leads to node 1, and has room. -/
def onePort (s : State) : Bool := s.free.2.usablePorts 1 == 1 && s.usablePorts 1 == 1 && !s.portFull 0

/-- Which of a node's usable ports takes a request is open (log 9); with one there is no choice. -/
theorem goes_by_one_port {s : State} {node : Nat} (pa : Nat) (h : s.usablePorts node = 1) : s.portFor node pa = some 0 := by
  have hl : (List.range 32).filter (fun p => bit 1 p) = [0] := by decide
  simp only [State.portFor, h, hl, List.length_singleton, Nat.mod_one]
  rfl
theorem sends_by_one_port {s : State} {node : Nat} (whose : ReqFor) (pa n : Nat) (d : Option Nat) (o : Option (BitVec 4)) (v : Option Via)
    (h : s.usablePorts node = 1) (hn : isHostNode node = false) : ∃ t r, s.sendReq whose node pa n d o v = (t, some r) := by
  have hp : s.free.2.portFor node pa = some 0 := goes_by_one_port pa h
  unfold State.sendReq
  simp only [hn, hp, Bool.false_eq_true, if_false]
  exact ⟨_, _, rfl⟩
theorem room_on_one_port {s : State} {node : Nat} (pa : Nat) (h : s.usablePorts node = 1) (hr : s.portFull 0 = false) :
    s.portBlocked node pa = false := by
  unfold State.portBlocked
  rw [goes_by_one_port pa h]
  simp [hr]

/-- The image, the tail link and the link of the packet that was last, in the package's own memory and in a peer's. -/
theorem witness_EnqEvtResult :
    signs (queued 0) (.enq 2 0 7) (fun m => leNat (m.gr.scratch.bytes 0x40 8) == 0x10000 && (m.t.getX 0).toNat == 0x40 &&
      enqMaps (queued 0) m fun tn old _ => tn == 0 && old == 0) = true ∧
    (let s := peering (enqAt 0x10000 0x40000040 0)
     signs s (.enq 2 0 7) (fun m => leNat (m.gr.scratch.bytes 0x40 8) == 0x40000040 &&
      match s.pop.free.2.mapAccess m.gr.ctx m.gr.core 0x40000040 64 needsWrite false with
      | (s1, .ok _ _ pn _) => pn == 1 && !isHostNode pn && onePort s1 && onePort (s1.setSwap m.g m.tid none).free.2
      | _ => false) = true) ∧
    signs peerQueued (.enq 2 0 7) (fun m => enqMaps peerQueued m fun tn _ w => tn == 1 && !isHostNode tn && onePort w &&
      onePort (w.setSwap m.g m.tid none).free.2) = true ∧
    signs (queued (2 ^ 31 + 8)) (.enq 2 0 7) (fun m => enqMaps (queued (2 ^ 31 + 8)) m fun tn old w => tn == 0 && old == 2 ^ 31 + 8 &&
      match w.mapAccess m.gr.ctx m.gr.core old 8 needsWrite false with
      | (_, .ok _ _ on _) => on == 0
      | _ => false) = true ∧
    (let s := peering (enqAt 0x80100000 0x10000 0x40000040)
     signs s (.enq 2 0 7) (fun m => enqMaps s m (tl := 0x80100000) fun tn old w => tn == 0 && old == 0x40000040 &&
      match w.mapAccess m.gr.ctx m.gr.core old 8 needsWrite false with
      | (s3, .ok opas _ on _) => on == 1 && !isHostNode on && onePort s3 && opas.length == 8 &&
        onePort ((((s3.enqWrite m 2 0x80100000 (span 0x80100000 8) (span 0x80100000 8) (leBytes 8 0x10000)).setSwap m.g m.tid none).setSwap
          m.g m.tid none).free.2)
      | _ => false) = true) ∧
    signs (queued 0) (.evt 0 7 0x21) (fun _ => true) = true ∧
    signs (queued 0) (.evt 4 7 0x20) (fun m => (m.t.getX2 4).toNat % 64 == 0 &&
      match ((queued 0).pop.free.2.mapAccess m.gr.ctx m.gr.core (m.t.getX2 4 + 0x10).toNat 8 needsWrite false).2 with
      | .ok _ _ _ _ => true
      | _ => false) = true := by decide +kernel

theorem witness_TileControlResult :
    Meets (lone 0 [(1, tcOf 3 0x17 128 256)]) [.tcfg 15 1] (fun e => bareNarrow (e.t.getX 1) == false && tcFormed (e.t.getX 1) &&
      !tagReserved (tcTag (e.t.getX 1))) ∧
    Meets (lone 0 [(1, tcOf 3 0 1 1)]) [.tcfg 0 1] (fun e => bareNarrow (e.t.getX 1)) ∧
    Meets (lone 0 [(1, tcOf 0 15 1 1)]) [.tcfg 0 1] (fun e => !bareNarrow (e.t.getX 1) && tagReserved (tcTag (e.t.getX 1))) ∧
    Meets (lone 0 [(1, tcOf 0 0 128 65)]) [.tcfg 0 1]
      (fun e => !bareNarrow (e.t.getX 1) && !tagReserved (tcTag (e.t.getX 1)) && !tcFormed (e.t.getX 1)) ∧
    Meets (lone 0 [(3, 0x02080000)]) [.segn 0 1 3] (fun e => 512 < (e.t.getX 3).toNat / 2 ^ 16) ∧
    Meets (lone 0 [(3, 0x02000200)]) [.segn 0 1 3] (fun e => (e.t.getX 3).toNat % 2 ^ 16 == 512 && (e.t.getX 3).toNat / 2 ^ 16 == 512) ∧
    Meets (lone 0 [(3, 0x020001F8)]) [.segn 62 1 3] (fun e => (e.t.getX 3).toNat % 2 ^ 16 == 504 && (e.t.getX 3).toNat / 2 ^ 16 == 512) :=
  ⟨met (by decide +kernel), met (by decide +kernel), met (by decide +kernel), met (by decide +kernel), met (by decide +kernel),
    met (by decide +kernel), met (by decide +kernel)⟩

/-- An operation of the group's in its core's matrix queue, its control registers zero: one F32 element. -/
def inQueue (kind : TileKind) (tcs : Tbl W32 := []) : TileOp := ⟨9, 0, 0, 0, 0, kind, tcs, [], 1, none, false, [], none, 0⟩
def queueing (o : TileOp) (f : Group → Group := id) : State := (loneG f).setCore 0 { Core.reset with tileq := [o] }
/-- The operation is found, may be performed, and its group, which meets `p`, is there. -/
def performs (o : TileOp) (p : State → Group → Bool) (f : Group → Group := id) : Bool :=
  let s := queueing o f
  ((s.core 0).tileq.find? fun x => x.id == o.id) == some o && s.tileReady 0 o && !o.asked && ((s.group? o.grp).map (p s)).getD false

theorem witness_TileFrame : ∀ k ∈ [TileKind.tzero 15, .aclr 31, .tst 0 0x7FFFFFFC 0, .ast 0 0x7FFFFFFC 0],
    performs (inQueue k) (fun s gr => match s.performTile (inQueue k) gr 0 0 with
      | (_, .done) => true
      | _ => false) = true := by decide +kernel

/-- The first 16 F32 elements of row 0 of tile 8 are zero. -/
def zeroed (g : Group) : Group := g.setTile 8 ((g.tile 8).setBytes 0 (List.replicate 64 0))

theorem witness_TileResult : (∀ k ∈ [TileKind.tzero 0, .tzero 15, .aclr 31, .scacc 31 0 (List.replicate 128 255) (List.replicate 128 0),
      .tchk 63 0 [0]], performs (inQueue k) (fun _ _ => true) = true) ∧
    performs (inQueue (.tld 0 0x7FFFFFFC 0)) (fun s gr =>
      match s.placeElems gr.ctx gr.core needsRead (rawSize 0) .done (tileElems 0 0x7FFFFFFC 0) with
      | (_, ps, .done) => ps.length == 1 && ps.all (fun p => p.node == 0 && p.pas.length == 4 && p.at_ % 4 == 0)
      | _ => false) = true ∧
    performs (inQueue (.ald 31 0x7FFFFFFC 0)) (fun s gr =>
      match s.placeElems gr.ctx gr.core needsRead 4 .done (accElems 0x7FFFFFFC 0) with
      | (_, ps, .done) => ps.length == 1 && ps.all (fun p => p.node == 0)
      | _ => false) = true ∧
    performs (inQueue (.tst 0 0x7FFFFFFC 0)) (fun s gr =>
      match s.placeElems gr.ctx gr.core needsWrite (rawSize 0) .done (tileElems 0 0x7FFFFFFC 0) with
      | (_, ps, .done) => ps.length == 1 && ps.all (fun p => p.node == 0 && p.pas == span 0x7FFFFFFC 4) && s.mirage.st == .idle
      | _ => false) = true ∧
    performs (inQueue (.ast 0 0x7FFFFFFC 0)) (fun s gr =>
      match s.placeElems gr.ctx gr.core needsWrite 4 .done (accElems 0x7FFFFFFC 0) with
      | (_, ps, .done) => ps.length == 1 && ps.all (fun p => p.node == 0 && p.pas == span 0x7FFFFFFC 4) && s.mirage.st == .idle
      | _ => false) = true := by decide +kernel

/-- The codes of one row fit its 2,048 bits. -/
def fits (v : W32) (l : List Nat) : Bool := l.length * (tcFmt v).width ≤ 2048
/-- One row of 16 narrow elements, and of 16 F32 elements. -/
def narrowOne : W32 := tcOf 3 0x10 1 16
def wideOne : W32 := tcOf 0 0 1 16

theorem witness_TileResult_convert :
    performs (inQueue (.qnt 0 8 0 0) [(0, narrowOne), (8, wideOne)]) (fun _ gr =>
      (quantize wideOne narrowOne 0 0 (tileRows wideOne (gr.tile 8))).1.all fun r => fits narrowOne r) zeroed = true ∧
    performs (inQueue (.tcvt 0 8) [(0, narrowOne), (8, wideOne)]) (fun _ gr =>
      fits narrowOne (tcvtRow wideOne narrowOne (fun _ => 0) (tileRow (tcFmt wideOne) (tcCols wideOne) (gr.tile 8) 0)).1) zeroed = true := by decide +kernel

theorem witness_TileResult_move :
    performs (inQueue (.amovIn 31 8) [(8, wideOne)]) (fun _ _ => !bit (tcTag wideOne) 4) = true ∧
    performs (inQueue (.amovIn 31 0) [(0, narrowOne)]) (fun _ _ => bit (tcTag narrowOne) 4) = true ∧
    performs (inQueue (.amovOut 31 8) [(8, tcOf 0 0 128 64)]) (fun _ _ => fits (tcOf 0 0 128 64) (List.replicate 64 0)) = true ∧
    performs (inQueue (.amovOut 31 8) [(8, tcOf 1 0 1 128)]) (fun _ _ => fits (tcOf 1 0 1 128) (List.replicate 128 0)) = true := by decide +kernel

/-- Rows of eight BF16 elements that are infinite, in tile 0 and tile 1: the first row of each sub-array of every FUSE. -/
theorem witness_MmaGuarded : ∀ fuse ∈ [1, 2, 3],
    let v := tcOf 1 0 128 8
    let o := inQueue (.mma 1 31 0 1 fuse 0 8 1 2) [(0, v), (1, v)]
    let rows := fun (m : Store Byte) => [0, 32, 64, 96].foldl (fun m r => m.setBytes (256 * r) ((List.replicate 8 0x7F80).flatMap (leBytes 2))) m
    performs o (fun _ gr => (List.range 4).all fun i =>
      special o.nbv (operand .bf16 v (gr.tile 0) (if fuse = 1 then 0 else if fuse = 2 then 32 * (i / 2) else 32 * i) 0 8)
        (operand .bf16 v (gr.tile 1) (if fuse = 1 then 32 * i else if fuse = 2 then 32 * (i % 2) else 0) 0 8))
      (fun g => (g.setTile 0 (rows (g.tile 0))).setTile 1 (rows (g.tile 1))) = true := by decide +kernel

/-- FUSE 0 of tiles 0 to 3, each against itself, into accumulators 28 to 31: their 32 rows of eight E4M3 elements hold 0, but the
first element of each tile (0x7F is NaN). -/
def mmaFour (first : Byte) (p : Group → Nat → Bool) : Bool :=
  let v : W32 := tcOf 3 0x10 32 8
  performs (inQueue (.mma 3 28 0 0 0 0 8 2 2) ((List.range 4).map fun i => (i, v))) (fun _ gr => (List.range 4).all (p gr))
    (fun g => (List.range 4).foldl (fun g i => g.setTile i
      ⟨0, (List.range 32).flatMap fun r => (List.range 8).map fun k => (256 * r + k, if r + k = 0 then first else 0)⟩) g)
def rowsOf (gr : Group) (i : Nat) : List (List FVal) := operand .e4m3 (tcOf 3 0x10 32 8) (gr.tile i) 0 0 8
/-- Where every row of both sides is the same and its product finite, no product is special. -/
theorem special_of_same {nbv : Nat} {a b : List (List FVal)} {x : List FVal} (ha : ∀ y ∈ a, y = x) (hb : ∀ y ∈ b, y = x)
    (h : (product nbv x x).isFin = true) : special nbv a b = false := by
  simp only [special, List.any_eq_false]
  intro y hy
  simp only [List.any_eq_true, not_exists, not_and]
  intro z hz
  rw [ha y hy, hb z hz, h]
  decide
theorem witness_MmaGuarded_four : mmaFour 0x7F (fun gr i => special 1 (rowsOf gr i) (rowsOf gr i)) = true := by decide +kernel
/-- The operands of zeros are 32 equal rows, whose product is finite (`special_of_same`). -/
theorem witness_MmaGuarded_zeros : mmaFour 0 (fun gr i => (rowsOf gr i).all fun y => y == List.replicate 8 (Fmt.e4m3.decode 0)) = true := by
  decide +kernel
theorem witness_MmaGuarded_finite : (product 1 (List.replicate 8 (Fmt.e4m3.decode 0)) (List.replicate 8 (Fmt.e4m3.decode 0))).isFin = true := by
  decide +kernel

/-- A product in TOLERANT mode ends as no CHECK_HARD, whatever its free values. -/
theorem tolerant_enters (check : Nat → List Nat × List Nat) (n retry : Nat) :
    (match (resolve check n 2 retry).1 with | .hard _ _ _ _ => true | _ => false) = false := by
  by_cases h : (check 0 == ([], [])) = true
  · simp [resolve, h]
  · by_cases l : located (check 0) = true <;> simp [resolve, h, l]

/-- A COPY of one row of 16 bytes within scratch, to its last place. -/
theorem witness_CommandResult :
    let c : Cmd := ⟨3, 1, 0, 1, 0, some (0, 0), 0, 0, .copy, [0, 0x7FFF0, 3, 0, 0x11, 0, 0, 0], 0, 0, .waiting, none, [], false⟩
    let s := { lone 0 with cmds := [c] }
    let b : Block := c.block
    (s.cmds.find? fun x => x.id == c.id) = some c ∧ s.cmdReady c = true ∧
    (match s.planRows c (true, true) .done (List.range b.rows) with
      | (_, plan, .done) => c.peers plan == ([], [])
      | _ => false) = true ∧
    (finds s fun _ k _ => b.src + 16 ≤ 256 * k.scru && b.dst + 16 == 256 * k.scru && k.scru ≤ 2048) = true ∧ b.rows = 1 ∧ b.ssp = 1 ∧ b.dsp = 1 ∧
    b.conv = false ∧ b.scode = 0 ∧ b.dcode = 0 ∧ 4 * b.cols = 16 ∧ b.src + 16 ≤ b.dst := by decide +kernel

/-! Contexts, queues, packets, kernels, groups -/

/-- Context 1 of `lone`, changed; its group and nobody issuing. -/
def ctxd (f : Ctx → Ctx) (g : Group → Group := id) : State := { (loneG g).modCtx 1 f with issuing := [] }
def okCcb : State := ((State.reset.setBytes 0x1038 (leBytes 8 4)).setBytes 0x1058 (leBytes 8 0x10001)).setPort 1 { Port.reset with cxaddr := 0x1000 }
def aRecord : FaultRec := ⟨false, false, 0, 1, 1, 0, 0, 0, 0, 1, 0, 0, 0, 0⟩

theorem witness_ContextCommands :
    State.reset.ctx? (0xFFF : BitVec 12).toNat = none ∧ ((lone 0).ctx? (1 : BitVec 12).toNat).isSome = true ∧
    State.reset.ccbValid (State.reset.port 0).cxaddr.toNat = false ∧ okCcb.ccbValid (okCcb.port 1).cxaddr.toNat = true ∧
    (∀ x ∈ [(CtxState.saved, false), (.saved, true), (.running, false), (.stopped, false), (.halting, true)],
      ((ctxd fun c => { c with st := x.1, pre := x.2 }).ctx? 1).map (fun c => (c.st, c.pre)) = some x) ∧
    (let s := ctxd fun c => { c with st := .halting }
     s.atBoundary 1 = true ∧ (s.group? 0).map Group.st = some .running) ∧
    (let s := ctxd (fun c => { c with st := .staging }) fun g => { g with st := .saved }
     s.allStaged 1 = true ∧ (s.ctx? 1).map Ctx.st = some .staging) ∧
    (let s := { ctxd fun c => { c with st := .destroying } with groups := [] }
     (s.ctx? 1).map (s.destroyed 1) = some true) ∧
    (let s := ctxd fun c => { c with held := [aRecord] }
     (s.ctx? 1).map (fun c => (c.held, s.fqFull c)) = some ([aRecord], false)) ∧
    (let s := ctxd fun c => { c with held := [aRecord], fqwr := 16 }
     (s.ctx? 1).map (fun c => (c.held != [], s.fqFull c)) = some (true, true)) := by decide +kernel

/-- A queue of context 1, whose last packet's link word stands at 0x40000000, which holds `next`. -/
def aQueue : Queue := ⟨0x2000, 1, 5, 0, 0x40000000, 0, false, none, none, none, none, none, false⟩
def queue (next : Nat) : State :=
  { (lone 0).setBytes 0x40000000 (leBytes 8 next) with queues := [(3, aQueue)] }
def aPkt : Pkt := ⟨0x40, 1, 3, 5, [0, 2], 0, .ready, none, 0, 0, 0, 0, 0, 0, 0, 0, false, false⟩
/-- Packet 2 of context 1. -/
def packet (f : Pkt → Pkt) : State := { queue 0 with pkts := [(2, f aPkt)] }

theorem witness_QueueCommands : bit ((queue 0).port 0).qcmd.toNat 31 = false ∧ ((queue 0).port 0).attach = none ∧
    (let s := (queue 0).setPort 0 { Port.reset with qaddr := 0x2000 }
     (s.queueAt 0x2000).isSome = true ∧ s.pkts = []) ∧
    (queue 0).queueAt 0x3000 = none ∧ (queue 0).qcbBad 0x3000 = true := by decide +kernel

/-- No packet to consume; packets of every type that is ready; the last dependence of a packet; a packet that has ended. -/
theorem witness_PacketLife :
    (let s := queue 0
     (s.queue? 3).map (fun q => (s.mayConsume q, s.regionPending 3, s.mirage.queue, s.mirage.st)) = some (true, false, none, .idle) ∧
     (match s.mapAccess 1 (coreOfCluster (s.substitute 5)) 0x40000000 8 needsRead false with
      | (s1, .ok pas _ node _) => node == 0 && s1.damageAt pas == 0 && leNat (s1.readMapped pas node) / 64 == 0
      | _ => false) = true) ∧
    (∀ t ∈ [(0, .ready), (1, .ready), (2, .ready), (4, .ready), (6, .ready), (4, .launching)], let s := packet fun k =>
        { k with img := [0, BitVec.ofNat 64 (t.1 + 2 ^ 32)], st := t.2 }
      (s.pkt? 2).map (fun k => (k.ptype, k.st, k.paged, s.sccFrozen k.owner)) = some (t.1, t.2, none, false) ∧
      (t.1 = 1 ∨ t.1 = 4 → ((s.pkt? 2).map fun k => match s.choosePoint k with
        | (_, .ok _) => true
        | _ => false) = some true)) ∧
    (let s := packet fun k => { k with img := [0, 3 + 2 ^ 24, 0, 0, 0, 0, 0x40000008, 7] }
     ((s.pkt? 2).map fun k => k.ptype == 3 && bits (k.w 1) 24 2 == 1 && s.mirage.st == .idle &&
       match s.mapAccess k.ctx k.core (k.w 6) 8 needsBoth false with
       | (s1, .ok pas _ 0 _) => s1.damageAt pas == 0 && pas.length == 8 && decide pas.Nodup && pas.all (· < 2 ^ 40)
       | _ => false) = some true) ∧
    (let s := { packet fun k => { k with img := [0, 5] } with
                regions := [(0, regionOf 1 5 0x6000 (some 4) 1 []), (4, regionOf 1 5 0x7000 none 0 [])] }
     ((s.pkt? 2).map fun k => k.ptype == 5 && k.st == .ready && k.paged.isNone && k.w 6 == 0 && (s.queue? k.queue) == some aQueue &&
       ((Tbl.find? s.regions aQueue.region).bind Region.parent) == some 4) = some true) ∧
    (let s := packet fun k => { k with img := [0, 3, 0, 0, 0, 0, 0x40000008, 7] }
     ((s.pkt? 2).map fun k => k.ptype == 3 && bits (k.w 1) 24 2 == 0 &&
       match (s.mapAccess k.ctx k.core (k.w 6) 8 needsWrite false).2 with
       | .ok _ _ 0 _ => true
       | _ => false) = some true) ∧
    (let s := packet fun k => { k with img := [0, 4, 0, 0, 0, 0, 0x40000000, 0], st := .launching }
     ((s.pkt? 2).map fun k => match s.readBlocks k.ctx (coreOfCluster k.owner) (k.w 6) (k.w 7 % 2 ^ 8) with
       | (_, .ok bs) => badBlock (k.w 6) bs == none
       | _ => false) = some true) ∧
    (let s := packet fun k => { k with st := .finished, status := 1, wrote := true }
     ((s.pkt? 2).map fun k => !s.pktHeld k && !s.sccFrozen k.owner && match s.writeStatus 2 k with
       | (s1, none) => !s1.replayStops k && (s1.successors 2 k (k.status != 1 && s1.propagates k.region) ((List.range k.nsucc).drop k.released)).2 == none
       | _ => false) = some true) ∧ (1, aPkt.owner) ∉ (packet id).mgmt.frozen := by
  and_intros <;> decide +kernel

theorem setAt_mem : ∀ (ps : List Nat) (bs : List Byte) (s : State), ∃ m, s.setAt ps bs = { s with mem := m }
  | [], _, s => ⟨s.mem, rfl⟩
  | _ :: _, [], s => ⟨s.mem, rfl⟩
  | p :: ps, b :: bs, s => by
    obtain ⟨m, hm⟩ := setAt_mem ps bs (s.setByte p b)
    refine ⟨m, ?_⟩
    rw [State.setAt, hm]
    unfold State.setByte
    split <;> rfl

theorem pkts_deviceWords (s : State) (a : Nat) (ws : List Nat) : (s.deviceWords a ws).pkts = s.pkts := by
  unfold State.deviceWords State.homeWrite
  obtain ⟨m, hm⟩ := setAt_mem (span a (8 * ws.length)) (wordBytes ws) s
  rw [hm]
  rfl

/-- A completion record leaves the packets; where it stands is open (log 5). -/
theorem pendingPkt_complete (s : State) (c : Nat) (r : Completion) (ctx : Nat) (p : W64) :
    (s.complete c r).pendingPkt ctx p = s.pendingPkt ctx p := by
  have h : (s.complete c r).pkts = s.pkts := by
    unfold State.complete
    split
    · rfl
    · unfold State.postEvent
      dsimp only
      split
      · rw [pkts_deviceWords]
        rfl
      · unfold State.markFrozen
        dsimp only [Master.frozenAs]
        split <;> rfl
  simp only [State.pendingPkt, h]

/-- A packet whose last dependence an EVT RELEASE ends. -/
def releasing : State := ((packet fun k => { k with addr := 0x40000000, st := .pending, img := [0, 2, 1] }).setBytes 0x40000010
  (leBytes 8 (2 ^ 31 + 1 + 5 * 2 ^ 32))).setCluster 5 { Cluster.reset with releases := [⟨1, 0x40000000, none⟩] }
theorem witness_PacketLife_release : (releasing.cluster 5).releases = [⟨1, 0x40000000, none⟩] ∧ releasing.sccFrozen 5 = false ∧
    ∃ s1 w, releasing.rmw 1 40 ((0x40000000 : W64) + 0x10).toNat (fun w => if w % 2 ^ 16 = 0 then w else w - 1) = (s1, .ok w) ∧
      w % 2 ^ 16 = 1 ∧ bit w 31 = true ∧ bit w 30 = false ∧
      (s1.complete (w / 2 ^ 32 % 2 ^ 7) (pktEvent s1 1 0x40000000 3)).pendingPkt 1 0x40000000 = some 2 ∧
      (releasing.releaseDep 1 40 0x40000000).2 = .ok 0 := by
  refine ⟨by decide +kernel, by decide +kernel, ?_⟩
  have h : (match releasing.rmw 1 40 ((0x40000000 : W64) + 0x10).toNat (fun w => if bits w 0 16 == 0 then w else w - 1) with
      | (s1, .ok w) => bits w 0 16 == 1 && bit w 31 && !bit w 30 && s1.pendingPkt 1 0x40000000 == some 2
      | _ => false) = true := by decide +kernel
  have e : (fun w : Nat => if w % 2 ^ 16 = 0 then w else w - 1) = fun w => if bits w 0 16 == 0 then w else w - 1 := by
    funext w; simp [bits]
  rw [e]
  split at h
  · rename_i s1 w hr
    simp only [Bool.and_eq_true, beq_iff_eq, Bool.not_eq_true'] at h
    obtain ⟨⟨⟨h1, h2⟩, h3⟩, h4⟩ := h
    have h5 : (s1.complete (bits w 32 7) (pktEvent s1 1 0x40000000 3)).pendingPkt 1 0x40000000 = some 2 := by
      rw [pendingPkt_complete, h4]
    refine ⟨s1, w, hr, by simpa [bits] using h1, h2, h3, h5, ?_⟩
    unfold State.releaseDep
    rw [hr]
    simp only [h1, h2, h3, h5, beq_self_eq_true, Bool.not_false, Bool.and_self, if_true]
  · simp at h

/-- One core of the package is left for a group: the other dies are lost, the other clusters dark, the other cores' scratch full. -/
def oneCore : State :=
  { lone 0 with
    groups := (List.range 7).flatMap fun c => (lone 0).groups.map fun (g : Nat × Group) =>
      (c + 1, { g.2 with core := c + 1, kern := 2 ^ 32 + 2 })
    kernels := (lone 0).kernels ++ (lone 0).kernels.map fun (k : Nat × Kernel) => (2 ^ 32 + 2, { k.2 with deepu := 0 })
    issuing := []
    dies := (List.range 7).map fun d => (d + 1, { Die.reset with lost := true })
    clusters := (List.range 15).map fun c => (c + 1, { Cluster.reset with dark := true }) }.modKernel (2 ^ 32 + 1)
    fun k => { k with st := .placing, next := 0 }

theorem witness_GroupLife :
    ((oneCore.kernel? ((1 : BitVec 12).toNat * 2 ^ 32 + (1 : BitVec 32).toNat)).map fun k =>
      oneCore.dispatches 1 k && k.st == .placing && k.next == (0 : BitVec 32).toNat &&
      match oneCore.tenantReady (((oneCore.ctx? 1).map Ctx.tenant).getD 0) with
      | (s1, paid) => paid && s1.savedGroup (2 ^ 32 + 1) 0 == none && s1.chooseCore (2 ^ 32 + 1) k none == some 0) = some true ∧
    (finds (loneG fun g => g.modThread 0 fun t => { t with run := .exited }) fun gr _ _ => gr.st == .running && gr.failing == none && !gr.dirty &&
      gr.ending == none && (loneG fun g => g.modThread 0 fun t => { t with run := .exited }).workDone 0 gr) = true ∧
    (finds (loneG fun g => { g with st := .restoring }) fun gr _ _ => gr.st == .restoring && gr.holds == [] && gr.ret == .running &&
      ((lone 0).ctx? gr.ctx).map Ctx.st == some .running) = true ∧
    (finds (loneG fun g => { g with active := true }) fun gr _ _ => gr.runs && gr.active) = true ∧
    (finds (loneG fun g => { g with active := false }) fun gr _ _ => gr.runs && ((lone 0).eligible 0 gr).isSome && !gr.active) = true ∧
    (finds (loneG fun g => { g with count := 100000 }) fun gr k _ => gr.runs && (lone 0).hangLimit == gr.count && k.st == .running &&
      ((lone 0).ctx? gr.ctx).map (fun c => (c.held, (lone 0).fqFull c)) == some ([], false)) = true := by
  decide +kernel

/-! Pages, debugger, registers, losses, links, power, cycles -/

theorem witness_PageEvents :
    ((lone 0).ctx? (1 : BitVec 12).toNat).isSome = true ∧ State.reset.ctx? (0xFFF : BitVec 12).toNat = none ∧
    (∀ q : Fin 2, ((lone 0).port q).attach = none) ∧ (∀ x ∈ (queue 0).regions, x.2.owed = none) ∧
    ([0, 0x10000, 0x7FE00001, 0x40000002].all fun v => (pgPage v).isSome) = true ∧ pgPage 0x10001 = none ∧ pgPage 3 = none ∧
    (let r := { Port.reset with prqbase := 0x1000, evbase := 0x2000, prqwr := 15, evwr := 15, reqs := [⟨0x10000, 1, 0, 1, 5⟩],
                                evs := [⟨5, 7, 1, 0⟩] }
     r.prqbase ≠ 0 ∧ (r.prqwr - r.prqrd).toNat ≠ 2 ^ (r.prqctl.toNat % 2 ^ 5) ∧ r.evbase ≠ 0 ∧
     (r.evwr - r.evrd).toNat ≠ 2 ^ (r.evctl.toNat % 2 ^ 5)) ∧
    2 ^ 40 - 1 < 2 ^ 40 ∧ (1 : BitVec 8) ≠ 0 ∧
    (finds (loneT fun t => { t with monitor := some ⟨0x100, 0, none, 0⟩ }) fun _ _ t => t.monitor.map Monitor.code == some none) = true ∧
    ({ State.reset with mgmt := { Mgmt.reset with tlmbase := 0x1000 }, telemetry := [(1, 0, 8, 2)] }).mgmt.tlmbase ≠ 0 := by decide +kernel

/-- Scopes of a thread, a group, and one with no target; a thread stopped and not; a group held by the debugger. -/
theorem witness_DebugMirageCommands :
    (let s := (lone 0).setPort 0 { Port.reset with dbgtgt := 1 }
     let stopped := s.modThread 0 0 fun t => { t with run := .stopped none }
     let held := s.modGroup 0 fun g => { g with st := .halted false, holds := [.debugger 1] }
     (match s.dbgTarget 0 1 0, stopped.dbgTarget 0 1 0 with
       | .thread 0 t, .thread 0 u => t.live && t.dueLate == none && s.thread? 0 t.tid == some t && u.isStopped && stopped.thread? 0 u.tid == some u
       | _, _ => false) = true ∧
     (let l : Late := ⟨0, none, 0x42, 1, 0, 0, false, false⟩
      match (s.modThread 0 0 fun t => { t with late := [l] }).dbgTarget 0 1 0 with
       | .thread 0 t => t.live && t.dueLate == some l
       | _ => false) = true ∧
     s.dbgTarget 0 1 1 = .groups [0] ∧ (s.group? 0).map Group.st = some .running ∧ held.dbgTarget 0 1 1 = .groups [0] ∧
     (held.group? 0).map (fun g => (g.st, g.holds)) = some (.halted false, [.debugger 1]) ∧
     (s.dbgThread 0 1).map (fun x => (x.1, x.2.isStopped)) = some (0, false) ∧
     (stopped.dbgThread 0 1).map (fun x => (x.1, x.2.isStopped)) = some (0, true) ∧
     (lone 0).dbgTarget 0 1 0 = .missing ∧ (lone 0).dbgTarget 0 1 2 = .missing) ∧
    State.reset.ctx? (0xFFF : BitVec 12).toNat = none ∧
    (let s := ctxd fun c => { c with st := .saved, pre := true }
     (s.ctx? 1).map (fun c => (c.st, c.pre)) = some (.saved, true) ∧ s.mirage.st = .idle ∧ s.mirage.queue = none ∧
     ({ s with mirage := { s.mirage with ctx := 1, wr := 1 } }).mirage.wr ≠ 0 ∧
     ({ s with mirage := { s.mirage with ctx := 1, st := .capturing } }).mirage.st = .capturing) ∧
    ((lone 0).ctx? 1).map Ctx.st ≠ some .saved := by decide +kernel

theorem witness_RegisterWrites : (0xFFF : BitVec 12) ≠ 0 ∧ State.reset.ctx? (0xFFF : BitVec 12).toNat = none ∧
    State.reset.ccbValid (State.reset.port 0).cxaddr.toNat = false ∧
    (∀ lsz ∈ [20, 40], let s := { State.reset with mgmt := { Mgmt.reset with fwws := [(1, BitVec.ofNat 32 lsz)] } }
      (0 : W64).toNat < 2 ^ 52 ∧ (0 : W64).toNat % 2 ^ (Tbl.get 0 s.mgmt.fwws 1).toNat = 0 ∧ 20 ≤ (Tbl.get 0 s.mgmt.fwws 1).toNat ∧
      (Tbl.get 0 s.mgmt.fwws 1).toNat ≤ 40) ∧
    (19 : W32).toNat % 2 ^ 6 = 19 ∧ (16 : W32).toNat % 2 ^ 6 = 16 ∧ (15 : W32).toNat % 2 ^ 6 = 15 ∧
    1 ≤ (1 : BitVec 9).toNat ∧ (288 : BitVec 9).toNat ≤ 288 ∧ (0, Config.coreNumber 1023) ∉ State.reset.mgmt.frozen ∧ State.reset.groups = [] ∧
    (4 : W32).toNat % 2 ^ 5 = 4 ∧ (0x30 : W32).toNat % 2 ^ 5 = 16 ∧ (3 : W32).toNat % 2 ^ 5 < 4 ∧ 16 < (17 : W32).toNat % 2 ^ 5 ∧
    (3, 2 ^ 14 - 1) ∈ ({ Mgmt.reset with frozen := [(3, 2 ^ 14 - 1)] }).frozen ∧ (State.reset.link (2 ^ 14 - 1)).waiting = [] ∧
    ({ Mgmt.reset with frozen := [(1, 0x207F)] }).holdsBack (.scc 127) = true := by decide +kernel

/-- Boot that waits, verifies and runs; an image whose header is not in order. -/
theorem witness_BootAndAttest : State.reset.boot.st = .waiting ∧ State.reset.due = [] ∧
    (let s := { State.reset with boot := { Boot.reset with st := .verifying } }
     s.boot.st = .verifying ∧ s.verifyImage ≠ 0) ∧
    (let s := { State.reset with boot := { Boot.reset with st := .running } }
     s.boot.st = .running ∧ (s.port 0).attBusy = false ∧ s.due = []) ∧
    (State.reset.port 1).attBusy = false ∧ State.reset.boot.st ≠ .running ∧
    (let s := State.reset.setPort 0 { Port.reset with attBusy := true, attNonce := List.replicate 32 0xFF }
     (s.port 0).attBusy = true ∧ (s.port 0).attNonce.length = 32) := by decide +kernel

/-- An image that passes: its header is in order, and the fused key and the signature, which the model leaves open (log 8, log 9),
fit it. -/
def goodImage : State :=
  { (State.reset.setBytes 0xFFFC000000 (leBytes 4 0x57464E44)).setBytes 0xFFFC000008 (leBytes 4 4) with
    boot := { Boot.reset with st := .verifying } }
theorem witness_BootAndAttest_passes : goodImage.boot.st = .verifying ∧ (Config.sha256 (goodImage.bytes (fwWindow + 0x40) 384) = Config.keyHash →
    Config.pssVerify (goodImage.bytes (fwWindow + 0x40) 384) (goodImage.bytes (fwWindow + 0x1C0) 384)
      (goodImage.bytes fwWindow 0x1C0 ++ goodImage.bytes (fwWindow + 0x340) (goodImage.readN (fwWindow + 8) 4)) = true →
    Config.minSvn ≤ BitVec.ofNat 32 (goodImage.readN (fwWindow + 4) 4) → goodImage.verifyImage = 0) := by
  refine ⟨rfl, fun h1 h2 h3 => ?_⟩
  have h0 : goodImage.headerBad = false := by decide +kernel
  unfold State.verifyImage
  rw [h0, if_neg (by decide), if_neg (by rw [h1]; simp), if_neg (by rw [h2]; decide), if_neg (BitVec.not_lt.mpr h3)]

theorem witness_ResetsAndLosses : (State.reset.die 0).lost = false ∧
    (let s := { State.reset with ctxs := [(1, { loadCtx with tdies := 0x80 })] }
     ∀ c ∈ s.ctxs, c.2.tdies.getLsbD 7 = true ∧ c.2.tdies.getLsbD 0 = false ∧ c.2.st ≠ .destroying) ∧
    (11, 7) ∉ (State.reset.die 7).failed ∧
    (let s := State.reset.setDie 7 { Die.reset with failed := [(11, 0)] }
     (11, 7) ∉ (s.die 7).failed ∧ ((s.die 7).failed.filter fun x => x.1 == 11).length = 1 ∧ s.groups = [] ∧ s.cmds = []) ∧
    (finds ((lone 0).modKernel (2 ^ 32 + 1) fun k => { k with point := 3 }) fun gr k _ => gr.st == .running && gr.core / 128 == 0 && k.point == 3)
      = true := by decide +kernel

theorem witness_OutsideAccess : State.reset.mirage.st = .idle ∧ State.reset.mirage.st ≠ .capturing ∧ (State.reset.port 1).posted = [] ∧
    (∀ st ∈ [LinkState.up, .degraded, .spilling, .replay], (({ State.reset with links := [(31, { Link.reset with st := st })] }).link 31).st ∈
      [LinkState.up, .degraded, .spilling, .replay]) ∧
    ((⟨0, false, 0, .read 0 1⟩ : PeerReq).whole = false ∧ (⟨0, true, 0, .read 0 1⟩ : PeerReq).seq ≠ (State.reset.link 31).rx + 1) ∧
    (∀ k ∈ [1, 2, 4, 8, 16, 32, 64, 128, 256], 0x10000 % k = 0) ∧ (∀ i < 16, State.reset.hostMay (2 ^ 40 - 16 + i) = true) ∧
    (let s := { State.reset with boot := { Boot.reset with locked := true } }
     s.boot.locked = true ∧ 0xFFFC000000 ≤ 0xFFFC000000 ∧ 0xFFFC000000 + 4 ≤ 2 ^ 40 ∧ (∀ i < 4, s.hostMay (0xFFFBFFFFFC + i) = true)) ∧
    (2 ^ 40 - 8) % 8 = 0 ∧ (2 ^ 40 - 4) % 8 ≠ 0 ∧
    (let s := { State.reset with mgmt := { Mgmt.reset with expb := [(15, 0x10007)], exps := [(15, 16)] } }
     s.exported 0x1FFFF 1 0 = true ∧ s.exported 0x1FFFF 1 1 = true ∧ s.exported 0x1FFFF 2 0 = false ∧ s.exported 0xFFFF 1 1 = false ∧
     s.exported 0x10000 256 0 = true ∧ s.exported 0x10000 256 1 = true ∧ 0x10000 % 256 = 0 ∧
     ({ s with damaged := [(0x10000 / 32, 1)] }).damageAt (span 0x10000 4) ≠ 0 ∧
     s.exported 0x20000 4 2 = false ∧ s.damageAt (span 0x1FFFF 1) = 0) ∧
    (3, 31) ∈ ({ Mgmt.reset with frozen := [(3, 31)] }).frozen ∧ (3, 31) ∉ State.reset.mgmt.frozen := by decide +kernel

def flit : OutFlit := ⟨4, 1, 0x1000, 4, none, none, none, none⟩
/-- A port in each state, at the limit of each time and count. -/
def port (l : Link) : State := { State.reset with links := [(31, l)], time := 10000000 }
theorem witness_LinkStates : (State.reset.link 31).st = .down ∧ State.reset.mgmt.nodeid = 0 ∧ State.reset.reqs = [] ∧
    ({ Mgmt.reset with nodeid := 288 }).nodeid.toNat % 512 ≠ 0 ∧
    (∀ st ∈ [LinkState.training, .up, .restripe, .degraded, .replay, .spilling, .failed], ((port { Link.reset with st := st }).link 31).st = st) ∧
    (let s := port { Link.reset with st := .training, since := 9000000 }
     s.time = (s.link 31).since + 1000000) ∧
    countWaves 0xFFFF = 16 ∧ countWaves 0x7FFF = 15 ∧ countWaves 0xF = 4 ∧ countWaves 7 = 3 ∧
    (let s := port { Link.reset with st := .up, act := 0xFFFF, egress := [flit], lastOut := 9950000 }
     (s.link 31).act.getLsbD 15 = true ∧ (s.link 31).dark.getLsbD 15 = false ∧
     4 ≤ countWaves ((s.link 31).act &&& ~~~BitVec.ofNat 16 (2 ^ 15)) ∧ (s.link 31).egress ≠ [] ∧
     s.wadiUsed 31 + (s.link 31).egress.length ≤ wadiFlits ∧ (s.link 31).lastOut + 50000 = s.time) ∧
    countWaves (0xF &&& ~~~BitVec.ofNat 16 (2 ^ 3)) < 4 ∧
    (∀ n ∈ [6, 7], let s := port { Link.reset with st := .replay, since := 9990000, fails := n, wadi := (List.range (n - 6)).map fun _ => flit, buffer := [(5, flit)] }
      (s.link 31).since + 10000 = s.time ∧ ((s.link 31).fails < 7 ∨ 7 ≤ (s.link 31).fails) ∧ ((s.link 31).wadi = [] ↔ n = 6) ∧
      ∀ x ∈ (s.link 31).buffer, x.1 ≤ 5) ∧
    (let s := port { Link.reset with st := .degraded, act := 0x7FFF, lit := [(15, 9900000)] }
     Tbl.find? (s.link 31).lit 15 = some 9900000 ∧ 9900000 + 100000 = s.time ∧ Tbl.find? (s.link 31).lit 14 = none ∧
     (s.link 31).act.getLsbD 15 = false) ∧
    (let s := port { Link.reset with st := .spilling }
     (s.link 31).wadi = [] ∧ (s.link 31).lastOut + 10000000 = s.time) ∧
    (let c : Cmd := ⟨3, 1, 0, 1, 0, some (0, 0), 0, 0, .copyR, [], 0, 0, .sent, none, [], false⟩
     let s := { State.reset with time := 1000000, cmds := [c], links := [(0, { Link.reset with st := .up })],
                                 reqs := [⟨4, .cmd 3 0, 1, some 0, 0, 4, false, 0⟩] }
     (s.link 0).st = .up ∧ s.reqs.map (fun (r : LinkReq) => (r.whose, r.time + 1000000 == s.time, r.size)) = [(.cmd c.id 0, true, 4)] ∧
     ({ s with reqs := [⟨4, .device, 1, some 0, 0, 4, false, 0⟩] }).reqs.map (fun (r : LinkReq) => (r.whose, r.time + 1000000 == s.time))
       = [(.device, true)]) := by decide +kernel

/-- Training with one wavelength dark, a re-stripe at its limit, a resend, a replay buffer with one place left and with none, and a
response out of its sequence. -/
theorem witness_LinkStates_flits :
    (let s := port { Link.reset with st := .training, since := 9000000, dark := 0x8000 }
     s.time = (s.link 31).since + 1000000 ∧ (Link.reset.dark = 0) ∧
     0x7FFF &&& (s.link 31).dark = 0 ∧ 0xF &&& (s.link 31).dark = 0 ∧ 7 &&& (s.link 31).dark = 0) ∧
    (let s := port { Link.reset with st := .restripe, since := 9980000 }
     s.time = (s.link 31).since + 20000) ∧
    (let s := port { Link.reset with st := .replay, buffer := [(5, flit), (6, flit)] }
     (s.link 31).named = false ∧ ((s.link 31).buffer.filter fun x => 5 < x.1).map Prod.fst = [6]) ∧
    (0 ≠ (State.reset.link 31).rx + 1) := by decide +kernel
theorem witness_LinkStates_sent (n : Nat) :
    let s := port { Link.reset with st := .up, egress := [flit], buffer := List.replicate n (5, flit) }
    (s.link 31).st = .up ∧ (s.link 31).egress = [flit] ∧ flit.via = none ∧ (3, 31) ∉ s.mgmt.frozen ∧ (s.link 31).buffer.length = n :=
  ⟨rfl, rfl, rfl, List.not_mem_nil, List.length_replicate⟩

def gated (k : Cluster) (s : State := State.reset) : State := s.setCluster 127 k
theorem witness_PowerAndTokens :
    (∀ k ∈ [{ Cluster.reset with gate := .idle, idleCount := 64 }, { Cluster.reset with gate := .handshake },
      { Cluster.reset with gate := .waking, waitUntil := some 0 }, { Cluster.reset with gate := .waking, step := 1 },
      { Cluster.reset with gate := .waking, step := 3 }, { Cluster.reset with gate := .waking, step := 4 }], (gated k).cluster 127 = k) ∧
    (gated { Cluster.reset with gate := .handshake }).clusterBusy 127 = false ∧
    (((lone 0).setCluster 0 { Cluster.reset with gate := .handshake }).clusterBusy 0) = true ∧
    State.reset.mgmt.curbase = 0 ∧ ({ Mgmt.reset with curbase := 0x1000 }).curbase ≠ 0 ∧ (State.reset.die 7).lost = false ∧
    (State.reset.die 7).thrus ≤ 1000 ∧ State.reset.pkts = [] ∧ State.reset.cores = [] ∧ State.reset.shares = [] ∧
    (let s := { State.reset.setBytes 0x1000 (leBytes 4 5) with
                mgmt := { Mgmt.reset with tbbase := 0x1000 }, shares := [(0, ⟨3, 2⟩)] }
     s.refill 0 ≠ 0 ∧ s.mgmt.tbbase ≠ 0 ∧ s.shares = [(0, ⟨3, 2⟩)] ∧ 3 / 2 ≠ 0 ∧ s.queues = [] ∧ s.pkts = []) ∧ State.reset.queues = [] ∧
    (let a : Accum := ⟨1, 1, 0x40, 5, 7, 0⟩
     let s := { State.reset with ctxs := [(1, { loadCtx with accn := 1 })], cores := [(1023, { Core.reset with accums := [a] })] }
     (s.ctx? a.ctx).map Ctx.accn = some 1) := by decide +kernel

theorem witness_SelectionRegroup :
    (let l : List Cand := [⟨0, 0, 0, 0, [0], [0], 3, none, 1, 0, 0⟩, ⟨0, 1, 0, 1, [64], [64], 3, some 2, 1, 0, 0⟩]
     (bestCand l).isSome = true) ∧
    ((pair.group? 0).map fun gr => decide ((gr.liveIn 0).map Thread.tid).Nodup) = some true ∧
    (pair.group? 0).map (fun gr => (gr.core, gr.st, (Tbl.find? gr.warps 0).isSome)) = some ((0 : Fin 1024).val, .running, true) := by
  decide +kernel

/-- A package with nothing to do; a thread in each wait; a late failure; a convergent word that one of two threads can never reach;
a barrier that its one thread cannot leave; a thread to be taken again. -/
theorem witness_CycleEvents :
    (let s := State.reset.setCluster 127 { Cluster.reset with gate := .gated }
     (s.die 7).lost = false ∧ s.oasisLost = false ∧ s.groups = [] ∧ (s.core 1023).charges = [] ∧ (s.core 1023).accums = [] ∧
     (s.core 1023).busy = [] ∧ (s.core 1023).slipDue = [] ∧ s.samples = [] ∧ (s.cluster 127).gate = .gated) ∧
    ((State.reset.setDie 7 { Die.reset with lost := true }).die 7).lost = true ∧
    (∀ w ∈ [Wait.notice, .monitor (some 0), .monitor (some 1)],
      ∀ st ∈ [GroupState.running, .saving],
        let s := (loneT fun t => { t with run := .waiting w, monitor := some ⟨0, 0, none, 0⟩ }).modGroup 0 (fun g => { g with st := st })
        finds s (fun gr _ t => t.run == .waiting w && gr.runs == (st == .running) && t.monitor.map Monitor.code == some none) = true) ∧
    (let l : Late := ⟨0, none, 0x42, 1, 0, 0, false, false⟩
     finds (loneT fun t => { t with late := [l] }) (fun _ _ t => t.dueLate == some l) = true) ∧
    (let s := (pair fun g => (g.modThread 0 fun t => { t with run := .waiting .converge }).modThread 1 fun t =>
        { t with run := .waiting (.barrier 0) }).modKernel (2 ^ 32 + 1) fun k => { k with trapv := 0 }
     finds s (fun gr k _ => k.trapv == 0 && k.st == .running && gr.runs && gr.mismatched 0 &&
       gr.threads.all fun x => x.2.handler.isNone && x.2.tid == x.1 && Tbl.find? gr.threads x.1 == some x.2)
       = true) ∧
    (let s := (pair fun g => (g.modThread 0 fun t => { t with run := .waiting (.barrier 1) }).modThread 1 fun t =>
        { t with run := .waiting (.barrier 0) }).modKernel (2 ^ 32 + 1) fun k => { k with trapv := 0 }
     finds s (fun gr k _ => k.trapv == 0 && k.st == .running && gr.runs && gr.deadlocked &&
       gr.threads.all fun x => x.2.handler.isNone && x.2.tid == x.1 && Tbl.find? gr.threads x.1 == some x.2)
       = true) ∧
    (let s := loneT (fun t => { t with again := some 4 }) 0x080C109F
     ((s.group? 0).map fun gr => s.issues gr && ((gr.liveIn 0).filter fun t => t.ready && t.again.isSome).length == 1 &&
       s.selected == [] && (gr.threads.all fun x => x.2.tid == x.1 && Tbl.find? gr.threads x.1 == some x.2) &&
       ((s.envAt 0 0 0).map fun e => match (s.look e).2 with
         | .word i => i == .add 3 1 2 31
         | _ => false) == some true) = some true) := by decide +kernel

/-! Several translations of one page: whether a cached one is still held is open (log 11), so these witnesses are proved for
both answers. -/

/-- A state whose context 1 maps its first 2 GiB to themselves, with nothing lost or damaged. -/
structure Calm (s : State) : Prop where
  ctx : ∃ d l, s.ctxs = [(1, { loadCtx with tdies := d, lhor := l })]
  time : s.time = 0
  damaged : s.damaged = []
  dies : s.dies = []
  idle : s.mirage.st = .idle
  table : ∀ x ∈ loadEntries, s.readN x.1 8 = x.2
  tlb : ∀ e ∈ s.tlb, e.bits = 30 ∧ e.page < 2 ∧ e.leaf = BitVec.ofNat 64 (e.page * 2 ^ 30 + 0x5E)

/-- `s` after some translations. -/
def moved (s : State) (f : Nat) (t : List TlbEntry) (d : BitVec 8) (l : Nat) : State :=
  { s with fresh := f, tlb := t, ctxs := [(1, { loadCtx with tdies := d, lhor := l })] }

/-- `t` is `s` after some translations. -/
def Near (s t : State) : Prop := Calm t ∧ ∃ f u d l, t = moved s f u d l

theorem Near.refl {s : State} (h : Calm s) : Near s s := by
  obtain ⟨d, l, e⟩ := h.ctx
  refine ⟨h, s.fresh, s.tlb, d, l, ?_⟩
  unfold moved
  rw [← e]

theorem Near.trans {s t u : State} (h : Near s t) (k : Near t u) : Near s u := by
  obtain ⟨_, _, _, _, _, rfl⟩ := h
  obtain ⟨c, f, v, d, l, rfl⟩ := k
  exact ⟨c, f, v, d, l, rfl⟩

theorem Near.mk' {s : State} (h : Calm s) (f : Nat) {u : List TlbEntry} (d : BitVec 8) (l : Nat)
    (hu : ∀ e ∈ u, e.bits = 30 ∧ e.page < 2 ∧ e.leaf = BitVec.ofNat 64 (e.page * 2 ^ 30 + 0x5E)) : Near s (moved s f u d l) :=
  ⟨⟨⟨d, l, rfl⟩, h.time, h.damaged, h.dies, h.idle, fun x hx => h.table x hx, hu⟩, f, u, d, l, rfl⟩

theorem Near.step {s t u : State} (h : Near s t) (f : Nat) (v : List TlbEntry) (d : BitVec 8) (l : Nat)
    (hv : ∀ e ∈ v, e.bits = 30 ∧ e.page < 2 ∧ e.leaf = BitVec.ofNat 64 (e.page * 2 ^ 30 + 0x5E)) (hu : u = moved t f v d l) : Near s u :=
  hu ▸ h.trans (Near.mk' h.1 f d l hv)

theorem Calm.walk {s : State} (h : Calm s) {va : Nat} (hv : va < 2 ^ 31) :
    ∃ seen, walk s va 4 loadTables [] = (.leaf (va / 2 ^ 30 * 2 ^ 30 + 0x5E) 2, seen) := by
  have i4 : levelIndex 4 va = 0 := by simp only [levelIndex, bits]; omega
  have i3 : levelIndex 3 va = 0 := by simp only [levelIndex, bits]; omega
  have i2 : levelIndex 2 va = va / 2 ^ 30 := by simp only [levelIndex, bits]; omega
  have r4 := h.table (loadTables, loadTables + 0x1010) (by decide)
  have r3 := h.table (loadTables + 0x1000, loadTables + 0x2010) (by decide)
  have hp : va / 2 ^ 30 = 0 ∨ va / 2 ^ 30 = 1 := by omega
  have r2 : s.readN (loadTables + 0x2000 + 8 * (va / 2 ^ 30)) 8 = va / 2 ^ 30 * 2 ^ 30 + 0x5E := by
    rcases hp with e | e <;> rw [e]
    · exact h.table (loadTables + 0x2000, 0x5E) (by decide)
    · exact h.table (loadTables + 0x2008, 2 ^ 30 + 0x5E) (by decide)
  have p4 : loadTables + 8 * 0 + 8 ≤ hbmBytes := by decide
  have p3 : loadTables + 0x1000 + 8 * 0 + 8 ≤ hbmBytes := by decide
  have p2 : loadTables + 0x2000 + 8 * (va / 2 ^ 30) + 8 ≤ hbmBytes := by rcases hp with e | e <;> rw [e] <;> decide
  have q2 : bits (va / 2 ^ 30 * 2 ^ 30 + 0x5E) 16 36 * 2 ^ 16 = va / 2 ^ 30 * 2 ^ 30 := by
    rcases hp with e | e <;> rw [e] <;> decide
  have m2 : malformed (va / 2 ^ 30 * 2 ^ 30 + 0x5E) 2 = false ∧ bits (va / 2 ^ 30 * 2 ^ 30 + 0x5E) 4 2 = 1 ∧
      bit (va / 2 ^ 30 * 2 ^ 30 + 0x5E) 6 = true ∧ bits (va / 2 ^ 30 * 2 ^ 30 + 0x5E) 7 9 = 0 ∧
      ¬hbmBytes < va / 2 ^ 30 * 2 ^ 30 + 2 ^ 30 := by
    rcases hp with e | e <;> rw [e] <;> decide
  have e4 : bits (loadTables + 0x1010) 8 44 * 2 ^ 8 = loadTables + 0x1000 := by decide
  have e3 : bits (loadTables + 0x2010) 8 44 * 2 ^ 8 = loadTables + 0x2000 := by decide
  refine ⟨[loadTables + 0x2000 + 8 * (va / 2 ^ 30), loadTables + 0x1000 + 8 * 0, loadTables + 8 * 0], ?_⟩
  rw [Machine.walk]
  simp only [i4, if_pos p4]
  rw [show loadTables + 8 * 0 = loadTables from rfl, r4]
  simp (decide := true) only [↓reduceIte, e4]
  rw [Machine.walk]
  simp only [i3, if_pos p3]
  rw [show loadTables + 4096 + 8 * 0 = loadTables + 4096 from rfl, r3]
  simp (decide := true) only [↓reduceIte, e3]
  rw [Machine.walk]
  simp only [i2, if_pos p2, r2]
  obtain ⟨a, b, c, d, e⟩ := m2
  have l2 : levelBits 2 = 30 := rfl
  simp only [a, b, c, d, l2, q2, e, ↓reduceIte, Bool.false_eq_true]
  simp

theorem Calm.translate {s : State} (h : Calm s) {va core : Nat} {needs : Needs} (hv : va < 2 ^ 31) (hn : needs ∈ [1, 2, 3, 4]) :
    ∃ t e, s.translate 1 core va needs = (t, .ok va 0 e) ∧ Near s t := by
  have hp : va / 2 ^ 30 = 0 ∨ va / 2 ^ 30 = 1 := by omega
  obtain ⟨d, l, hc⟩ := h.ctx
  have hcan : canonicalVa va = true := by
    have a : bits va 57 7 = 0 := by simp only [bits]; omega
    have b : bit va 56 = false := by
      have : bits va 56 1 = 0 := by simp only [bits]; omega
      simp [bit, this]
    simp [canonicalVa, a, b]
  have hleaf : (BitVec.ofNat 64 (va / 2 ^ 30 * 2 ^ 30 + 0x5E)).toNat = va / 2 ^ 30 * 2 ^ 30 + 0x5E := by
    rcases hp with e | e <;> rw [e] <;> decide
  have hlack : lacking (va / 2 ^ 30 * 2 ^ 30 + 0x5E) needs = none := by
    simp only [List.mem_cons, List.not_mem_nil, or_false] at hn
    rcases hp with e | e <;> rw [e] <;> rcases hn with rfl | rfl | rfl | rfl <;> decide +kernel
  have hpa : leafPa (va / 2 ^ 30 * 2 ^ 30 + 0x5E) 30 va = va := by
    have : bits (va / 2 ^ 30 * 2 ^ 30 + 0x5E) 16 36 * 2 ^ 16 = va / 2 ^ 30 * 2 ^ 30 := by
      rcases hp with e | e <;> rw [e] <;> decide
    rw [leafPa, this]; exact Nat.div_add_mod' va _
  have hnode : bits (va / 2 ^ 30 * 2 ^ 30 + 0x5E) 7 9 = 0 := by
    rcases hp with e | e <;> rw [e] <;> decide
  have hlost : ∀ (t : State) p, t.dies = [] → t.lostPa p = false := by
    intro t p ht
    simp [State.lostPa, State.die, ht, Tbl.get, Tbl.find?, Die.reset]
  have htouch : ∀ (t : State) pas, Near s t → Near s (t.touch 1 pas) := by
    intro t pas ht
    obtain ⟨d, l, hc⟩ := ht.1.ctx
    refine ht.step t.fresh t.tlb (pas.foldl (fun m p => m ||| BitVec.ofNat 8 (2 ^ dieOfAddr p)) d) l ht.1.tlb ?_
    simp only [State.touch, State.modCtx, hc, Tbl.modify, if_true, moved]
  have hfill : ∀ t, Near s t → Near s (t.tlbFill 1 core va (va / 2 ^ 30 * 2 ^ 30 + 0x5E) 2).2 := by
    intro t ht
    obtain ⟨d, l, hc⟩ := ht.1.ctx
    have hu : ∀ e ∈ (t.tlbFill 1 core va (va / 2 ^ 30 * 2 ^ 30 + 0x5E) 2).2.tlb,
        e.bits = 30 ∧ e.page < 2 ∧ e.leaf = BitVec.ofNat 64 (e.page * 2 ^ 30 + 0x5E) := by
      intro e he
      simp only [State.tlbFill, List.mem_append, List.mem_filter, List.mem_cons, List.not_mem_nil, or_false] at he
      rcases he with ⟨he, -⟩ | rfl | rfl | rfl
      · exact ht.1.tlb e he
      all_goals exact ⟨rfl, by simp only [levelBits]; omega, rfl⟩
    refine ht.step t.fresh _ d (max l (t.tlbFill 1 core va (va / 2 ^ 30 * 2 ^ 30 + 0x5E) 2).1) hu ?_
    simp only [State.tlbFill, State.modCtx, hc, Tbl.modify, if_true, moved]
  have hwalk : ∀ t, Near s t → ∃ u e, t.walkFor 1 core va needs true = (u, .ok va 0 e) ∧ Near s u := by
    intro t ht
    obtain ⟨seen, hw⟩ := ht.1.walk hv
    obtain ⟨d, l, hc⟩ := ht.1.ctx
    have hroot : ((t.ctx? 1).map Ctx.ptroot).getD 0 = loadTables := by simp [State.ctx?, hc, Tbl.find?, loadCtx]
    have hu := htouch t seen ht
    have hany : (seen.any (t.touch 1 seen).lostPa) = false := by simp [hlost _ _ hu.1.dies]
    have hdam : (t.touch 1 seen).damageAt (seen.flatMap fun a => span a 8) = 0 := by simp [State.damageAt, hu.1.damaged]
    have hf := hfill _ hu
    refine ⟨_, ((t.touch 1 seen).tlbFill 1 core va (va / 2 ^ 30 * 2 ^ 30 + 0x5E) 2).1, ?_, htouch _ [va] hf⟩
    simp only [State.walkFor, hroot, hw, if_true, hany, hdam, hlack, hnode, State.reach]
    rw [show levelBits 2 = 30 from rfl, hpa]
    have hl := hlost _ va hf.1.dies
    simp only [hl]
    simp
  have hfree : Near s s.free.2 := (Near.refl h).step (s.fresh + 1) s.tlb d l h.tlb (by simp only [State.free, moved, ← hc])
  unfold State.translate
  rw [hcan]
  simp only [Bool.not_true, Bool.false_eq_true, if_false]
  cases hfind : s.tlbFind 1 core va with
  | none => exact hwalk s (Near.refl h)
  | some x =>
    have hx : x ∈ s.tlb ∧ x.page = va / 2 ^ x.bits := by
      simp only [State.tlbFind, Option.or_eq_some_iff] at hfind
      have key : ∀ p : TlbEntry → Bool, (s.tlb.filter fun e => p e && (e.ctx == 1 && e.page == va / 2 ^ e.bits &&
          decide (s.time + 2 < e.expiry))).head? = some x → x ∈ s.tlb ∧ x.page = va / 2 ^ x.bits := by
        intro p hp
        have := List.mem_filter.mp (List.mem_of_mem_head? hp)
        simp only [Bool.and_eq_true, beq_iff_eq] at this
        exact ⟨this.1, this.2.2.1.2⟩
      rcases hfind with e | ⟨-, e | ⟨-, e⟩⟩ <;> exact key _ e
    obtain ⟨hb, -, hl⟩ := h.tlb x hx.1
    have hxp := hx.2
    rw [hb] at hxp
    rw [hxp] at hl
    simp only [State.free] at hfree ⊢
    simp only [hl, hleaf, hb, hpa, hnode, hlack, State.reach]
    split
    · refine ⟨_, x.expiry, ?_, htouch _ [va] hfree⟩
      have hl := hlost _ va hfree.1.dies
      simp only [hl]
      simp
    · exact hwalk _ hfree

theorem Calm.mapAccess {s : State} (h : Calm s) {va core n : Nat} {needs : Needs} (hv : va < 2 ^ 31) (hn : needs ∈ [1, 2, 3, 4]) :
    ∃ t e, s.mapAccess 1 core va n needs false = (t, .ok (span va n) (span va n) 0 e) ∧ Near s t := by
  obtain ⟨d, l, hc⟩ := h.ctx
  have hv' : s.viewsOf 1 = (s, []) := by simp [State.viewsOf, State.ctx?, hc, Tbl.find?, loadCtx]
  obtain ⟨t, e, ht, hn'⟩ := h.translate (core := core) hv hn
  exact ⟨t, e, by simp only [State.mapAccess, State.viewDamage, h.damaged, List.isEmpty_nil, Bool.true_or, if_true, bne_self_eq_false, Bool.false_eq_true, if_false, hv', claiming, List.map_nil, List.filter_nil, ht], hn'⟩

theorem Near.byte {s t : State} (h : Near s t) (a : Nat) : t.byte a = s.byte a := by
  obtain ⟨-, f, u, d, l, rfl⟩ := h
  rfl

theorem Near.readN {s t : State} (h : Near s t) (a n : Nat) : t.readN a n = s.readN a n := by
  rw [State.readN, State.readN, State.bytes_eq_map, State.bytes_eq_map]
  congr 1
  exact List.map_congr_left fun a _ => h.byte a

theorem Near.damageAt {s t : State} (h : Near s t) (l : List Nat) : t.damageAt l = 0 := by simp [State.damageAt, h.1.damaged]

theorem Calm.vread {s : State} (h : Calm s) {va core n : Nat} {needs : Needs} (hv : va < 2 ^ 31) (hn : needs ∈ [1, 2, 3, 4]) :
    ∃ t, s.vread 1 core va n needs = (t, .ok (s.readN va n)) ∧ Near s t := by
  obtain ⟨t, e, ht, hn'⟩ := h.mapAccess (core := core) (n := n) hv hn
  refine ⟨t, ?_, hn'⟩
  simp only [State.vread, ht, hn'.damageAt, State.readMapped]
  have : (span va n).map t.byte = s.bytes va n := by
    rw [State.bytes_eq_map]
    exact List.map_congr_left fun a _ => hn'.byte a
  simp [this, State.readN]

theorem Calm.readWords {s : State} (h : Calm s) (core : Nat) : ∀ vas : List Nat, (∀ va ∈ vas, va < 2 ^ 31) →
    ∃ t, s.readWords 1 core vas = (t, .ok [vas.map fun va => BitVec.ofNat 64 (s.readN va 8)]) ∧ Near s t := by
  intro vas
  induction vas generalizing s with
  | nil => exact fun _ => ⟨s, rfl, Near.refl h⟩
  | cons va l ih =>
    intro hl
    obtain ⟨t, ht, hn⟩ := h.vread (core := core) (n := 8) (needs := needsRead) (hl va (by simp)) (by decide)
    obtain ⟨u, hu, hn'⟩ := ih hn.1 fun a ha => hl a (by simp [ha])
    refine ⟨u, ?_, hn.trans hn'⟩
    have : (l.map fun va => BitVec.ofNat 64 (t.readN va 8)) = l.map fun va => BitVec.ofNat 64 (s.readN va 8) :=
      List.map_congr_left fun a _ => by rw [hn.readN]
    simp only [State.readWords, ht, hu, List.map_cons, this]

/-- A write below the tables keeps a calm state calm. -/
theorem Calm.ctxWrite {s : State} (h : Calm s) {core code va n : Nat} {vas : List Nat} {bs : List Byte} (hv : va + n ≤ 2 ^ 31) :
    ∃ t, s.ctxWrite 1 core code (span va n) vas 0 bs = (t, true) ∧ Calm t := by
  have hcap : ∀ l, s.captureUnits 1 l = s := by
    intro l
    induction l with
    | nil => rfl
    | cons a l ih => simp only [State.captureUnits, State.captureUnit, h.idle]; exact ih
  have e : s.ctxWrite 1 core code (span va n) vas 0 bs = (s.homeWrite code (span va n) bs, true) := by
    simp only [State.ctxWrite, State.localWrite, hcap, State.noteUnits, beq_self_eq_true, if_true]
  rw [e]
  have hb : ∀ q, 2 ^ 31 ≤ q → (s.homeWrite code (span va n) bs).byte q = s.byte q := by
    intro q hq
    rw [State.byte_homeWrite, State.byte_setAt_other]
    rw [mem_span]; omega
  obtain ⟨m, hm⟩ := setAt_mem (span va n) bs s
  refine ⟨_, rfl, ?_, ?_, ?_, ?_, ?_, ?_, ?_⟩
  · obtain ⟨d, l, hc⟩ := h.ctx
    exact ⟨d, l, by simp only [State.homeWrite, hm]; exact hc⟩
  · simp only [State.homeWrite, hm]; exact h.time
  · simp only [State.homeWrite, hm, State.repair, State.wakeWhere, State.mapGroups, h.damaged]; rfl
  · simp only [State.homeWrite, hm]; exact h.dies
  · simp only [State.homeWrite, hm]; exact h.idle
  · intro x hx
    rw [← h.table x hx, State.readN, State.readN, State.bytes_eq_map, State.bytes_eq_map]
    congr 1
    refine List.map_congr_left fun a ha => hb a ?_
    have hx' := (by decide : ∀ x ∈ loadEntries, 2 ^ 31 ≤ x.1) x hx
    rw [mem_span] at ha
    omega
  · simp only [State.homeWrite, hm]; exact h.tlb

theorem Calm.vwrite {s : State} (h : Calm s) (core : Nat) {va n v code : Nat} (hv : va + n ≤ 2 ^ 31) (hn : 0 < n) :
    ∃ t, s.vwrite 1 core va n v code = (t, .ok 0) ∧ Calm t := by
  obtain ⟨t, x, ht, hn⟩ := h.mapAccess (core := core) (n := n) (needs := needsWrite) (va := va) (by omega) (by decide)
  obtain ⟨t', hw, hc⟩ := hn.1.ctxWrite (core := core) (code := code) (va := va) (n := n) (vas := span va n) (bs := leBytes n v) hv
  exact ⟨t', by simp only [State.vwrite, ht, hw], hc⟩

theorem Calm.vwords {s : State} (h : Calm s) (core : Nat) : ∀ (ws : List Nat) (va : Nat), va + 8 * ws.length ≤ 2 ^ 31 →
    ∃ t, s.vwords 1 core va ws = (t, .ok 0) := by
  intro ws
  induction ws generalizing s with
  | nil => exact fun _ _ => ⟨s, rfl⟩
  | cons w l ih =>
    intro va hv
    rw [List.length_cons] at hv
    have e : va % 2 ^ 64 = va := Nat.mod_eq_of_lt (by omega)
    obtain ⟨t, ht, hc⟩ := h.vwrite core (va := va) (n := 8) (v := w) (code := 1) (by omega) (by decide)
    obtain ⟨u, hu⟩ := ih hc (va + 8) (by omega)
    exact ⟨u, by simp only [State.vwords, e, ht, hu]⟩

theorem Calm.frameFault {s : State} (h : Calm s) {ctx : Nat} (core : Nat) (hc : ctx = 1) :
    ∀ vas : List Nat, (∀ va ∈ vas, va < 2 ^ 31) → ∃ t, s.frameFault ctx core vas = (t, none) ∧ Near s t := by
  subst hc
  intro vas
  induction vas generalizing s with
  | nil => exact fun _ => ⟨s, rfl, Near.refl h⟩
  | cons va l ih =>
    intro hl
    obtain ⟨t, e, ht, hn⟩ := h.mapAccess (core := core) (n := 1) (needs := needsWrite) (hl va (by simp)) (by decide)
    obtain ⟨u, hu, hn'⟩ := ih hn.1 fun a ha => hl a (by simp [ha])
    exact ⟨u, by simp only [State.frameFault, ht, hu], hn.trans hn'⟩

/-- A calm state, by computation. -/
def isCalm (s : State) : Bool :=
  s.ctxs == [(1, loadCtx)] && s.time == 0 && s.damaged == [] && s.dies == [] && s.mirage.st == .idle && s.tlb == [] &&
    loadEntries.all fun x => s.readN x.1 8 == x.2
theorem calm_of {s : State} (h : isCalm s = true) : Calm s := by
  simp only [isCalm, Bool.and_eq_true, beq_iff_eq, List.all_eq_true] at h
  obtain ⟨⟨⟨⟨⟨⟨a, b⟩, c⟩, d⟩, e⟩, f⟩, g⟩ := h
  exact ⟨⟨0, 0, a⟩, b, c, d, e, g, by simp [f]⟩

def storeWords (s : State) (a : Nat) (ws : List Nat) : State := s.setBytes a (ws.flatMap (leBytes 8))
/-- The eight words at `a`, as the lemmas above give them. -/
def wordsAt (s : State) (a : Nat) : List W64 := ((List.range 8).map fun i => a + 8 * i).map fun va => BitVec.ofNat 64 (s.readN va 8)

/-- A KERNEL packet that is launched, its descriptor at 0x5000: entry at a header, one group of one thread. -/
def launching : State :=
  (storeWords (packet fun k => { k with img := [0, 1, 0, 0, 0, 0, 0x5000, 9], st := .launching }) 0x5000
    [0x40001000, 0, 2 ^ 32 + 1, 1, 0, 0, 64 * 2 ^ 32, 0]).setBytes 0x40001000 (leBytes 4 0xC7000000)

theorem witness_GroupLife_launch : ∃ k c s1 s2 ws h, launching.pkt? 2 = some k ∧ launching.ctx? k.ctx = some c ∧ k.st = .launching ∧
    k.paged = none ∧ k.ptype = 1 ∧ launching.sccFrozen k.owner = false ∧ k.w 6 % 64 = 0 ∧
    launching.readWords k.ctx k.core ((List.range 8).map fun i => k.w 6 + 8 * i) = (s1, .ok [ws]) ∧
    (let w := fun i => (ws.getD i 0).toNat
     s1.vread k.ctx k.core (w 0) 4 needsFetch = (s2, .ok h) ∧ s2.descCheck k w = none ∧ h / 2 ^ 24 = 0xC7 ∧ w 0 % 4 = 0) := by
  have hc : Calm launching := calm_of (by decide +kernel)
  obtain ⟨s1, h1, n1⟩ := hc.readWords 40 ((List.range 8).map fun i => 0x5000 + 8 * i) (by decide)
  obtain ⟨s2, h2, n2⟩ := n1.1.vread (core := 40) (n := 4) (va := 0x40001000) (needs := needsFetch) (by decide) (by decide)
  refine ⟨{ aPkt with img := [0, 1, 0, 0, 0, 0, 0x5000, 9], st := .launching }, loadCtx, s1, s2, wordsAt launching 0x5000,
    s1.readN 0x40001000 4, by decide +kernel, by decide +kernel, rfl, rfl, by decide, by decide +kernel, by decide, h1, ?_⟩
  have hw : ((wordsAt launching 0x5000).getD 0 0).toNat = 0x40001000 := by decide +kernel
  refine ⟨?_, ?_, ?_, ?_⟩
  · show s1.vread 1 40 ((wordsAt launching 0x5000).getD 0 0).toNat 4 needsFetch = _
    rw [hw]; exact h2
  · obtain ⟨-, f, u, d, l, rfl⟩ := n1.trans n2
    have : ∀ w : Nat → Nat, (moved launching f u d l).descCheck { aPkt with img := [0, 1, 0, 0, 0, 0, 0x5000, 9], st := .launching } w =
      (moved launching 0 [] 0 0).descCheck { aPkt with img := [0, 1, 0, 0, 0, 0, 0x5000, 9], st := .launching } w := by
      intro w
      unfold State.descCheck State.neverFits
      rfl
    rw [this]
    decide +kernel
  · rw [n1.readN]; decide +kernel
  · simp only [hw]

/-- A group that is saved, into the first frame of its context, at address 0, whatever the frame's length (log 6). -/
def saving : State := loneG fun g => { g with st := .saving, ret := .running }
theorem saving_frame (z : Nat) (hz : z ≤ 2 ^ 22) : ∃ gr k c s1 s2, saving.group? 0 = some gr ∧ saving.kernel? gr.kern = some k ∧
    saving.ctx? gr.ctx = some c ∧ gr.st = .saving ∧ saving.drained 0 gr = true ∧
    saving.free.2.frameFault gr.ctx gr.core (saving.free.2.frameVas gr.ctx z c.freeFrame) = (s1, none) ∧
    s1.vwords gr.ctx gr.core ((c.saveb.toNat + c.freeFrame * 2 ^ 22) % 2 ^ 64)
      [k.id + gr.lin * 2 ^ 32, gr.saveTime, min gr.holds.length 7 + gr.returned.gst * 2 ^ 3 + gr.cause * 2 ^ 6, z, 0, 0, 0, 0]
        = (s2, .ok 0) := by
  have hc : Calm saving.free.2 := calm_of (by decide +kernel)
  have hf : finds saving (fun gr k _ => gr.ctx == 1 && gr.st == .saving && saving.drained 0 gr) = true := by decide +kernel
  unfold finds at hf
  split at hf
  · rename_i gr t hg ht
    cases hk : saving.kernel? gr.kern with
    | none => simp [hk] at hf
    | some k =>
      simp only [hk, Option.map_some, Option.getD_some, Bool.and_eq_true, beq_iff_eq] at hf
      have hcx : saving.ctx? 1 = some loadCtx := by decide +kernel
      have hcy : saving.free.2.ctx? 1 = some loadCtx := by decide +kernel
      have hv : ∀ va ∈ saving.free.2.frameVas gr.ctx z loadCtx.freeFrame, va < 2 ^ 31 := by
        have hb : loadCtx.saveb.toNat = 0 := by decide +kernel
        have hz' : loadCtx.freeFrame = 0 := by decide +kernel
        intro va hva
        have hw : (saving.free.2.viewsOf 1).2 = [] := by decide +kernel
        simp only [State.frameVas, hf.1.1, hcy, Option.map_some, Option.getD_some, hb, hz', hw, claiming, List.filter_nil,
          List.isEmpty_nil, if_true, List.map_cons, List.map_nil, List.mem_flatMap, List.mem_range, List.mem_singleton] at hva
        obtain ⟨i, hi, rfl⟩ := hva
        omega
      obtain ⟨s1, h0, n1⟩ := hc.frameFault gr.core hf.1.1 _ hv
      obtain ⟨s2, h1⟩ := n1.1.vwords gr.core [k.id + gr.lin * 2 ^ 32, gr.saveTime,
        min gr.holds.length 7 + gr.returned.gst * 2 ^ 3 + gr.cause * 2 ^ 6, z, 0, 0, 0, 0] 0 (show 0 + 8 * 8 ≤ 2 ^ 31 by decide)
      refine ⟨gr, k, loadCtx, s1, s2, hg, hk, by rw [hf.1.1, hcx], hf.1.2, hf.2, h0, ?_⟩
      rw [hf.1.1, show (loadCtx.saveb.toNat + loadCtx.freeFrame * 2 ^ 22) % 2 ^ 64 = 0 by decide +kernel]
      exact h1
  · simp at hf
theorem witness_GroupLife_save : ∃ gr k c s1 s2, saving.group? 0 = some gr ∧ saving.kernel? gr.kern = some k ∧
    saving.ctx? gr.ctx = some c ∧ gr.st = .saving ∧ saving.drained 0 gr = true ∧
    (let size := 64 + Config.freeNat saving.fresh % (2 ^ 22 - 63)
     saving.free.2.frameFault gr.ctx gr.core (saving.free.2.frameVas gr.ctx size c.freeFrame) = (s1, none) ∧
     s1.vwords gr.ctx gr.core ((c.saveb.toNat + c.freeFrame * 2 ^ 22) % 2 ^ 64)
      [k.id + gr.lin * 2 ^ 32, gr.saveTime, min gr.holds.length 7 + gr.returned.gst * 2 ^ 3 + gr.cause * 2 ^ 6, size, 0, 0, 0, 0]
        = (s2, .ok 0)) :=
  saving_frame _ (by have := Nat.mod_lt (Config.freeNat saving.fresh) (show 2 ^ 22 - 63 > 0 by decide); omega)

/-- A QCB at 0x2000: sentinel at 0x40, context 1, cluster 5, its RCB at 0x5000, which is all zero. -/
def attaching : State :=
  (storeWords (lone 0) 0x2000 [0x40, 0, 1 + 5 * 2 ^ 32, 0x5000]).setPort 1 { Port.reset with qaddr := 0x2000 }
theorem witness_QueueCommands_attach : ∃ s1 ws, attaching.queueAt 0x2000 = none ∧ attaching.qcbBad 0x2000 = false ∧
    (attaching.port 1).qaddr.toNat = 0x2000 ∧ attaching.readN (0x2000 + 8 * 2) 8 % 2 ^ 12 = 1 ∧ attaching.readN (0x2000 + 8 * 3) 8 = 0x5000 ∧
    (∃ c, attaching.ctx? 1 = some c ∧ c.st ≠ .destroying) ∧ (attaching.queues.filter fun q => q.2.clu == 5 && !q.2.detached).length < 64 ∧
    (attaching.port 1).attach = none ∧ bit (attaching.port 1).qcmd.toNat 31 = false ∧
    (attaching.setPort 1 { attaching.port 1 with attach := none }).readWords 1 (coreOfCluster 5)
      ((List.range 8).map fun i => 0x5000 + 8 * i) = (s1, .ok [ws]) ∧ 0x5000 % 64 = 0 ∧ rcbBad ws = false := by
  have hc : Calm (attaching.setPort 1 { attaching.port 1 with attach := none }) := calm_of (by decide +kernel)
  obtain ⟨s1, h1, -⟩ := hc.readWords (coreOfCluster 5) ((List.range 8).map fun i => 0x5000 + 8 * i) (by decide)
  exact ⟨s1, wordsAt (attaching.setPort 1 { attaching.port 1 with attach := none }) 0x5000, by decide +kernel, by decide +kernel, by decide +kernel, by decide +kernel, by decide +kernel,
    ⟨loadCtx, by decide +kernel, by decide⟩, by decide +kernel, by decide +kernel, by decide +kernel, h1, rfl, by decide +kernel⟩

/-- A REGION packet that pushes the region of the zero RCB at 0x5000, over region 0. -/
def pushing : State :=
  { packet fun k => { k with img := [0, 5, 0, 0, 0, 0, 0x5000] } with regions := [(0, regionOf 1 5 0x6000 none 0 [])] }
theorem witness_PacketLife_region : ∃ k g s1 s2 ws v, pushing.pkt? 2 = some k ∧ k.st = .ready ∧ k.paged = none ∧ k.ptype = 5 ∧
    pushing.queue? k.queue = some aQueue ∧ Tbl.find? pushing.regions aQueue.region = some g ∧ k.w 6 ≠ 0 ∧ k.w 6 % 64 = 0 ∧ rcbBad ws = false ∧
    pushing.readWords k.ctx k.core ((List.range 8).map fun i => k.w 6 + 8 * i) = (s1, .ok [ws]) ∧
    s1.vwrite k.ctx k.core (k.w 6) 8 g.rcb.toNat 1 = (s2, .ok v) := by
  have hc : Calm pushing := calm_of (by decide +kernel)
  obtain ⟨s1, h1, n1⟩ := hc.readWords 40 ((List.range 8).map fun i => 0x5000 + 8 * i) (by decide)
  obtain ⟨s2, h2, -⟩ := n1.1.vwrite 40 (va := 0x5000) (n := 8) (v := 0x6000) (code := 1) (by decide) (by decide)
  exact ⟨{ aPkt with img := [0, 5, 0, 0, 0, 0, 0x5000] }, regionOf 1 5 0x6000 none 0 [], s1, s2, wordsAt pushing 0x5000, 0,
    by decide +kernel, rfl, rfl, by decide +kernel, by decide +kernel, by decide +kernel, by decide +kernel, by decide +kernel,
    by decide +kernel, h1, h2⟩

/-- A packet at 0x3000 behind the queue's last one: a JOIN with one dependence, or a REGION packet that pushes. -/
def consuming (t : Nat) : State :=
  storeWords (queue 0x3000) 0x3000 (if t = 5 then [0, 5, 0, 0, 0, 0, 0x5000] else [0, t, 1])
theorem witness_PacketLife_consume (t : Nat) (ht : t = 2 ∨ t = 5) : ∃ s1 s2 s3 x v ws,
    (consuming t).mapAccess 1 40 0x40000000 8 needsRead false = (s1, .ok (span 0x40000000 8) (span 0x40000000 8) 0 x) ∧
    s1.damageAt (span 0x40000000 8) = 0 ∧ leNat (s1.readMapped (span 0x40000000 8) 0) = 0x3000 ∧
    s1.readWords 1 40 ((List.range 8).map fun i => (0x3000 : W64).toNat + 8 * i) = (s2, .ok [ws]) ∧
    s2.rmw 1 40 ((0x3000 : W64) + 0x10).toNat (fun w => w % 2 ^ 31 + 2 ^ 31 + 5 * 2 ^ 32 + w / 2 ^ 39 % 2 ^ 25 * 2 ^ 39) = (s3, .ok v) ∧
    bits (ws.getD 1 0).toNat 0 4 = t ∧ (consuming t).rejects aQueue (fun i => (ws.getD i 0).toNat) = false := by
  have hc : Calm (consuming t) := calm_of (by rcases ht with rfl | rfl <;> decide +kernel)
  obtain ⟨s1, x, h1, n1⟩ := hc.mapAccess (core := 40) (n := 8) (va := 0x40000000) (needs := needsRead) (by decide) (by decide)
  obtain ⟨s2, h2, n2⟩ := n1.1.readWords 40 ((List.range 8).map fun i => (0x3000 : W64).toNat + 8 * i) (by decide)
  obtain ⟨s3, y, h3, n3⟩ := n2.1.mapAccess (core := 40) (n := 8) (va := ((0x3000 : W64) + 0x10).toNat) (needs := needsBoth)
    (by decide) (by decide)
  have hm : leNat (s1.readMapped (span 0x40000000 8) 0) = s1.readN 0x40000000 8 := by
    simp [State.readMapped, State.readN, State.bytes_eq_map]
  have h4 : ∃ s4 v, s2.rmw 1 40 ((0x3000 : W64) + 0x10).toNat
      (fun w => w % 2 ^ 31 + 2 ^ 31 + 5 * 2 ^ 32 + w / 2 ^ 39 % 2 ^ 25 * 2 ^ 39) = (s4, .ok v) := by
    simp only [State.rmw, h3, n3.damageAt]
    exact ⟨_, _, rfl⟩
  obtain ⟨s4, v, h4⟩ := h4
  refine ⟨s1, s2, s4, x, v, ((List.range 8).map fun i => (0x3000 : W64).toNat + 8 * i).map fun va => BitVec.ofNat 64 (s1.readN va 8),
    h1, n1.damageAt _, ?_, h2, h4, ?_, ?_⟩
  · rw [hm, n1.readN]; rcases ht with rfl | rfl <;> decide +kernel
  all_goals
    simp only [n1.readN]
    rcases ht with rfl | rfl <;> decide +kernel

/-! What the completion of the device's steps asks for, clause by clause; the launch of a kernel, the saving of a group and an
image that passes are `witness_GroupLife_launch`, `witness_GroupLife_save` and `witness_BootAndAttest_passes`, and the commands
of a context and of the debugger and the Mirage are `witness_ContextCommands` and `witness_DebugMirageCommands`. -/

theorem witness_DeviceCompletes_commands :
    ((0xFFF : BitVec 12) ≠ 0 ∧ okCcb.ctx? (0xFFF : BitVec 12).toNat = none ∧ okCcb.ccbValid (okCcb.port 1).cxaddr.toNat = true) ∧
    (∀ x ∈ [(CtxState.saved, false), (.saved, true), (.running, false), (.stopped, false)],
      ((ctxd fun c => { c with st := x.1, pre := x.2 }).ctx? 1).map (fun c => (c.st, c.pre)) = some x) ∧
    (let s := (lone 0).setPort 0 { Port.reset with dbgtgt := 1 }
     let stopped := s.modThread 0 0 fun t => { t with run := .stopped none }
     s.dbgTarget 0 1 1 = .groups [0] ∧ (match stopped.dbgTarget 0 1 0 with
       | .thread 0 t => stopped.thread? 0 t.tid == some t
       | _ => false) = true ∧ (stopped.dbgThread 0 1).map (fun x => (x.1, x.2.isStopped)) = some (0, true)) ∧
    State.reset.boot.st = .waiting ∧ (State.reset.port 1).attBusy = false ∧
    fwwOk ((0xFFFC000001 : W64) &&& 0x000FFFFFFFF00001) 26 = true ∧ fwwOk 0 ((40 : W64).setWidth 32 &&& 0x3F) = true ∧
    (0 : W32).toNat % 2 ^ 6 = 0 ∧ (16 : W32).toNat % 2 ^ 6 = 16 ∧ (40 : W32).toNat % 2 ^ 6 = 40 ∧
    (1 ≤ (1 : BitVec 9).toNat ∧ (288 : BitVec 9).toNat ≤ 288) ∧ 4 ≤ (16 : W32).toNat % 2 ^ 5 ∧
    (∀ x ∈ ({ lone 0 with ctxs := [(1, loadCtx)] }).ctxs, x.2.tdies.getLsbD 7 = false) ∧
    (∀ x ∈ (State.reset.setDie 7 { Die.reset with failed := [(10, 7)] }).dies, ∀ y ∈ x.2.failed, y.1 ≠ 11) := by
  and_intros <;> decide +kernel

theorem witness_DeviceCompletes_links :
    (State.reset.link 31).st = .down ∧ ({ Mgmt.reset with nodeid := 511 }).nodeid.toNat % 512 ≠ 0 ∧
    (let s := { port { Link.reset with st := .spilling } with reqs := [⟨4, .device, 1, some 30, 0, 4, false, 0⟩] }
     (s.link 31).st ≠ .down ∧ (∀ r ∈ s.reqs, r.port ≠ some 31) ∧ (s.link 31).wadi = [] ∧ (s.link 31).lastOut + 10000000 ≤ s.time) ∧
    (let s := port { Link.reset with st := .training, since := 9000000 }
     s.time = (s.link 31).since + 1000000 ∧ (s.link 31).dark = 0 ∧ 4 ≤ countWaves 0xF) ∧
    (let s := port { Link.reset with st := .restripe, since := 9980000 }
     s.time = (s.link 31).since + 20000) ∧
    (let s := port { Link.reset with st := .up, act := 0xFFFF, egress := [flit], lastOut := 9950000 }
     (s.link 31).act.getLsbD 15 = true ∧ (s.link 31).dark.getLsbD 15 = false ∧ (s.link 31).egress ≠ [] ∧
     4 ≤ countWaves ((s.link 31).act &&& ~~~BitVec.ofNat 16 (2 ^ 15)) ∧ (s.link 31).lastOut + 50000 ≤ s.time) ∧
    (let s := port { Link.reset with st := .degraded, act := 0x7FFF, lit := [(15, 9900000)] }
     Link.held (s.link 31) s.time 15 = true ∧ Tbl.find? (s.link 31).lit 14 = none) ∧
    (port { Link.reset with st := .degraded, act := 0x7FFF }).link 31 = { Link.reset with st := .degraded, act := 0x7FFF } ∧
    (let s := port { Link.reset with st := .replay, since := 9990000, fails := 6 }
     (s.link 31).since + 10000 ≤ s.time ∧ (s.link 31).fails < 7) ∧
    (let s := { State.reset with time := 1000000, reqs := [⟨4, .device, 1, some 0, 0, 4, false, 0⟩] }
     s.reqs.map (fun (r : LinkReq) => (r.whose, decide (r.time + 1000000 ≤ s.time))) = [(.device, true)]) ∧
    (∀ k ∈ [{ Cluster.reset with gate := .idle, idleCount := 64 }, { Cluster.reset with gate := .handshake },
      { Cluster.reset with gate := .waking, waitUntil := some 0 }, { Cluster.reset with gate := .waking, step := 1 },
      { Cluster.reset with gate := .waking, step := 3 }], (gated k).cluster 127 = k) := by
  and_intros <;> decide +kernel

theorem witness_DeviceCompletes_outside :
    ([0xFF] : List Byte).length ≤ 512 ∧ 2 ^ 40 - 4096 + 4096 ≤ 2 ^ 40 ∧ (∀ i < 8, State.reset.hostMay (2 ^ 40 - 8 + i) = true) ∧
    (let s := { State.reset with mgmt := { Mgmt.reset with expb := [(15, 0x10007)], exps := [(15, 16)] } }
     (({ s with links := [(31, { Link.reset with st := .up })] }).link 31).st = .up ∧ (3, 31) ∉ s.mgmt.frozen ∧ s.exported 0x10000 256 0 = true ∧ peerSized 0x10000 256 = true ∧
     s.damageAt (span 0x10000 256) = 0) ∧ (State.reset.link (0x3FFF : Nat)).waiting = [] ∧
    (State.reset.cluster 127).unposted = [] ∧
    (let s := loneT fun t => { t with run := .waiting (.monitor (some 0)) }
     finds s (fun gr _ t => gr.runs && t.run == .waiting (.monitor (some 0))) = true ∧ 0 ≤ s.time) ∧
    finds (loneT fun t => { t with late := [⟨0, none, 0x42, 1, 0, 0, false, false⟩] }) (fun _ _ t => t.dueLate.isSome) = true ∧
    finds (pair fun g => (g.modThread 0 fun t => { t with run := .waiting .converge }).modThread 1 fun t =>
      { t with run := .waiting (.barrier 0) }) (fun gr _ _ => gr.runs && gr.mismatched 0) = true ∧
    finds (pair fun g => (g.modThread 0 fun t => { t with run := .waiting (.barrier 1) }).modThread 1 fun t =>
      { t with run := .waiting (.barrier 0) }) (fun gr _ _ => gr.deadlocked) = true ∧
    State.reset.mgmt.curbase = 0 ∧ State.reset.mgmt.tbbase = 0 ∧ State.reset.cores = [] ∧
    finds (lone 0) (fun gr _ _ => gr.core == 0 && gr.st.resident) = true ∧
    (let s := State.reset.setCluster 127 { Cluster.reset with gate := .gated }
     (s.die 7).lost = false ∧ s.oasisLost = false ∧ s.groups = [] ∧ (s.core 1023).charges = [] ∧ (s.core 1023).busy = [] ∧
     (s.core 1023).slipDue = [] ∧ s.samples = [] ∧ (s.cluster 127).gate = .gated) ∧
    (let s := loneT fun t => { t with again := some 4 }
     finds s (fun gr _ _ => s.issues gr && ((gr.liveIn 0).filter fun t => t.ready && t.again.isSome).map Thread.tid == [0] &&
       (s.envAt 0 0 0).isSome && gr.threads.all fun x => x.2.tid == x.1) = true ∧ s.selected = []) := by
  and_intros <;> decide +kernel

theorem witness_DeviceCompletes_work :
    (∀ t ∈ [0, 2, 6], let s := packet fun k => { k with img := [0, BitVec.ofNat 64 t] }
      ((s.pkt? 2).map fun k => (k.ptype, k.st, k.paged, s.sccFrozen k.owner)) = some (t, .ready, none, false)) ∧
    (1, aPkt.owner) ∉ (packet id).mgmt.frozen ∧
    (let s := packet fun k => { k with img := [0, 4, 0, 0, 0, 0, 0x40000000, 0], st := .launching }
     ((s.pkt? 2).map fun k => k.ptype == 4 && match s.readBlocks k.ctx (coreOfCluster k.owner) (k.w 6) (k.w 7 % 2 ^ 8) with
       | (_, .ok bs) => badBlock (k.w 6) bs == none
       | _ => false) = some true) ∧
    (finds (loneG fun g => g.modThread 0 fun t => { t with run := .exited }) fun gr _ _ => gr.st.issues && gr.failing == none &&
      gr.ending == none && !gr.dirty && (loneG fun g => g.modThread 0 fun t => { t with run := .exited }).workDone 0 gr) = true ∧
    (finds (loneG fun g => { g with active := true }) fun gr _ _ => gr.runs && gr.active) = true ∧
    (finds (loneG fun g => { g with count := 100000 }) fun gr _ _ => gr.runs && (lone 0).hangLimit != 0 && (lone 0).hangLimit ≤ gr.count) = true ∧
    (finds (loneG fun g => { g with st := .restoring }) fun gr _ _ => gr.st == .restoring &&
      ((lone 0).ctx? gr.ctx).map Ctx.st == some .running) = true ∧
    (let s := queue 0
     (s.queue? 3).map (fun q => (s.mayConsume q, s.regionPending 3, s.mirage.queue)) = some (true, false, none) ∧
     (match s.mapAccess 1 (coreOfCluster (s.substitute 5)) 0x40000000 8 needsRead false with
      | (s1, .ok pas _ node _) => node == 0 && s1.damageAt pas == 0 && leNat (s1.readMapped pas 0) / 64 == 0
      | _ => false) = true) ∧
    (let s := { packet fun k => { k with st := .finished, status := 1, wrote := true } with kernels := [] }
     ((s.pkt? 2).map fun k => !s.pktHeld k && !s.sccFrozen k.owner && match s.writeStatus 2 k with
       | (s1, none) => !s1.replayStops k && match s1.successors 2 k (k.status != 1 && s1.propagates k.region) ((List.range k.nsucc).drop k.released) with
         | (s2, none) => s2.kernels == [] && s2.mirage.queue == none
         | _ => false
       | _ => false) = some true) ∧
    ((oneCore.kernel? ((1 : BitVec 12).toNat * 2 ^ 32 + (1 : BitVec 32).toNat)).map fun k =>
      oneCore.dispatches 1 k && k.st == .placing && k.next == (0 : BitVec 32).toNat &&
      match oneCore.tenantReady (((oneCore.ctx? 1).map Ctx.tenant).getD 0) with
      | (s1, paid) => paid && s1.savedGroup (2 ^ 32 + 1) 0 == none && s1.chooseCore (2 ^ 32 + 1) k none == some 0) = some true ∧
    2 ^ 40 - 1 < 2 ^ 40 ∧
    (let r := { Port.reset with prqbase := 0x1000, evbase := 0x2000, prqwr := 15, evwr := 15, reqs := [⟨0x10000, 1, 0, 1, 5⟩],
                                evs := [⟨5, 7, 1, 0⟩] }
     ringRoom r.prqbase r.prqctl r.prqwr r.prqrd = true ∧ ringRoom r.evbase r.evctl r.evwr r.evrd = true) := by
  and_intros <;> decide +kernel

/-- R354: two bundles of one warp that hold one key are one key issue, of both threads. -/
theorem test_key_issue_spans_bundles :
    let s := { pair with mgmt := { Mgmt.reset with spctl := 0x21 } }
    let b := fun t => (⟨[], 0, 0, some (.ldG 2 0 2 0 31), 0, [t], [t]⟩ : Bundle)
    let one := s.issueBundle (b 0)
    let two := one.issueBundle (b 1)
    ((one.thread? 0 0).bind Thread.part).isSome = true ∧ (one.thread? 0 1).map Thread.part = (one.thread? 0 0).map Thread.part ∧
    (two.thread? 0 1).map Thread.part = (one.thread? 0 0).map Thread.part ∧ (two.core 0).sample = 1 := by decide +kernel

end Sys2Proof.Machine.Tests
end

section
namespace Sys2Proof.Machine

/-! ### The states of the contexts, and what a translation leaves as it was -/

/-- The contexts and the dies, which most operations leave as they were. -/
def State.parts (s : State) : Tbl Ctx × Tbl Die := (s.ctxs, s.dies)

/-- What stands of them whatever a context's counters, queues and translations do: each one's state and lost dies, and the
dies themselves. -/
def standingOf (p : Tbl Ctx × Tbl Die) : List (Nat × CtxState × BitVec 8) × Tbl Die :=
  (p.1.map fun c => (c.1, c.2.st, c.2.dlost), p.2)

abbrev State.standing (s : State) : List (Nat × CtxState × BitVec 8) × Tbl Die := standingOf s.parts

theorem standingOf_modify (t : Tbl Ctx) (ds : Tbl Die) (id : Nat) (f : Ctx → Ctx)
    (hf : ∀ c, (f c).st = c.st ∧ (f c).dlost = c.dlost) :
    standingOf (Tbl.modify t id f, ds) = standingOf (t, ds) := by
  refine Prod.ext ?_ rfl
  show (Tbl.modify t id f).map _ = t.map _
  induction t with
  | nil => rfl
  | cons c t ih =>
    rw [Tbl.modify]
    split
    · simp [hf]
    · simpa using ih

@[simp] theorem State.modCtx_standing (s : State) (id : Nat) (f : Ctx → Ctx) (hf : ∀ c, (f c).st = c.st ∧ (f c).dlost = c.dlost) :
    (s.modCtx id f).standing = s.standing := standingOf_modify s.ctxs s.dies id f hf

/-- What `standing` says of one context. -/
theorem State.find?_standing (s : State) (id : Nat) :
    Tbl.find? s.standing.1 id = (s.ctx? id).map fun c => (c.st, c.dlost) := by
  show Tbl.find? (s.ctxs.map _) id = (Tbl.find? s.ctxs id).map _
  induction s.ctxs with
  | nil => rfl
  | cons c t ih =>
    rw [Tbl.find?]
    split
    · rename_i hc
      simp [Tbl.find?, hc]
    · rename_i hc
      simpa [Tbl.find?, hc] using ih

theorem State.die_of_standing {s t : State} (h : t.standing = s.standing) (d : Nat) : t.die d = s.die d :=
  congrArg (fun p : List (Nat × CtxState × BitVec 8) × Tbl Die => Tbl.get Die.reset p.2 d) h

/-- `t` is `s` but for what translating an address may leave: counters and dies of the contexts, what is cached, and the free
values used (R87, R267, R281). -/
structure State.Translated (s t : State) : Prop where
  eq : { s with ctxs := t.ctxs, tlb := t.tlb, views := t.views, fresh := t.fresh } = t
  standing : t.standing = s.standing

namespace State.Translated

variable {s t u : State}

theorem refl (s : State) : s.Translated s := ⟨rfl, rfl⟩

theorem trans (h : s.Translated t) (h' : t.Translated u) : s.Translated u :=
  ⟨by rw [← h'.eq, ← h.eq], h'.standing.trans h.standing⟩

theorem issuing (h : s.Translated t) : t.issuing = s.issuing := by rw [← h.eq]
theorem groups (h : s.Translated t) : t.groups = s.groups := by rw [← h.eq]
theorem kernels (h : s.Translated t) : t.kernels = s.kernels := by rw [← h.eq]

theorem issuer (h : s.Translated t) : t.issuer = s.issuer := by
  simp only [State.issuer, State.group?, State.kernel?, h.issuing, h.groups, h.kernels]

/-- A view entry that is read at its home takes a lease (R281). -/
theorem entry (h : s.Translated t) (b : Bool) (ctx exp : Nat) (vs : List ViewEntry) : s.Translated
    (if b then { t.modCtx ctx (fun c => { c with lhor := max c.lhor exp }) with views := vs } else t) := by
  cases b
  · exact h
  · exact h.trans ⟨rfl, t.modCtx_standing _ _ fun _ => ⟨rfl, rfl⟩⟩

end State.Translated

section

variable {r s : State} (h : r.Translated s)
include h

theorem State.free_translated : r.Translated s.free.2 := h.trans ⟨rfl, rfl⟩

theorem State.touch_translated (ctx : Nat) (pas : List Nat) : r.Translated (s.touch ctx pas) :=
  h.trans ⟨rfl, s.modCtx_standing _ _ fun _ => ⟨rfl, rfl⟩⟩

theorem State.tlbFill_translated (ctx core va e lvl : Nat) : r.Translated (s.tlbFill ctx core va e lvl).2 :=
  h.trans ⟨rfl, s.modCtx_standing _ _ fun _ => ⟨rfl, rfl⟩⟩

theorem State.walkFor_translated (ctx core va : Nat) (needs : Needs) (tdies : Bool) :
    r.Translated (s.walkFor ctx core va needs tdies).1 := by
  unfold State.walkFor; grind [State.touch_translated, State.tlbFill_translated]

theorem State.translate_translated (ctx core va : Nat) (needs : Needs) :
    r.Translated (s.translate ctx core va needs).1 := by
  unfold State.translate; grind [State.free_translated, State.touch_translated, State.walkFor_translated]

end

theorem State.mapBytes_translated {r s : State} (ctx core : Nat) (needs : Needs) (vas : List Nat) :
    r.Translated s → r.Translated (s.mapBytes ctx core needs vas).1 := by
  fun_induction State.mapBytes s ctx core needs vas <;> grind [State.translate_translated]

theorem State.viewEntries_translated {r s : State} (ctx vtab k : Nat) :
    r.Translated s → r.Translated (s.viewEntries ctx vtab k).1 := by
  intro h
  induction k with
  | zero => exact h
  | succ k ih =>
    have hfree : ∀ b : Bool, r.Translated
        (if b then (s.viewEntries ctx vtab k).1.free else (0, (s.viewEntries ctx vtab k).1)).2 := by
      grind [State.free_translated]
    unfold State.viewEntries
    dsimp only
    split
    · exact hfree _
    · exact (hfree _).entry _ _ _ _

section

variable {r s : State} (h : r.Translated s)
include h

theorem State.viewsOf_translated (ctx : Nat) : r.Translated (s.viewsOf ctx).1 := by
  unfold State.viewsOf; grind [State.viewEntries_translated]

theorem State.mapAccess_translated (ctx core va n : Nat) (needs : Needs) (marked : Bool) :
    r.Translated (s.mapAccess ctx core va n needs marked).1 := by
  unfold State.mapAccess; grind [State.viewsOf_translated, State.translate_translated, State.mapBytes_translated]

theorem State.vread_translated (ctx core va n : Nat) (needs : Needs) : r.Translated (s.vread ctx core va n needs).1 := by
  unfold State.vread; grind [State.mapAccess_translated]

theorem State.fetch_translated (gr : Group) (pc : W64) : r.Translated (s.fetch gr pc).1 :=
  State.vread_translated h ..

end

end Sys2Proof.Machine
end

section
namespace Sys2Proof.Machine

/-! ### The package after reset: its tables list nothing, so every part reads as its own reset value -/

@[simp] theorem State.core_reset (n : Nat) : State.reset.core n = Core.reset := rfl
@[simp] theorem State.die_reset (n : Nat) : State.reset.die n = Die.reset := rfl
@[simp] theorem State.link_reset (n : Nat) : State.reset.link n = Link.reset := rfl
@[simp] theorem State.port_reset (n : Nat) : State.reset.port n = Port.reset := rfl
@[simp] theorem State.ctx?_reset (n : Nat) : State.reset.ctx? n = none := rfl
@[simp] theorem State.boot_reset : State.reset.boot = Boot.reset := rfl
@[simp] theorem State.mgmt_reset : State.reset.mgmt = Mgmt.reset := rfl

/-- Settles O36: each part at its reset value. -/
theorem resetValues : Obligations.ResetValues := by
  refine ⟨rfl, ?boot, ?locked, ?tperiod, ?gwdlim, ?fwwb, ?fwws, rfl, ?core, ?die, ?link, ?port, State.ctx?_reset⟩
  case boot | locked => rw [State.boot_reset]; rfl
  case tperiod | gwdlim | fwwb | fwws => rw [State.mgmt_reset]; rfl
  case core => intro c; rw [State.core_reset]; exact ⟨rfl, rfl⟩
  case die => intro d; rw [State.die_reset]; exact ⟨rfl, rfl, rfl, rfl⟩
  case link => intro l; rw [State.link_reset]; exact ⟨rfl, rfl, rfl, rfl⟩
  case port => intro p; rw [State.port_reset]; exact ⟨rfl, rfl, rfl, rfl⟩

end Sys2Proof.Machine
end

section
namespace Sys2Proof.Machine

/-! ### One step -/

/-- Only MOVX reads the word that follows it (R63). The fifth arm of the opcode's match is the one that differs. -/
theorem decodeWord_ext {w : Nat} (h : w / 2 ^ 24 ≠ 4) (x y : Option Nat) : decodeWord w x = decodeWord w y := by
  unfold decodeWord
  generalize w / 2 ^ 24 = op at h
  delta decodeWord.match_3
  dsimp only
  iterate 4 refine dite_congr rfl (fun _ => rfl) fun _ => ?_
  rw [dif_neg h, dif_neg h]

theorem readWord_word {t : Thread} {w x : Nat} {i : Instr} (hc : classSub t.pos.hdr w = none)
    (hd : decodeWords [w, x] = .ok i) : readWord t w x = .word i := by
  simp only [readWord, hc, hd]

/-- The word of one word that stands at a thread's position (R52, R56). -/
theorem State.look_word {s s' : State} {e : Env} {w : Nat} {i : Instr} (hr : e.t.rep = none)
    (hf : s.fetch e.gr e.t.pos.pc = (s', .ok w)) (hw : w / 2 ^ 24 ≠ 0x04) (hc : classSub e.t.pos.hdr w = none)
    (hd : decodeWords [w] = .ok i) : s.look e = (s', .word i) := by
  have hd' : decodeWords [w, 0] = .ok i := (decodeWord_ext hw (some 0) none).trans hd
  have hmovx : ¬(w / 2 ^ 24 == 4 && (classSub e.t.pos.hdr w).isNone) = true := by
    simp only [Bool.and_eq_true, beq_iff_eq, hw, false_and, not_false_iff]
  simp only [State.look, hr, hf, if_neg hmovx, readWord_word hc hd']

/-- A MOVX that stands at a thread's position, with the word that follows (R63). -/
theorem State.look_movx {s s' s'' : State} {e : Env} {w x : Nat} {i : Instr} (hr : e.t.rep = none)
    (hf : s.fetch e.gr e.t.pos.pc = (s', .ok w)) (hw : w / 2 ^ 24 = 0x04) (hc : classSub e.t.pos.hdr w = none)
    (hl : 1 < e.t.pos.left) (hf' : s'.fetch e.gr (e.t.pos.pc + 4) = (s'', .ok x)) (hd : decodeWords [w, x] = .ok i) :
    s.look e = (s'', .word i) := by
  have hmovx : (w / 2 ^ 24 == 4 && (classSub e.t.pos.hdr w).isNone) = true := by
    simp only [hw, hc, Option.isNone_none, beq_self_eq_true, Bool.and_self]
  simp only [State.look, hr, hf, if_pos hmovx, if_neg (Nat.not_le.mpr hl), hf', readWord_word hc hd]

theorem State.runs_of_issuer_none {s : State} (i : Instr) (h : s.issuer = none) : s.runs i = exec i s := by
  simp only [State.runs, h]

/-- A word that leads its thread to no fetch fault has its own meaning (R146). -/
theorem State.runs_of_leadsOn_none {s : State} {e : Env} {i : Instr} (h : s.issuer = some e)
    (hl : (s.leadsOn e i).2 = none) : s.runs i = exec i s := by
  simp only [State.runs, h]
  split
  · rename_i he ht
    cases he
    rw [ht, hl, ite_self]
  · rfl

theorem State.runs_of_not_wentOn {s t : State} {e : Env} {i : Instr} (h : s.issuer = some e) (ht : exec i s = .next t)
    (hw : e.wentOn t = false) : s.runs i = .next t := by
  simp [State.runs, h, ht, hw]

/-- A word that leads its thread to an address that cannot be fetched takes that fetch's fault (R146). -/
theorem State.runs_of_leadsOn {s t : State} {e : Env} {i : Instr} {code sub : Byte} {a : W64} (h : s.issuer = some e)
    (ht : exec i s = .next t) (hw : e.wentOn t = true) (hl : (s.leadsOn e i).2 = some (code, sub, a)) :
    s.runs i = .next ((s.pop.faultAt e code sub a).passed s.issuing.head?) := by
  simp [State.runs, h, ht, hw, hl]

/-- A selected thread that stands at its word has that word run next, in the state its fetch left (R9, R52, R62). -/
theorem step_of_look {s s' : State} {e : Env} {h : Issue} {l : List Issue} {i : Instr} (ho : s.oasisLost = false)
    (hi : s.issuing = h :: l) (he : s.issuer = some e) (hrun : e.t.run = .runnable) (hpc : e.t.pos.pc.toNat = h.key)
    (hst : e.gr.st = .running ∨ e.gr.st = .dumping) (hlook : s.look e = (s', .word i)) : step s = s'.runs i := by
  have hs : e.stands h.key = true := by
    rcases hst with hst | hst <;> simp [Env.stands, hrun, hpc, hst]
  have hb : e.heldBack i = false := by
    rcases hst with hst | hst <;> simp [Env.heldBack, hst]
  have hh : s.head = .run i s' := by
    simp [State.head, hi, he, hs, hlook, hb]
  simp [step, State.turn, ho, hi, hh]

/-- With nobody selected, the first event that is due runs. -/
theorem step_of_due {s : State} {i : Instr} {l : List Instr} (ho : s.oasisLost = false) (hi : s.issuing = [])
    (hd : s.due = i :: l) : step s = exec i { s with due := l } := by
  have ht : s.turn = .run i { s with due := l } := by simp [State.turn, ho, hi, hd]
  rw [step, ht]
  exact State.runs_of_issuer_none i (by simp [State.issuer, hi])

/-- With nobody selected and nothing due, what comes from outside now runs. -/
theorem step_of_agenda {s : State} {i : Instr} {l : List (Nat × Instr)} (ho : s.oasisLost = false) (hi : s.issuing = [])
    (hd : s.due = []) (ha : s.agenda = (0, i) :: l) : step s = exec i { s with agenda := l } := by
  have ht : s.turn = .run i { s with agenda := l } := by simp [State.turn, State.agendaTurn, ho, hi, hd, ha]
  rw [step, ht]
  exact State.runs_of_issuer_none i (by simp [State.issuer, hi])

/-- Settles O30: the position's word is looked up and run; a fetch leaves the issuing thread as it was, so the word runs for it. -/
theorem stepRunsDecoded : Obligations.StepRunsDecoded := by
  refine ⟨fun s e h l ho hi he hrun hpc hst hr => ?words, fun s ho hi => ⟨fun i l hd => step_of_due ho hi hd,
    fun i l hd ha => step_of_agenda ho hi hd ha⟩⟩
  case words =>
    have runs : ∀ i s', s.look e = (s', .word i) → s.Translated s' →
        ((s'.leadsOn e i).2 = none → step s = exec i s') ∧
        (∀ t, exec i s' = .next t → e.wentOn t = false → step s = .next t) ∧
        ∀ t code sub a, exec i s' = .next t → e.wentOn t = true → (s'.leadsOn e i).2 = some (code, sub, a) →
          step s = .next ((s'.pop.faultAt e code sub a).passed (some h)) := by
      intro i s' hlook htr
      have he' : s'.issuer = some e := htr.issuer.trans he
      have hh' : s'.issuing.head? = some h := by rw [htr.issuing, hi, List.head?_cons]
      rw [step_of_look ho hi he hrun hpc hst hlook, ← hh']
      exact ⟨State.runs_of_leadsOn_none he', fun t => State.runs_of_not_wentOn he',
        fun t code sub a => State.runs_of_leadsOn he'⟩
    refine ⟨fun s' w i hf hw hc hd => ?_, fun s' s'' w x i hf hw hc hl hf' hd => ?_⟩
    · have htr := State.fetch_translated (.refl s) e.gr e.t.pos.pc
      rw [hf] at htr
      exact runs i s' (State.look_word hr hf hw hc hd) htr
    · have htr := State.fetch_translated (State.fetch_translated (.refl s) e.gr e.t.pos.pc) e.gr (e.t.pos.pc + 4)
      rw [hf, hf'] at htr
      exact runs i s'' (State.look_movx hr hf hw hc hl hf' hd) htr

end Sys2Proof.Machine
end

section
namespace Sys2Proof.Machine

/-! ### Special registers -/

theorem Tbl.modify_id {α : Type} (t : Tbl α) (k : Nat) : Tbl.modify t k (fun v => v) = t := by
  induction t with
  | nil => rfl
  | cons x t ih => simp [Tbl.modify, ih]

theorem State.modGroup_id (s : State) (g : Nat) : (s.modGroup g fun gr => gr) = s :=
  congrArg (fun gs => { s with groups := gs }) (Tbl.modify_id s.groups g)

theorem ofNat12_eq_iff {n m : Nat} (hn : n < 2 ^ 12) (hm : m < 2 ^ 12) :
    BitVec.ofNat 12 n = BitVec.ofNat 12 m ↔ n = m := by
  rw [← BitVec.toNat_inj, BitVec.toNat_ofNat, BitVec.toNat_ofNat, Nat.mod_eq_of_lt hn, Nat.mod_eq_of_lt hm]

/-- A number of two fields, the lower one first. -/
theorem pack_two (a b p : Nat) : pack [(p, b), (0, a)] = a + b * 2 ^ p := by
  simp [pack, Nat.add_comm]

/-- SRD leaves the low 32 bits of what `readSpr` gives, and a read of PTIME latches PTIMEH (R8, R166). -/
theorem srd_of_readSpr_mod {n : Nat} {v : State → Env → Nat} (hn : n < 2 ^ 12)
    (hv : ∀ s e, s.readSpr e n % 2 ^ 32 = v s e % 2 ^ 32) : Srd n v := by
  intro d s e h
  have hw : BitVec.ofNat 32 (s.pop.readSpr e n) = BitVec.ofNat 32 (v s e) :=
    BitVec.eq_of_toNat_eq ((BitVec.toNat_ofNat _ _).trans ((hv s e).trans (BitVec.toNat_ofNat _ _).symm))
  simp only [exec, execSrd, runWord_issues _ h, BitVec.toNat_ofNat, Nat.mod_eq_of_lt hn, hw,
    ofNat12_eq_iff hn (show 0x050 < 2 ^ 12 by decide), State.pop_time]
  split <;> rfl

theorem srd_of_readSpr {n : Nat} {v : State → Env → Nat} (hn : n < 2 ^ 12) (hv : ∀ s e, s.readSpr e n = v s e) :
    Srd n v :=
  srd_of_readSpr_mod hn fun s e => congrArg (· % 2 ^ 32) (hv s e)

/-- A field of the handler's record, none outside one (R73). -/
theorem trap_field_mod (h : Option Handler) (f g : Handler → Nat) (hfg : ∀ x, f x % 2 ^ 32 = g x % 2 ^ 32) :
    (h.map f).getD 0 % 2 ^ 32 = (h.map g).getD 0 % 2 ^ 32 := by
  cases h with
  | none => rfl
  | some x => exact hfg x

theorem State.readSpr_hseed (s : State) (e : Env) {j : Nat} (hj : j < 8) :
    s.readSpr e (0x020 + j) = (e.gr.seed j).toNat := by
  simp (disch := omega) only [State.readSpr, beq_iff_eq, Bool.and_eq_true, decide_eq_true_eq, if_neg, if_pos,
    Nat.add_sub_cancel_left]

theorem State.readSpr_tcs (s : State) (e : Env) {j : Nat} (hj : j < 16) :
    s.readSpr e (0x030 + j) = (e.gr.tcs.word j).toNat % 2 ^ 25 := by
  simp (disch := omega) only [State.readSpr, beq_iff_eq, Bool.and_eq_true, decide_eq_true_eq, if_neg, if_pos,
    Nat.add_sub_cancel_left]

theorem srd_hseed (j : Nat) (hj : j < 8) : Srd (0x020 + j) fun _ e => (e.gr.seed j).toNat :=
  srd_of_readSpr (by omega) fun s e => s.readSpr_hseed e hj

theorem srd_tcs (j : Nat) (hj : j < 16) : Srd (0x030 + j) fun _ e => (e.gr.tcs.word j).toNat % 2 ^ 25 :=
  srd_of_readSpr (by omega) fun s e => s.readSpr_tcs e hj

/-- A write of a register of the group or the warp (R42, R167, R307). -/
theorem swr_of_writeSpr {n : Nat} {p : Thread → W32 → Prop} {g : Env → W32 → Group → Group} (hn : n < 2 ^ 12)
    (hx : n ≠ 0x071 ∧ n ≠ 0x072) (hp : ∀ t v, p t v → n = 0x041 → v.toNat ≤ 7)
    (hg : ∀ e v gr, Group.writeSpr gr (warpOf e.tid) n v = g e v gr) : Swr n p g fun t _ => t := by
  intro a s e h hpe
  have h41 : ¬(n = 0x041 ∧ 7 < (e.t.getX a).toNat) := fun ⟨hn41, h7⟩ => absurd (hp _ _ hpe hn41) (by omega)
  simp only [exec, execSwr, runWord_issues _ h, BitVec.toNat_ofNat, Nat.mod_eq_of_lt hn, hg, Bool.and_eq_true,
    Bool.or_eq_true, decide_eq_true_eq, ofNat12_eq_iff hn (show 0x041 < 2 ^ 12 by decide),
    ofNat12_eq_iff hn (show 0x071 < 2 ^ 12 by decide), ofNat12_eq_iff hn (show 0x072 < 2 ^ 12 by decide)]
  rw [if_neg h41, if_neg (by omega)]

/-- A write of XPCL or XPCH reaches the handler alone (R139, R167, R176). -/
theorem exec_swr_xpc {a : BitVec 6} {n : BitVec 12} {s : State} {e : Env} (h : s.Issues (.swr a n) e)
    (hn : n = 0x071 ∨ n = 0x072) : exec (.swr a n) s = .next (s.pop.retire e
      { e.t with handler := e.t.handler.map fun h => h.movePc (decide (n = 0x072#12)) (e.t.getX a) } 1) := by
  simp only [exec, execSwr, runWord_issues _ h]
  rcases hn with rfl | rfl <;> rfl

theorem swr_xpc {n : Nat} {hi : Bool} (hn : n = 0x071 ∧ hi = false ∨ n = 0x072 ∧ hi = true) :
    Swr n (fun t _ => t.handler.isSome) (fun _ _ gr => gr)
      fun t v => { t with handler := t.handler.map fun h => h.movePc hi v } := by
  intro a s e h _
  rcases hn with ⟨rfl, rfl⟩ | ⟨rfl, rfl⟩
  · rw [exec_swr_xpc h (.inl rfl), State.modGroup_id]; rfl
  · rw [exec_swr_xpc h (.inr rfl), State.modGroup_id]; rfl

theorem Group.writeSpr_hseed (gr : Group) (w : Nat) (v : W32) {j : Nat} (hj : j < 8) :
    gr.writeSpr w (0x020 + j) v = { gr with hseed := Tbl.set 0 gr.hseed j v } := by
  simp (disch := omega) only [Group.writeSpr, beq_iff_eq, Bool.and_eq_true, decide_eq_true_eq, if_neg, if_pos,
    Nat.add_sub_cancel_left]

theorem Group.writeSpr_tcs (gr : Group) (w : Nat) (v : W32) {j : Nat} (hj : j < 16) :
    gr.writeSpr w (0x030 + j) v = { gr with tcs := gr.tcs.setWord j (BitVec.ofNat 32 (v.toNat % 2 ^ 25)) } := by
  simp (disch := omega) only [Group.writeSpr, beq_iff_eq, Bool.and_eq_true, decide_eq_true_eq, if_neg, if_pos,
    Nat.add_sub_cancel_left]

theorem swr_hseed (j : Nat) (hj : j < 8) : Swr (0x020 + j) (fun _ _ => True)
    (fun _ v gr => { gr with hseed := Tbl.set 0 gr.hseed j v }) fun t _ => t :=
  swr_of_writeSpr (by omega) (by omega) (by omega) fun e v gr => gr.writeSpr_hseed (warpOf e.tid) v hj

/-- The low 25 bits of a value (R307). -/
theorem and_low25 (v : W32) : v &&& 0x1FFFFFF = BitVec.ofNat 32 (v.toNat % 2 ^ 25) := by
  have hmask : v.toNat &&& 0x1FFFFFF = v.toNat % 2 ^ 25 := Nat.and_two_pow_sub_one_eq_mod v.toNat 25
  rw [← hmask, ← BitVec.toNat_inj, BitVec.toNat_ofNat, Nat.mod_eq_of_lt]
  · rfl
  · exact Nat.lt_of_le_of_lt Nat.and_le_left v.isLt

theorem swr_tcs (j : Nat) (hj : j < 16) : Swr (0x030 + j) (fun _ _ => True)
    (fun _ v gr => { gr with tcs := gr.tcs.setWord j (v &&& 0x1FFFFFF) }) fun t _ => t :=
  swr_of_writeSpr (by omega) (by omega) (by omega) fun e v gr => by
    rw [and_low25, gr.writeSpr_tcs (warpOf e.tid) v hj]

/-- A RETRYMAX above 7 (R167). -/
theorem exec_swr_retrymax_above {a : BitVec 6} {s : State} {e : Env} (h : s.Issues (.swr a 0x041) e)
    (h7 : 7 < (e.t.getX a).toNat) : exec (.swr a 0x041) s = .next (s.pop.faultAt e 0x01 0x07 0) := by
  simp only [exec, execSwr, runWord_issues _ h]
  rw [if_pos (by simpa using h7)]

/-- Settles O13: each register by what `readSpr` or `writeSpr` gives for its number, XPCL and XPCH by the handler alone. -/
theorem specialRegisters : Obligations.SpecialRegisters := by
  refine ⟨?reads, ?writes, ?ckm⟩
  case reads =>
    and_intros
    iterate 21 exact srd_of_readSpr (by decide) fun _ _ => rfl
    · exact srd_hseed
    · exact srd_tcs
    iterate 3 exact srd_of_readSpr (by decide) fun _ _ => rfl
    · exact srd_of_readSpr (by decide) fun s e => by
        show ((s.ctx? e.gr.ctx).map fun c => pack [(16, c.sden), (0, c.snum)]).getD 0 = _
        simp only [pack_two]
    · exact srd_of_readSpr (by decide) fun _ _ => rfl
    · exact srd_of_readSpr_mod (by decide) fun s _ => Nat.mod_mod s.time (2 ^ 32)
    iterate 3 exact srd_of_readSpr (by decide) fun _ _ => rfl
    · exact srd_of_readSpr_mod (by decide) fun _ e => trap_field_mod e.t.handler _ _ fun h => by rw [pack_two]
    · exact srd_of_readSpr_mod (by decide) fun _ e => trap_field_mod e.t.handler _ _ fun h => Nat.mod_mod _ _
    · exact srd_of_readSpr (by decide) fun _ _ => rfl
    · exact srd_of_readSpr_mod (by decide) fun _ e => trap_field_mod e.t.handler _ _ fun h => Nat.mod_mod _ _
    · exact srd_of_readSpr (by decide) fun _ _ => rfl
  case writes =>
    refine ⟨swr_hseed, swr_tcs, ?chkstat, ?retrymax, fun _ _ _ h h7 => exec_swr_retrymax_above h h7, ?outside,
      swr_xpc (.inl ⟨rfl, rfl⟩), swr_xpc (.inr ⟨rfl, rfl⟩)⟩
    case chkstat => exact swr_of_writeSpr (by decide) (by decide) (by omega) fun _ _ _ => rfl
    case retrymax => exact swr_of_writeSpr (by decide) (by decide) (fun _ _ h _ => h) fun _ _ _ => rfl
    case outside =>
      intro a n s e hn h hh
      have hmap : e.t.handler.map (fun h => h.movePc (decide (n = 0x072#12)) (e.t.getX a)) = e.t.handler := by rw [hh]; rfl
      rw [exec_swr_xpc h hn, hmap]
  case ckm =>
    intro m s e h
    simp only [exec, execCkm, runWord_issues _ h]

end Sys2Proof.Machine
end

section
namespace Sys2Proof.Machine

/-! ### Operations that leave the contexts and the dies as they were -/

@[simp] theorem State.modGroup_parts (s : State) (g : Nat) (f : Group → Group) : (s.modGroup g f).parts = s.parts := rfl
@[simp] theorem State.modKernel_parts (s : State) (k : Nat) (f : Kernel → Kernel) :
    (s.modKernel k f).parts = s.parts := rfl
@[simp] theorem State.modPkt_parts (s : State) (p : Nat) (f : Pkt → Pkt) : (s.modPkt p f).parts = s.parts := rfl
@[simp] theorem State.modThread_parts (s : State) (g i : Nat) (f : Thread → Thread) :
    (s.modThread g i f).parts = s.parts := rfl
@[simp] theorem State.setCore_parts (s : State) (n : Nat) (c : Core) : (s.setCore n c).parts = s.parts := rfl
@[simp] theorem State.setCluster_parts (s : State) (n : Nat) (c : Cluster) : (s.setCluster n c).parts = s.parts := rfl
@[simp] theorem State.setPort_parts (s : State) (n : Nat) (p : Port) : (s.setPort n p).parts = s.parts := rfl
@[simp] theorem State.emit_parts (s : State) (o : Output) : (s.emit o).parts = s.parts := rfl
@[simp] theorem State.unissue_parts (s : State) (g : Nat) : (s.unissue g).parts = s.parts := rfl

@[simp] theorem State.setByte_parts (s : State) (pa : Nat) (b : Byte) : (s.setByte pa b).parts = s.parts := by
  unfold State.setByte
  split <;> rfl

@[simp] theorem State.setAt_parts (s : State) (ps : List Nat) (bs : List Byte) : (s.setAt ps bs).parts = s.parts := by
  fun_induction State.setAt s ps bs <;> simp_all

@[simp] theorem State.mapGroups_parts (s : State) (f : Nat → Group → Group) : (s.mapGroups f).parts = s.parts := rfl

@[simp] theorem State.homeWrite_parts (s : State) (code : Nat) (pas : List Nat) (bs : List Byte) :
    (s.homeWrite code pas bs).parts = s.parts := s.setAt_parts pas bs

@[simp] theorem State.deviceWords_parts (s : State) (pa : Nat) (ws : List Nat) :
    (s.deviceWords pa ws).parts = s.parts :=
  s.homeWrite_parts ..

@[simp] theorem State.deviceWrite_parts (s : State) (pa n v : Nat) : (s.deviceWrite pa n v).parts = s.parts :=
  s.homeWrite_parts ..

@[simp] theorem State.wordsAt_parts (s : State) (pas ws : List Nat) :
    (s.wordsAt pas ws).parts = s.parts := s.homeWrite_parts ..

@[simp] theorem State.enqueue_parts (s : State) (p : Nat) (f : OutFlit) : (s.enqueue p f).parts = s.parts := by
  unfold State.enqueue
  dsimp only
  split <;> rfl

@[simp] theorem State.sendReq_parts (s : State) (whose : ReqFor) (node pa size : Nat) (data : Option Nat)
    (op : Option (BitVec 4)) (via : Option Via) : (s.sendReq whose node pa size data op via).1.parts = s.parts := by
  unfold State.sendReq
  dsimp only
  split
  · rfl
  · split
    · rfl
    · exact State.enqueue_parts _ _ _

@[simp] theorem State.sendWrites_parts (s : State) (whose : Nat → ReqFor) (via : Nat → Option Via) (node part : Nat)
    (l : List (Nat × List Byte)) : (s.sendWrites whose via node part l).1.parts = s.parts := by
  fun_induction State.sendWrites s whose via node part l <;> grind [State.sendReq_parts]

@[simp] theorem State.setCells_parts (s : State) (src dst : Nat) (cs : List (Nat × Byte)) :
    (s.setCells src dst cs).parts = s.parts := by
  fun_induction State.setCells s src dst cs <;> simp_all

@[simp] theorem State.copyBytes_parts (s : State) (src dst n : Nat) : (s.copyBytes src dst n).parts = s.parts :=
  State.setCells_parts _ _ _ _

@[simp] theorem State.copyUnit_parts (s : State) (u src : Nat) (dst dir : List Nat) (copyVa : Nat) :
    (s.copyUnit u src dst dir copyVa).parts = s.parts := by
  unfold State.copyUnit
  dsimp only
  refine (State.wordsAt_parts _ dir [u, copyVa]).trans ?_
  split <;> simp

@[simp] theorem State.count_parts (s : State) (ctx die field n : Nat) : (s.count ctx die field n).parts = s.parts := by
  unfold State.count
  split <;> rfl

@[simp] theorem State.noteUnits_parts (s : State) (kern : Option Nat) (vas : List Nat) :
    (s.noteUnits kern vas).parts = s.parts := by
  unfold State.noteUnits
  split
  · rfl
  · split <;> rfl

@[simp] theorem State.unholdAll_parts (s : State) (h : Hold) (gs : List Nat) : (s.unholdAll h gs).parts = s.parts := by
  fun_induction State.unholdAll s h gs <;> simp_all [State.unhold]

@[simp] theorem State.dropHolds_parts (s : State) (g : Nat) : (s.dropHolds g).parts = s.parts := by
  unfold State.dropHolds
  split <;> simp

@[simp] theorem State.repoint_parts (s : State) (c : Nat) : (s.repoint c).parts = s.parts := by
  unfold State.repoint
  dsimp only
  split <;> rfl

@[simp] theorem State.slipCheck_parts (s : State) (core : Nat) : (s.slipCheck core).parts = s.parts := by
  unfold State.slipCheck
  dsimp only
  split <;> split <;> rfl

@[simp] theorem State.surge_parts (s : State) (c : Nat) : (s.surge c).parts = s.parts := by
  unfold State.surge
  dsimp only
  split <;> rfl

@[simp] theorem State.startSave_parts (s : State) (g cause : Nat) : (s.startSave g cause).parts = s.parts := by
  unfold State.startSave
  split
  · rfl
  · dsimp only
    split <;> simp

@[simp] theorem State.startSaves_parts (s : State) (cause : Nat) (gs : List Nat) :
    (s.startSaves cause gs).parts = s.parts := by
  fun_induction State.startSaves s cause gs <;> simp_all

@[simp] theorem State.progress_parts (s : State) (g : Nat) : (s.progress g).parts = s.parts := rfl

@[simp] theorem State.endPkt_parts (s : State) (p status : Nat) (code sub : Byte) (val : Nat) :
    (s.endPkt p status code sub val).parts = s.parts := rfl

@[simp] theorem State.addLate_parts (s : State) (g tid : Nat) (l : Late) : (s.addLate g tid l).parts = s.parts := by
  unfold State.addLate
  split
  · rfl
  · split <;> rfl

@[simp] theorem State.settleBatch_parts (s : State) (ctx no : Nat) : (s.settleBatch ctx no).parts = s.parts := by
  unfold State.settleBatch
  split
  · rfl
  · split
    · rfl
    · dsimp only
      split <;> rfl

@[simp] theorem State.packetDone_parts (s : State) (b : Batch) : (s.packetDone b).parts = s.parts := by
  unfold State.packetDone
  split
  · rfl
  · split
    · rfl
    · split <;> rfl

@[simp] theorem State.endCmd_parts (s : State) (c : Cmd) : (s.endCmd c).parts = s.parts := by
  unfold State.endCmd
  dsimp only
  rw [State.settleBatch_parts]
  split <;> split
  · exact (State.progress_parts _ _).trans (State.packetDone_parts _ _)
  · rfl
  · exact State.packetDone_parts _ _
  · rfl

end Sys2Proof.Machine
end

section
namespace Sys2Proof.Machine

/-! ### Operations that leave the state and the lost dies of every context, and the dies -/

@[simp] theorem State.writeBack_parts (s : State) (id : Nat) : (s.writeBack id).parts = s.parts := by
  unfold State.writeBack
  split <;> simp

/-! ### Translations, records and accounts -/

theorem State.translate_standing (s : State) (ctx core va : Nat) (needs : Needs) :
    (s.translate ctx core va needs).1.standing = s.standing := (State.translate_translated (.refl s) ..).standing

theorem State.mapAccess_standing (s : State) (ctx core va n : Nat) (needs : Needs) (marked : Bool) :
    (s.mapAccess ctx core va n needs marked).1.standing = s.standing := (State.mapAccess_translated (.refl s) ..).standing

theorem State.fetch_standing (s : State) (gr : Group) (pc : W64) : (s.fetch gr pc).1.standing = s.standing :=
  (State.fetch_translated (.refl s) ..).standing

theorem State.writeRecord_standing (s : State) (id : Nat) (r : FaultRec) :
    (s.writeRecord id r).standing = s.standing := by
  unfold State.writeRecord
  split
  · rfl
  · dsimp only
    split <;> simp [State.standing]

theorem State.account_standing (s : State) (id w0 w1 : Nat) : (s.account id w0 w1).standing = s.standing := by
  unfold State.account
  split
  · rfl
  · dsimp only
    split <;> simp [State.standing]

theorem State.spillOne_standing (s : State) (a : Accum) : (s.spillOne a).standing = s.standing := by
  unfold State.spillOne; grind [State.account_standing]

theorem State.spillList_standing (s : State) (l : List Accum) : (s.spillList l).standing = s.standing := by
  fun_induction State.spillList s l <;> grind [State.spillOne_standing]

theorem State.spill_standing (s : State) (core : Nat) (p : Accum → Bool) :
    (s.spill core p).standing = s.standing := by
  unfold State.spill; grind [State.spillList_standing, State.setCore_parts]

theorem State.spillCores_standing (s : State) (p : Accum → Bool) (ns : List Nat) :
    (s.spillCores p ns).standing = s.standing := by
  fun_induction State.spillCores s p ns <;> grind [State.spill_standing]

theorem State.request_standing (s : State) (ctx : Nat) (va : W64) (size : Nat) (kind : Needs) :
    (s.request ctx va size kind).standing = s.standing := by
  unfold State.request
  split
  · rfl
  · dsimp only
    split <;> simp [State.standing]

/-! ### Writes at a context's address, and what Mirage captures of them -/

theorem State.ownPas_standing (s : State) (ctx va n : Nat) (needs : Needs) :
    (s.ownPas ctx va n needs).1.standing = s.standing := by
  unfold State.ownPas; grind [State.mapAccess_standing]

theorem State.captureUnit_standing (s : State) (ctx va : Nat) : (s.captureUnit ctx va).standing = s.standing := by
  have ht := s.translate_standing ctx 0 (va / 65536 * 65536) needsRead
  unfold State.captureUnit
  grind [State.parts, State.ownPas_standing, State.copyUnit_parts]

theorem State.captureUnits_standing (s : State) (ctx : Nat) (ns : List Nat) :
    (s.captureUnits ctx ns).standing = s.standing := by
  fun_induction State.captureUnits s ctx ns <;> grind [State.captureUnit_standing]

theorem State.spoor_standing (s : State) (id : Nat) (ws : List Nat) : (s.spoor id ws).standing = s.standing := by
  unfold State.spoor
  split
  · rfl
  · split <;> simp [State.standing]

theorem State.enter_standing (s : State) (id : Nat) (r : FaultRec) : (s.enter id r).standing = s.standing := by
  unfold State.enter
  split
  · rfl
  · split
    · exact s.writeRecord_standing id r
    · simp [State.standing]

theorem State.spillAll_standing (s : State) (p : Accum → Bool) : (s.spillAll p).standing = s.standing := by
  unfold State.spillAll; grind [State.spillCores_standing]

theorem State.localWrite_standing (s : State) (ctx : Nat) (kern : Option Nat) (code : Nat) (pas vas : List Nat)
    (bs : List Byte) : (s.localWrite ctx kern code pas vas bs).standing = s.standing := by
  unfold State.localWrite; grind [State.homeWrite_parts, State.noteUnits_parts, State.captureUnits_standing]

theorem State.ctxWrite_standing (s : State) (ctx core code : Nat) (pas vas : List Nat) (node : Nat) (bs : List Byte) :
    (s.ctxWrite ctx core code pas vas node bs).1.standing = s.standing := by
  unfold State.ctxWrite; grind [State.localWrite_standing, State.sendWrites_parts]

theorem State.vwrite_standing (s : State) (ctx core va n v code : Nat) :
    (s.vwrite ctx core va n v code).1.standing = s.standing := by
  unfold State.vwrite; grind [State.mapAccess_standing, State.ctxWrite_standing]

theorem State.post_standing (s : State) (id : Nat) (r : FaultRec) : (s.post id r).standing = s.standing := by
  unfold State.post; grind [State.enter_standing, State.count_parts]

/-! ### The end of a kernel -/

theorem State.unitFold_standing (s : State) (ctx u : Nat) : (s.unitFold ctx u).1.standing = s.standing := by
  unfold State.unitFold; grind [State.translate_standing]

theorem State.dropGroup_standing (s : State) (g : Nat) : (s.dropGroup g).standing = s.standing := by
  have hdrop : (s.dropHolds g).standing = s.standing := congrArg standingOf (s.dropHolds_parts g)
  unfold State.dropGroup
  split
  · rfl
  · dsimp only
    refine (congrArg standingOf ((State.repoint_parts _ _).trans (State.slipCheck_parts _ _))).trans ?_
    split
    · refine (standingOf_modify (s.dropHolds g).ctxs (s.dropHolds g).dies _ _ ?_).trans hdrop
      exact fun _ => ⟨rfl, rfl⟩
    · exact hdrop

theorem State.log_standing (s : State) (ws : List Nat) : (s.log ws).standing = s.standing := by
  unfold State.log; grind [State.parts, State.ownPas_standing, State.wordsAt_parts]

theorem State.compareFolds_standing (s : State) (k : Kernel) (was : List (Nat × Nat × Bool)) (us : List Nat) :
    (s.compareFolds k was us).standing = s.standing := by
  fun_induction State.compareFolds s k was us <;> grind [State.parts, State.unitFold_standing, State.log_standing]

theorem State.failCmds_standing (s : State) (gr : Group) (k : Kernel) (code sub : Byte) (cs : List Cmd) :
    (s.failCmds gr k code sub cs).standing = s.standing := by
  fun_induction State.failCmds s gr k code sub cs <;> grind [State.enter_standing]

theorem State.logFolds_standing (s : State) (k : Kernel) (ns : List Nat) :
    (s.logFolds k ns).standing = s.standing := by
  fun_induction State.logFolds s k ns <;> grind [State.unitFold_standing, State.log_standing]

theorem State.foldUnits_standing (s : State) (k : Kernel) : (s.foldUnits k).standing = s.standing := by
  unfold State.foldUnits; grind [State.parts, State.logFolds_standing, State.compareFolds_standing]

theorem State.kernelCheck_standing (s : State) (kn : Nat) : (s.kernelCheck kn).standing = s.standing := by
  unfold State.kernelCheck
  grind [State.foldUnits_standing, State.vwrite_standing, State.endPkt_parts, State.modKernel_parts,
    State.enter_standing]

/-! ### The end of a group -/

theorem State.endNow_standing (s : State) (g : Nat) (gr : Group) (k : Kernel) (code sub : Byte) (die : Nat) :
    (s.endNow g gr k code sub die).standing = s.standing := by
  unfold State.endNow
  grind [State.failCmds_standing, State.kernelCheck_standing, State.modKernel_parts, State.dropGroup_standing]

theorem State.endRecorded_standing (s : State) (g : Nat) (gr : Group) (k : Kernel) (r : FaultRec) :
    (s.endRecorded g gr k r).standing = s.standing := by
  unfold State.endRecorded; grind [State.unissue_parts, State.modGroup_parts, State.endNow_standing]

theorem State.endGroup_standing (s : State) (g : Nat) (r : Option FaultRec) (code sub : Byte) :
    (s.endGroup g r code sub).standing = s.standing := by
  unfold State.endGroup
  grind [State.dropGroup_standing, State.endNow_standing, State.endRecorded_standing, State.post_standing]

theorem State.pageFault_standing (s : State) (g : Nat) (base : W64) (size : Nat) (kind : Needs) (absent : Bool) :
    (s.pageFault g base size kind absent).standing = s.standing := by
  unfold State.pageFault; grind [State.request_standing, State.modGroup_parts, State.startSave_parts]

theorem State.stopStep_standing (s : State) (g tid : Nat) (gr : Group) (k : Kernel) (pc : W64) :
    (s.stopStep g tid gr k pc).standing = s.standing := by
  unfold State.stopStep; grind [State.post_standing, State.modThread_parts]

/-! ### Faults and failures of threads -/

theorem State.deliver_standing (s : State) (g tid : Nat) (f : Raised) :
    (s.deliver g tid f).standing = s.standing := by
  unfold State.deliver
  grind [State.endGroup_standing, State.endNow_standing, State.fetch_standing, State.modThread_parts,
    State.pageFault_standing, State.post_standing, State.surge_parts, State.stopStep_standing]

theorem State.deliverLate_standing (s : State) (g tid : Nat) (t : Thread) (l : Late) :
    (s.deliverLate g tid t l).standing = s.standing := by
  unfold State.deliverLate; grind [State.deliver_standing, State.modThread_parts]

theorem State.faultFirst_standing (s : State) (g tid : Nat) : (s.faultFirst g tid).standing = s.standing := by
  unfold State.faultFirst; grind [State.deliverLate_standing]

theorem State.failItem_standing (s : State) (g tid : Nat) (pc va it : W64) (code sub : Byte) (detail stamp : Nat)
    (needs : Option (Nat × Nat)) : (s.failItem g tid pc va it code sub detail stamp needs).standing = s.standing := by
  unfold State.failItem; grind [State.post_standing, State.addLate_parts]

theorem State.endSample_standing (s : State) (num : Nat) : (s.endSample num).standing = s.standing := by
  unfold State.endSample
  split
  · rfl
  · split
    · rfl
    · dsimp only
      split
      · rfl
      · rw [State.spoor_standing]; rfl

theorem State.failCmd_standing (s : State) (c : Cmd) (code sub : Byte) (addr : W64) :
    (s.failCmd c code sub addr).standing = s.standing := by
  unfold State.failCmd; grind [State.failItem_standing, State.modPkt_parts, State.post_standing, State.endCmd_parts]

/-! ### A context leaves the running state (R351) -/

theorem State.addCharge_standing (s : State) (n : Nat) (q : Charge) : (s.addCharge n q).standing = s.standing := by
  unfold State.addCharge; grind [State.setCore_parts, State.spill_standing]

theorem State.addCharges_standing (s : State) (n : Nat) (qs : List Charge) :
    (s.addCharges n qs).standing = s.standing := by
  fun_induction State.addCharges s n qs <;> grind [State.addCharge_standing]

theorem State.settle_standing (s : State) (n : Nat) : (s.settle n).standing = s.standing := by
  unfold State.settle; grind [State.addCharges_standing, State.setCore_parts]

theorem State.settleCores_standing (s : State) (ns : List Nat) : (s.settleCores ns).standing = s.standing := by
  fun_induction State.settleCores s ns <;> grind [State.settle_standing]

theorem State.settleAll_standing (s : State) : (s.settleAll).standing = s.standing := by
  unfold State.settleAll; grind [State.settleCores_standing]

theorem State.leaveRunning_standing (s : State) (id : Nat) : (s.leaveRunning id).standing = s.standing := by
  unfold State.leaveRunning; grind [State.spillAll_standing, State.settleAll_standing]

/-! ### What the loss of a die does to each item (R88) -/

theorem State.finish_standing (s : State) (a : Access) : (s.finish a).standing = s.standing := by
  unfold State.finish
  dsimp only
  split <;> split
  · exact State.kernelCheck_standing _ _
  · rfl
  · exact (State.endSample_standing _ _).trans (State.kernelCheck_standing _ _)
  · exact State.endSample_standing _ _

theorem State.failAccess_standing (s : State) (a : Access) (code sub : Byte) :
    (s.failAccess a code sub).standing = s.standing := by
  unfold State.failAccess
  grind [State.failItem_standing, State.post_standing, State.modGroup_parts, State.finish_standing]

theorem State.loseAccs_standing (s : State) (l : List Access) : (s.loseAccs l).standing = s.standing := by
  fun_induction State.loseAccs s l <;> grind [State.failAccess_standing]

theorem State.loseCmds_standing (s : State) (d : Nat) (cs : List Cmd) : (s.loseCmds d cs).standing = s.standing := by
  fun_induction State.loseCmds s d cs <;> grind [State.failCmd_standing]

theorem State.loseGroups_standing (s : State) (d : Nat) (ns : List Nat) :
    (s.loseGroups d ns).standing = s.standing := by
  fun_induction State.loseGroups s d ns <;> grind [State.endGroup_standing]

theorem State.faultEach_standing (s : State) (l : List (Nat × Nat)) : (s.faultEach l).standing = s.standing := by
  fun_induction State.faultEach s l <;> grind [State.faultFirst_standing]

end Sys2Proof.Machine
end

section
namespace Sys2Proof.Machine

/-! ### A lost die (R88) -/

/-- A context that had touched the die and is stopped for its loss: its state and the die among its lost ones are set first,
and what ends its items there leaves both. -/
theorem State.loseCtx_standing {s : State} {d id : Nat} {c : Ctx} (hc : s.ctx? id = some c)
    (ht : c.tdies.getLsbD d = true) (hst : c.st ≠ .destroying) :
    (s.loseCtx d id).standing = (((s.leaveRunning id).modCtx id fun c =>
      { c with dlost := c.dlost ||| BitVec.ofNat 8 (2 ^ d) }).setCtxState id .stopped).standing := by
  have hb : ¬(!c.tdies.getLsbD d || c.st == .destroying) = true := by simp [ht, hst]
  simp only [State.loseCtx, hc, if_neg hb]
  refine (congrArg standingOf ((State.startSaves_parts _ _ _).trans (State.mapGroups_parts _ _))).trans ?_
  exact (State.faultEach_standing _ _).trans <| (State.loseAccs_standing _ _).trans <|
    (State.loseCmds_standing _ _ _).trans (State.loseGroups_standing _ _ _)

theorem State.loseCtx_of_untouched {s : State} {d id : Nat} (h : ∀ c, s.ctx? id = some c → c.tdies.getLsbD d = false) :
    s.loseCtx d id = s := by
  unfold State.loseCtx
  split
  · rfl
  · rename_i c hc
    simp [h c hc]

theorem State.die_setCtxState (s : State) (id n : Nat) (st : CtxState) : (s.setCtxState id st).die n = s.die n :=
  congrArg (fun p : Tbl Ctx × Tbl Die => Tbl.get Die.reset p.2 n) (State.writeBack_parts (s.modCtx id _) id)

@[simp] theorem State.loseCtx_die (s : State) (d id n : Nat) : (s.loseCtx d id).die n = s.die n := by
  by_cases h : ∀ c, s.ctx? id = some c → c.tdies.getLsbD d = false ∨ c.st = .destroying
  · unfold State.loseCtx
    split
    · rfl
    · rename_i c hc
      rcases h c hc with h | h <;> simp [h]
  · simp only [Classical.not_forall, not_or] at h
    obtain ⟨c, hc, ht, hst⟩ := h
    rw [State.die_of_standing (State.loseCtx_standing hc (by simpa using ht) hst), State.die_setCtxState]
    exact State.die_of_standing (State.leaveRunning_standing s id) n

@[simp] theorem State.loseCtxs_die (s : State) (d n : Nat) (ids : List Nat) : (s.loseCtxs d ids).die n = s.die n := by
  fun_induction State.loseCtxs s d ids <;> simp_all

theorem State.loseCtxs_of_untouched {s : State} {d : Nat} (h : ∀ id c, s.ctx? id = some c → c.tdies.getLsbD d = false)
    (ids : List Nat) : s.loseCtxs d ids = s := by
  induction ids with
  | nil => rfl
  | cons id ids ih => rw [State.loseCtxs, State.loseCtx_of_untouched (h id), ih]

/-- The state of a context and its lost dies after it is stopped. -/
theorem State.ctx?_setCtxState (s : State) (id : Nat) (st : CtxState) :
    (s.setCtxState id st).ctx? id = (s.ctx? id).map fun c => { c with st := st } := by
  have hw : (s.setCtxState id st).ctxs = (s.modCtx id fun c => { c with st := st }).ctxs :=
    congrArg Prod.fst (State.writeBack_parts _ id)
  rw [State.ctx?, hw, ← State.ctx?, State.ctx?_modCtx, if_pos rfl]

theorem State.loseCtx_stops {s : State} {d id : Nat} {c : Ctx} (hc : s.ctx? id = some c)
    (ht : c.tdies.getLsbD d = true) (hst : c.st ≠ .destroying) :
    ∃ c', (s.loseCtx d id).ctx? id = some c' ∧ c'.st = .stopped ∧ c'.dlost = c.dlost ||| BitVec.ofNat 8 (2 ^ d) := by
  have hl : ((s.leaveRunning id).ctx? id).map (fun c => (c.st, c.dlost)) = some (c.st, c.dlost) := by
    rw [← State.find?_standing, State.leaveRunning_standing, State.find?_standing, hc, Option.map_some]
  obtain ⟨c₁, hc₁, hd₁⟩ := Option.map_eq_some_iff.mp hl
  have hd : c₁.dlost = c.dlost := congrArg Prod.snd hd₁
  have h : ((s.loseCtx d id).ctx? id).map (fun c => (c.st, c.dlost))
      = some (.stopped, c.dlost ||| BitVec.ofNat 8 (2 ^ d)) := by
    rw [← State.find?_standing, State.loseCtx_standing hc ht hst, State.find?_standing, State.ctx?_setCtxState,
      State.ctx?_modCtx, if_pos rfl, hc₁, ← hd]
    rfl
  obtain ⟨c', hc', hd'⟩ := Option.map_eq_some_iff.mp h
  exact ⟨c', hc', congrArg Prod.fst hd', congrArg Prod.snd hd'⟩

theorem Tbl.mem_of_find? {α : Type} {t : Tbl α} {k : Nat} {v : α} (h : Tbl.find? t k = some v) : (k, v) ∈ t := by
  induction t with
  | nil => cases h
  | cons e t ih => grind [Tbl.find?]

/-! ### A warm reset of a die (R6, R321, R330) -/

@[simp] theorem State.safeTrims_mem (s : State) (ns : List Nat) : (s.safeTrims ns).mem = s.mem := by
  fun_induction State.safeTrims s ns <;> simp_all

@[simp] theorem State.safeTrims_time (s : State) (ns : List Nat) : (s.safeTrims ns).time = s.time := by
  fun_induction State.safeTrims s ns <;> simp_all

@[simp] theorem State.safeTrims_die (s : State) (ns : List Nat) (n : Nat) : (s.safeTrims ns).die n = s.die n := by
  fun_induction State.safeTrims s ns <;> simp_all [State.die]

@[simp] theorem State.lightClusters_mem (s : State) (cs : List Nat) : (s.lightClusters cs).mem = s.mem := by
  fun_induction State.lightClusters s cs <;> simp_all

@[simp] theorem State.lightClusters_time (s : State) (cs : List Nat) : (s.lightClusters cs).time = s.time := by
  fun_induction State.lightClusters s cs <;> simp_all

@[simp] theorem State.lightClusters_die (s : State) (cs : List Nat) (n : Nat) : (s.lightClusters cs).die n = s.die n := by
  fun_induction State.lightClusters s cs <;> simp_all [State.die]

@[simp] theorem State.lightClusters_core (s : State) (cs : List Nat) (n : Nat) :
    (s.lightClusters cs).core n = s.core n := by
  fun_induction State.lightClusters s cs <;> simp_all [State.core]

theorem State.core_safeTrims (s : State) (ns : List Nat) (n : Nat) :
    (s.safeTrims ns).core n = if n ∈ ns then { s.core n with trim := 700 } else s.core n := by
  fun_induction State.safeTrims s ns with
  | case1 => simp
  | case2 s k ns ih =>
    rw [ih, State.core_setCore]
    by_cases hk : k = n
    · simp [hk]
    · simp [hk, Ne.symm hk]

theorem State.dark_lightClusters (s : State) (cs : List Nat) (n : Nat) :
    ((s.lightClusters cs).cluster n).dark = if n ∈ cs then false else (s.cluster n).dark := by
  fun_induction State.lightClusters s cs with
  | case1 => simp
  | case2 s k cs ih =>
    rw [ih, State.cluster_setCluster]
    by_cases hk : k = n
    · simp [hk]
    · simp [hk, Ne.symm hk]

/-- The parts of one die are numbered together. -/
theorem mem_ofDie {w d n : Nat} (hw : 0 < w) : n ∈ (List.range w).map (w * d + ·) ↔ n / w = d := by
  simp only [List.mem_map, List.mem_range]
  constructor
  · rintro ⟨i, hi, rfl⟩
    rw [Nat.mul_add_div hw, Nat.div_eq_of_lt hi, Nat.add_zero]
  · rintro rfl
    exact ⟨n % w, Nat.mod_lt _ hw, Nat.div_add_mod n w⟩

/-! ### A wake leaves every cluster dark or lit as it was (R330, R331) -/

theorem State.dark_setCluster {s : State} {c : Nat} {k : Cluster} (hk : k.dark = (s.cluster c).dark) (n : Nat) :
    ((s.setCluster c k).cluster n).dark = (s.cluster n).dark := by
  rw [State.cluster_setCluster]
  split
  · rename_i h
    rw [hk, h]
  · rfl

@[simp] theorem State.softStart_dark (s : State) (c n : Nat) : ((s.softStart c).cluster n).dark = (s.cluster n).dark :=
  State.dark_setCluster (s := s.untime c) (c := c) (by rfl) n

@[simp] theorem State.checkNeighbours_dark (s : State) (c n : Nat) :
    ((s.checkNeighbours c).cluster n).dark = (s.cluster n).dark := by
  unfold State.checkNeighbours
  dsimp only
  split
  · exact State.dark_setCluster (s := s.free.2) (c := c) (by rfl) n
  · exact State.softStart_dark s.free.2 c n

@[simp] theorem State.deferWakes_dark (s : State) (ks : List Nat) (n : Nat) :
    ((s.deferWakes ks).cluster n).dark = (s.cluster n).dark := by
  induction ks generalizing s with
  | nil => rfl
  | cons k ks ih => exact (ih _).trans (State.dark_setCluster (s := s.untime k) (c := k) (by rfl) n)

@[simp] theorem State.wakeCluster_dark (s : State) (c n : Nat) :
    ((s.wakeCluster c).cluster n).dark = (s.cluster n).dark := by
  unfold State.wakeCluster
  dsimp only
  split
  · exact State.dark_setCluster (by rfl) n
  · exact State.dark_setCluster (by rfl) n
  · split
    · exact State.dark_setCluster (by rfl) n
    · rw [State.checkNeighbours_dark, State.deferWakes_dark]
      exact State.dark_setCluster (by rfl) n
  · rfl

@[simp] theorem State.wakeClusters_dark (s : State) (cs : List Nat) (n : Nat) :
    ((s.wakeClusters cs).cluster n).dark = (s.cluster n).dark := by
  fun_induction State.wakeClusters s cs <;> simp_all

/-! ### Failed phases (R330) -/

theorem Tbl.find?_foldl_put {α : Type} (f : Nat → α) (ks : List Nat) (t : Tbl α) (n : Nat) :
    Tbl.find? (ks.foldl (fun t k => Tbl.put t k (f k)) t) n = if n ∈ ks then some (f n) else Tbl.find? t n := by
  induction ks generalizing t with
  | nil => simp
  | cons k ks ih =>
    rw [List.foldl_cons, ih, Tbl.find?_put]
    by_cases hk : k = n
    · simp [hk]
    · simp [hk, Ne.symm hk]

theorem State.event_evs (s : State) (code detail addr time : Nat) :
    ((s.event code detail addr time).port 0).evs
      = (s.port 0).evs ++ [⟨time, code, BitVec.ofNat 64 detail, BitVec.ofNat 64 addr⟩] := by
  simp [State.event, State.port_setPort]

/-- The first failed phase of a group is an event, and nothing else. -/
theorem execPhaseFail_first {s : State} {d : Fin 8} {g : Fin 12} {f : Fin 8} (hf : (g.val, f.val) ∉ (s.die d).failed)
    (hg : ∀ x ∈ (s.die d).failed, x.1 ≠ g.val) :
    execPhaseFail d g f s = .next ((s.setDie d { s.die d with failed := (s.die d).failed ++ [(g.val, f.val)] }).event 1
      (pack [(8, f.val), (4, g.val), (0, d.val)]) 0 s.time) := by
  have hb : (s.die d).failed.filter (fun x => x.1 == g.val) = [] := by simpa using fun a b => hg (a, b)
  have hc : ¬(s.die d).failed.contains (g.val, f.val) = true := by simpa using hf
  simp only [execPhaseFail, if_neg hc, hb]
  rfl

/-- With no group there is none in the dark. -/
theorem State.darkGroups_of_none {s : State} (h : s.groups = []) (p : Nat × Group → Bool) :
    s.darkGroups ((s.groups.filter p).map Prod.fst) = s := by rw [h]; rfl

theorem State.failCmdList_of_none {s : State} (h : s.cmds = []) (p : Cmd → Bool) (code sub : Byte) :
    s.failCmdList code sub (s.cmds.filter p) = s := by rw [h]; rfl

/-- The second puts the clusters the group feeds in the dark; with no item there, nothing fails. -/
theorem execPhaseFail_second {s : State} {d : Fin 8} {g : Fin 12} {f : Fin 8} (hf : (g.val, f.val) ∉ (s.die d).failed)
    (hg : ((s.die d).failed.filter fun x => x.1 == g.val).length = 1) (hgr : s.groups = []) (hcm : s.cmds = []) :
    ∃ t, execPhaseFail d g f s = .next t ∧ ∀ c ∈ fedBy d g, (t.cluster c).dark = true := by
  have hc : ¬(s.die d).failed.contains (g.val, f.val) = true := by simpa using hf
  simp only [execPhaseFail, if_neg hc, hg, Nat.reduceBEq, Bool.false_eq_true, if_false, if_true]
  rw [State.darkGroups_of_none (by exact hgr), State.failCmdList_of_none (by exact hcm)]
  refine ⟨_, rfl, fun c hfed => ?_⟩
  rw [State.wakeClusters_dark]
  show Cluster.dark ((Tbl.find? (List.foldl _ s.clusters (fedBy d g)) c).getD Cluster.reset) = true
  rw [Tbl.find?_foldl_put, if_pos hfed]
  rfl

/-! ### Boost withdrawn (R319) -/

@[simp] theorem State.repoint_mem (s : State) (c : Nat) : (s.repoint c).mem = s.mem := by
  unfold State.repoint
  dsimp only
  split <;> rfl

@[simp] theorem State.repoint_kernels (s : State) (c : Nat) : (s.repoint c).kernels = s.kernels := by
  unfold State.repoint
  dsimp only
  split <;> rfl

@[simp] theorem State.repoints_mem (s : State) (cs : List Nat) : (s.repoints cs).mem = s.mem := by
  fun_induction State.repoints s cs <;> simp_all

@[simp] theorem State.repoints_kernels (s : State) (cs : List Nat) : (s.repoints cs).kernels = s.kernels := by
  fun_induction State.repoints s cs <;> simp_all

theorem find?_mapVals {α : Type} (f : Nat → α → α) (t : Tbl α) (k : Nat) :
    Tbl.find? (mapVals f t) k = (Tbl.find? t k).map (f k) := by
  induction t with
  | nil => rfl
  | cons e t ih => grind [Tbl.find?, mapVals]

/-- A kernel at the boost point, with a running group on the die, goes on at OP2; memory is as it was. -/
theorem execBoostWithdraw_spec (s : State) (d : Fin 8) : ∃ t, execBoostWithdraw d s = .next t ∧ t.mem = s.mem ∧
    ∀ g gr k, s.group? g = some gr → gr.st = .running → gr.core / 128 = d.val → s.kernel? gr.kern = some k → k.point = 3 →
      (t.kernel? gr.kern).map Kernel.point = some 2 := by
  refine ⟨_, rfl, State.repoints_mem _ _, fun g gr k hg hrun hd hk hp => ?_⟩
  have hhere : gr.kern ∈ (s.groups.filter fun g => dieOfCore g.2.core == d && g.2.st.resident).map fun g => g.2.kern :=
    List.mem_map.mpr ⟨(g, gr), List.mem_filter.mpr ⟨Tbl.mem_of_find? hg,
      by simp [dieOfCore, coresPerDie, hd, hrun, GroupState.resident]⟩, rfl⟩
  rw [State.kernel?, State.repoints_kernels, find?_mapVals, show Tbl.find? s.kernels gr.kern = some k from hk]
  simp only [List.contains_iff_mem.mpr hhere, hp, Option.map_some]
  rfl

/-- Settles O54: each event's own lemma above; a reset and the loss of the Oasis are read off what they put in place. -/
theorem resetsAndLosses : Obligations.ResetsAndLosses := by
  intro s d
  refine ⟨⟨_, rfl, rfl, rfl, rfl, rfl, rfl, rfl, rfl, rfl⟩, ⟨_, rfl, ?warm⟩, ⟨_, rfl, rfl, rfl, rfl, rfl⟩,
    fun hlost => ?die, fun g f hf => ⟨fun hg => ⟨_, execPhaseFail_first hf hg, ?first⟩, execPhaseFail_second hf⟩,
    ⟨_, rfl, ?hot⟩, ⟨_, rfl, ?cool⟩, fun mv => ⟨_, rfl, ?vmin⟩,
    execBoostWithdraw_spec s d⟩
  case warm =>
    refine ⟨?_, ?_, ?_, fun c hc => ?_, fun c hc => ?_, fun k hk => ?_⟩
    · simp
    · simp
    · simp [State.die_setDie]
    · rw [State.lightClusters_core, State.core_safeTrims, if_pos ((mem_ofDie (by decide)).mpr hc)]
    · rw [State.lightClusters_core, State.core_safeTrims, if_neg (mt (mem_ofDie (by decide)).mp hc)]
      rfl
    · rw [State.dark_lightClusters, if_pos ((mem_ofDie (by decide)).mpr hk)]
  case die =>
    have he : execDieLoss d s = .next ((s.setDie d { s.die d with lost := true }).loseCtxs d (s.ctxs.map Prod.fst)) := by
      simp [execDieLoss, hlost]
    refine ⟨_, he, ?_, fun id c hs ht hst => ?_, fun h => ?_⟩
    · simp [State.die_setDie]
    · rw [hs]
      exact State.loseCtx_stops (by simp [State.ctx?, hs, Tbl.find?]) ht hst
    · rw [State.loseCtxs_of_untouched (by exact fun id c hc => h (id, c) (Tbl.mem_of_find? hc))]
      exact ⟨rfl, rfl⟩
  case first =>
    refine ⟨?_, rfl, ?_⟩
    · exact congrArg Die.failed ((State.die_setDie s d d _).trans (if_pos rfl))
    · have hdetail : pack [(8, f.val), (4, g.val), (0, d.val)] = d.val + g.val * 2 ^ 4 + f.val * 2 ^ 8 := by
        simp only [pack, List.map_cons, List.map_nil, List.sum_cons, List.sum_nil]
        omega
      rw [State.event_evs, hdetail]
      rfl
  case hot => split <;> simp_all [State.die_setDie]
  case cool => simp [State.die_setDie]
  case vmin => by_cases h : mv < (s.die d).vminv <;> simp [h, State.die_setDie]

end Sys2Proof.Machine
end

section
namespace Sys2Proof.Machine

/-! ### The wait at a convergent word (R140, R190) -/

theorem State.group?_of_issuer {s : State} {e : Env} (h : s.issuer = some e) : s.group? e.g = some e.gr := by
  unfold State.issuer at h
  split at h
  · cases h
  · split at h
    · cases h
    · rename_i hgr
      split at h
      · cases h
        exact hgr
      · cases h

/-- Every word of R190 and R187 that waits for its siblings runs through `runConv`. -/
theorem exec_convergent {d a b : BitVec 6} {m : BitVec 7} {k : BitVec 3} {o : BitVec 5} {u : BitVec 2} {n : BitVec 1}
    {q : BitVec 4} {i : Instr}
    (hi : i ∈ [Instr.xshf d a m, .xshfw d a k, .red d a o, .scan d a o n, .vote d a u, .permb d a b n, .cvtb d a q o,
      .widb d a q o]) : ∃ act, ∀ s, exec i s = runConv i act s := by
  simp only [List.mem_cons, List.not_mem_nil, or_false] at hi
  rcases hi with rfl | rfl | rfl | rfl | rfl | rfl | rfl | rfl
  · exact ⟨_, fun s => by simp only [exec, execXshf, laneWord]; rfl⟩
  · exact ⟨_, fun s => by simp only [exec, execXshfw, laneWord]; rfl⟩
  · exact ⟨_, fun s => by simp only [exec, execRed]; rfl⟩
  · exact ⟨_, fun s => by simp only [exec, execScan]; rfl⟩
  · exact ⟨_, fun s => by simp only [exec, execVote]; rfl⟩
  · exact ⟨_, fun s => by simp only [exec, execPermb]; rfl⟩
  · exact ⟨_, fun s => by simp only [exec, execCvtb]; rfl⟩
  · exact ⟨_, fun s => by simp only [exec, execWidb]; rfl⟩

/-- Before the last arrival a convergent word only has its thread wait. -/
theorem runConv_waits {i : Instr} {s : State} {e : Env} (act : Env → List Thread → List Thread × Bool)
    (h : s.Issues i e) (hc : e.arrived.converged e.t = false) :
    runConv i act s = .next (s.pop.waitAt e .converge) := by
  have hgr : (s.pop.waitAt e .converge).group? e.g = some e.arrived := by
    have hpop : s.pop.group? e.g = some e.gr := (State.group?_of_issuer h.1 : s.group? e.g = some e.gr)
    rw [State.waitAt, State.modThread, State.group?_modGroup, if_pos rfl, hpop]
    rfl
  simp only [runConv, runWord_issues _ h, hgr, hc, Bool.false_eq_true, if_false]

/-- Settles O9: before its siblings have arrived, the shell of a convergent word gives the wait alone. -/
theorem convergentWait : Obligations.ConvergentWait := by
  intro d a b m k o u n q i hi s e h hc
  obtain ⟨act, hexec⟩ := exec_convergent hi
  rw [hexec, runConv_waits act h hc]
  rfl

end Sys2Proof.Machine
end

section
namespace Sys2Proof.Machine

/-! ### Branches, calls, returns and REP (R137, R138, R168 to R172) -/

theorem Thread.relTarget_eq (t : Thread) (o : BitVec 18) : t.relTarget o = t.pos.pc + BitVec.ofInt 64 (4 * o.toInt) := by
  have hmul : (4 : W64) * o.signExtend 64 = BitVec.ofInt 64 (4 * o.toInt) := by
    rw [BitVec.ofInt_mul]
    rfl
  rw [Thread.relTarget, hmul]

/-- A transfer's target whose word can be fetched is entered when that word is a header, and is BAD_TARGET else. -/
theorem State.target_of_fetch {s s' : State} {e : Env} {t : W64} {mis : Bool} {sub : Byte} {go : State → State} {w : Nat}
    (hmis : mis = true → t.toNat % 4 = 0) (hf : s.fetch e.gr t = (s', .ok w)) :
    s.target e t mis sub go = if w / 2 ^ 24 = 0xC7 then go s' else s'.faultAt e 0x03 sub t := by
  have haligned : ¬(mis && t.toNat % 4 != 0) = true := by
    simpa using hmis
  simp only [State.target, if_neg haligned, hf, isHeader, beq_iff_eq]

theorem State.target_misaligned {s : State} {e : Env} {t : W64} {sub : Byte} {go : State → State} (ht : t.toNat % 4 ≠ 0) :
    s.target e t true sub go = s.faultAt e 0x03 0x03 t :=
  if_pos (by simpa using ht)

section

variable {s s' : State} {e : Env} {a g : BitVec 6} {o : BitVec 18} {w : Nat}

theorem exec_bra (h : s.Issues (.bra o g) e)
    (hf : s.pop.fetch e.gr (e.t.pos.pc + BitVec.ofInt 64 (4 * o.toInt)) = (s', .ok w)) :
    exec (.bra o g) s = .next (
      if w / 2 ^ 24 = 0xC7 then s'.retireAt e (e.t.jump (e.t.pos.pc + BitVec.ofInt 64 (4 * o.toInt)))
      else s'.faultAt e 0x03 0x01 (e.t.pos.pc + BitVec.ofInt 64 (4 * o.toInt))) := by
  simp only [exec, execBra, runWord_issues _ h, Thread.relTarget_eq, State.target_of_fetch (mis := false) nofun hf]

theorem exec_brx (h : s.Issues (.brx a g) e) (ha : (e.t.getX2 a).toNat % 4 = 0)
    (hf : s.pop.fetch e.gr (e.t.getX2 a) = (s', .ok w)) :
    exec (.brx a g) s = .next (
      if w / 2 ^ 24 = 0xC7 then s'.retireAt e (e.t.jump (e.t.getX2 a)) else s'.faultAt e 0x03 0x02 (e.t.getX2 a)) := by
  simp only [exec, execBrx, runWord_issues _ h, State.target_of_fetch (fun _ => ha) hf]

theorem exec_brx_misaligned (h : s.Issues (.brx a g) e) (ha : (e.t.getX2 a).toNat % 4 ≠ 0) :
    exec (.brx a g) s = .next (s.pop.faultAt e 0x03 0x03 (e.t.getX2 a)) := by
  simp only [exec, execBrx, runWord_issues _ h, State.target_misaligned ha]

theorem exec_call (h : s.Issues (.call o g) e) (hd : e.t.stack.length < 31)
    (hf : s.pop.fetch e.gr (e.t.pos.pc + BitVec.ofInt 64 (4 * o.toInt)) = (s', .ok w)) (hw : w / 2 ^ 24 = 0xC7) :
    exec (.call o g) s = .next (s'.retireAt e (e.t.callTo (e.t.pos.pc + BitVec.ofInt 64 (4 * o.toInt)))) := by
  simp only [exec, execCall, runWord_issues _ h, if_neg (Nat.not_le.mpr hd), Thread.relTarget_eq,
    State.target_of_fetch (mis := false) nofun hf, if_pos hw]

theorem exec_callx (h : s.Issues (.callx a g) e) (hd : e.t.stack.length < 31) (ha : (e.t.getX2 a).toNat % 4 = 0)
    (hf : s.pop.fetch e.gr (e.t.getX2 a) = (s', .ok w)) (hw : w / 2 ^ 24 = 0xC7) :
    exec (.callx a g) s = .next (s'.retireAt e (e.t.callTo (e.t.getX2 a))) := by
  simp only [exec, execCallx, runWord_issues _ h, if_neg (Nat.not_le.mpr hd), State.target_of_fetch (fun _ => ha) hf,
    if_pos hw]

/-- A call with 31 positions on its stack (R170). -/
theorem exec_call_full {i : Instr} (hi : i = .call o g ∨ i = .callx a g) (h : s.Issues i e) (hd : 31 ≤ e.t.stack.length) :
    exec i s = .next (s.pop.faultAt e 0x01 0x15 0) := by
  rcases hi with rfl | rfl
  · simp only [exec, execCall, runWord_issues _ h, if_pos hd]
  · simp only [exec, execCallx, runWord_issues _ h, if_pos hd]

theorem exec_ret_pop {p : Pos} {ps : List Pos} (h : s.Issues (.ret g) e) (hs : e.t.stack = p :: ps) :
    exec (.ret g) s = .next (s.pop.retireAt e { e.t with pos := p, stack := ps }) := by
  simp only [exec, execRet, runWord_issues _ h, hs]

theorem exec_ret_empty (h : s.Issues (.ret g) e) (hs : e.t.stack = []) :
    exec (.ret g) s = .next (s.pop.faultAt e 0x01 0x16 0) := by
  simp only [exec, execRet, runWord_issues _ h, hs]

end

/-- The class of the repeated word is the first of its checks (R57, R62). -/
theorem repCheck_of_classSub {hdr : W32} {k : Kernel} {w : Nat} {sub : Byte} (h : classSub hdr w = some sub)
    (count mark stride : Nat) : repCheck hdr k count mark stride w = some (0x04, sub) := by
  simp only [repCheck, h]

section

variable {s s' : State} {e : Env} {c : BitVec 8} {m st : BitVec 4} {w : Nat}

theorem exec_rep_checked (h : s.Issues (.rep c m st) e) (hl : 1 < e.t.pos.left)
    (hf : s.pop.fetch e.gr (e.t.pos.pc + 4) = (s', .ok w))
    (hc : repCheck e.t.pos.hdr e.k c.toNat m.toNat st.toNat w = none) :
    exec (.rep c m st) s = .next (
      if c = 0 then s'.retire e e.t 2
      else s'.retireAt e { e.t with rep := some ⟨c.toNat, st.toNat, m, 0, BitVec.ofNat 32 w⟩, pos := e.t.pos.skip 1 }) := by
  simp only [exec, execRep, runWord_issues _ h, if_neg (Nat.not_le.mpr hl), hf, hc]
  rfl

theorem exec_rep_mismatch {sub : Byte} (h : s.Issues (.rep c m st) e) (hl : 1 < e.t.pos.left)
    (hf : s.pop.fetch e.gr (e.t.pos.pc + 4) = (s', .ok w)) (hc : classSub e.t.pos.hdr w = some sub) :
    exec (.rep c m st) s = .next (s'.deliver e.g e.tid ⟨0x04, sub, 0, e.t.pos.pc + 4, e.t.pos.skip 1, false⟩) := by
  have hframing : framing 0x04 sub = true := by simp [framing]
  simp only [exec, execRep, runWord_issues _ h, if_neg (Nat.not_le.mpr hl), hf, repCheck_of_classSub hc, if_pos hframing]

theorem exec_rep_last (h : s.Issues (.rep c m st) e) (hl : e.t.pos.left ≤ 1) :
    exec (.rep c m st) s = .next (s.pop.faultAt e 0x01 0x08 0) := by
  simp only [exec, execRep, runWord_issues _ h, if_pos hl]

end

/-- Settles O14: each word by what its target, its stack or its repeated word comes to. -/
theorem branchCallRepeat : Obligations.BranchCallRepeat := by
  refine ⟨⟨fun o g s e s' w => exec_bra, fun a g s e s' w => exec_brx, fun a g s e => exec_brx_misaligned⟩,
    ⟨fun o g s e s' w => exec_call, fun a g s e s' w => exec_callx, fun o a g i s e => exec_call_full,
      fun g s e p ps => exec_ret_pop, fun g s e => exec_ret_empty⟩,
    ⟨fun c m st s e s' w => exec_rep_checked, fun c m st s e s' w sub => exec_rep_mismatch,
      fun c m st s e => exec_rep_last⟩⟩

end Sys2Proof.Machine
end

section
namespace Sys2Proof.Machine

/-! ### A slot's order (R134) -/

theorem lexLe_cons {a b : Nat} {l m : List Nat} :
    lexLe (a :: l) (b :: m) = true ↔ a < b ∨ a = b ∧ lexLe l m = true := by
  simp [lexLe]

theorem lexLe_total (l m : List Nat) : lexLe l m = true ∨ lexLe m l = true := by
  induction l generalizing m with
  | nil => exact .inl rfl
  | cons a l ih =>
    cases m with
    | nil => exact .inr rfl
    | cons b m =>
      simp only [lexLe_cons]
      rcases Nat.lt_trichotomy a b with hlt | rfl | hgt
      · exact .inl (.inl hlt)
      · exact (ih m).imp (fun h => .inr ⟨rfl, h⟩) fun h => .inr ⟨rfl, h⟩
      · exact .inr (.inl hgt)

theorem lexLe_trans {l m k : List Nat} (h : lexLe l m = true) (h' : lexLe m k = true) : lexLe l k = true := by
  induction l generalizing m k with
  | nil => rfl
  | cons a l ih =>
    cases m with
    | nil => cases h
    | cons b m =>
      cases k with
      | nil => cases h'
      | cons c k =>
        rw [lexLe_cons] at h h' ⊢
        rcases h with hab | ⟨rfl, hl⟩
        · exact .inl (h'.elim (Nat.lt_trans hab) fun ⟨hbc, _⟩ => hbc ▸ hab)
        · exact h'.imp id fun ⟨hac, hm⟩ => ⟨hac, ih hl hm⟩

/-- The candidate selected from a list is the better of its head and what is selected from its tail. -/
theorem bestCand_cons (c : Cand) (cs : List Cand) :
    bestCand (c :: cs) = some ((bestCand cs).elim c fun d => if lexLe c.order d.order then c else d) := by
  rw [bestCand]
  cases bestCand cs with
  | none => rfl
  | some d => exact (apply_ite some _ c d).symm

theorem bestCand_eq_none_iff (l : List Cand) : bestCand l = none ↔ l = [] := by
  cases l with
  | nil => exact iff_of_true rfl rfl
  | cons c cs => simp [bestCand_cons]

theorem bestCand_first {l : List Cand} {c : Cand} (h : bestCand l = some c) :
    c ∈ l ∧ ∀ d ∈ l, lexLe c.order d.order = true := by
  induction l generalizing c with
  | nil => cases h
  | cons b l ih =>
    have hrefl : lexLe b.order b.order = true := (lexLe_total b.order b.order).elim id id
    rw [bestCand_cons] at h
    cases hl : bestCand l with
    | none =>
      rw [(bestCand_eq_none_iff l).mp hl]
      rw [hl] at h
      cases h
      simpa using hrefl
    | some d =>
      obtain ⟨hd, hle⟩ := ih hl
      rw [hl] at h
      by_cases hb : lexLe b.order d.order = true
      · obtain rfl : b = c := by simpa [hb] using h
        exact ⟨List.mem_cons_self, List.forall_mem_cons.mpr ⟨hrefl, fun x hx => lexLe_trans hb (hle x hx)⟩⟩
      · obtain rfl : d = c := by simpa [hb] using h
        exact ⟨List.mem_cons_of_mem b hd, List.forall_mem_cons.mpr ⟨(lexLe_total _ _).resolve_left hb, hle⟩⟩

end Sys2Proof.Machine
end

section
namespace Sys2Proof.Machine

/-! ### Frontier entries after regrouping (R133, R136) -/

/-- The threads that stand in one entry with `t`. -/
def partOf (ts : List Thread) (t : Thread) : List Thread := ts.filter fun u => u.entryKey == t.entryKey

theorem mem_partOf {ts : List Thread} {t u : Thread} : u ∈ partOf ts t ↔ u ∈ ts ∧ u.entryKey = t.entryKey := by
  simp [partOf]

theorem mem_entryParts {ts p : List Thread} : p ∈ entryParts ts ↔ ∃ t ∈ ts, partOf ts t = p := by
  rw [entryParts, List.mem_map]
  constructor
  · rintro ⟨k, hk, rfl⟩
    obtain ⟨t, ht, rfl⟩ := List.mem_map.mp (List.mem_eraseDups.mp hk)
    exact ⟨t, ht, rfl⟩
  · rintro ⟨t, ht, rfl⟩
    exact ⟨t.entryKey, List.mem_eraseDups.mpr (List.mem_map_of_mem ht), rfl⟩

theorem Thread.key_of_entryKey {t u : Thread} (h : u.entryKey = t.entryKey) : u.key = t.key := congrArg Prod.fst h

theorem entryOf_partOf_key {ts : List Thread} {t : Thread} (ht : t ∈ ts) (a : Nat) (d : Option Nat) :
    (entryOf (partOf ts t) a d).key = t.key := by
  have hmem : t ∈ partOf ts t := mem_partOf.mpr ⟨ht, rfl⟩
  cases hp : partOf ts t with
  | nil => simp [hp] at hmem
  | cons u us =>
    have hu : u ∈ partOf ts t := by simp [hp]
    exact Thread.key_of_entryKey (mem_partOf.mp hu).2

theorem eq_of_tid_eq {ts : List Thread} (hn : (ts.map Thread.tid).Nodup) {t u : Thread} (ht : t ∈ ts) (hu : u ∈ ts)
    (h : t.tid = u.tid) : t = u := by
  have hpair : ts.Pairwise fun a b => a.tid ≠ b.tid := List.pairwise_map.mp hn
  induction hpair with
  | nil => cases ht
  | cons hhead _ ih =>
    rcases List.mem_cons.mp ht with rfl | ht' <;> rcases List.mem_cons.mp hu with rfl | hu'
    · rfl
    · exact absurd h (hhead u hu')
    · exact absurd h.symm (hhead t ht')
    · exact ih (List.nodup_cons.mp hn).2 ht' hu'

/-- What splitting leaves of entry `y` as the threads `p` of it: the part that keeps the key keeps the age (R133). -/
def Entry.remainder (y : Entry) (p : List Thread) : Entry :=
  let e := entryOf p 0 none
  if e.key == y.key then { e with age := y.age, due := y.due } else e

/-- The live threads of warp `n` that stand in entry `y`. -/
def Group.threadsOf (g : Group) (n : Nat) (y : Entry) : List Thread := (g.liveIn n).filter fun t => y.tids.contains t.tid

/-- The entries of a split warp that hold a thread of entry `x` (R136). -/
def Group.joinedBy (g : Group) (n : Nat) (w : Warp) (x : Entry) : List Entry :=
  (g.splitWarp n w).entries.filter fun e => e.tids.any x.tids.contains

/-! The greatest of some ages, 0 where there is none. -/

theorem le_foldl_max_zero {l : List Nat} {a : Nat} (ha : a ∈ l) : a ≤ l.foldl max 0 := by
  rw [List.foldl_max]
  exact Nat.le_trans (List.le_max?_getD_of_mem ha) (Nat.le_max_right ..)

theorem foldl_max_zero_mem (l : List Nat) : l.foldl max 0 = 0 ∨ l.foldl max 0 ∈ l := by
  rw [List.foldl_max, Nat.zero_max]
  cases hl : l.max? with
  | none => exact .inl rfl
  | some a => exact .inr (List.max?_mem hl)

section

variable {g : Group} {n : Nat} {w : Warp} {e x y : Entry} {a t : Thread} {i : Nat}

@[simp] theorem Entry.remainder_tids (y : Entry) (p : List Thread) : (y.remainder p).tids = p.map Thread.tid := by
  simp only [Entry.remainder]
  split <;> rfl

theorem Entry.remainder_age {ts : List Thread} (y : Entry) (ht : t ∈ ts) :
    (y.remainder (partOf ts t)).age = if t.key = y.key then y.age else 0 := by
  simp only [Entry.remainder, entryOf_partOf_key ht, beq_iff_eq]
  split <;> rfl

theorem Group.mem_threadsOf : a ∈ g.threadsOf n y ↔ a ∈ g.liveIn n ∧ a.tid ∈ y.tids := by
  simp [Group.threadsOf]

/-- Splitting leaves of each entry one part for each of its threads' keys. -/
theorem Group.remainder_mem_splitWarp (hy : y ∈ w.entries) (ha : a ∈ g.threadsOf n y) :
    y.remainder (partOf (g.threadsOf n y) a) ∈ (g.splitWarp n w).entries :=
  List.mem_append_left _ (List.mem_flatMap.mpr ⟨y, hy, List.mem_map_of_mem (mem_entryParts.mpr ⟨a, ha, rfl⟩)⟩)

/-- An entry of a split warp is new, at age 0, or remains of an old one. -/
theorem Group.age_or_remainder_of_mem_splitWarp (he : e ∈ (g.splitWarp n w).entries) :
    e.age = 0 ∨ ∃ y ∈ w.entries, ∃ t ∈ g.threadsOf n y, y.remainder (partOf (g.threadsOf n y) t) = e := by
  rcases List.mem_append.mp he with hold | hnew
  · obtain ⟨y, hy, hpart⟩ := List.mem_flatMap.mp hold
    obtain ⟨p, hp, rfl⟩ := List.mem_map.mp hpart
    obtain ⟨t, ht, rfl⟩ := mem_entryParts.mp hp
    exact .inr ⟨y, hy, t, ht, rfl⟩
  · obtain ⟨p, _, rfl⟩ := List.mem_map.mp hnew
    exact .inl rfl

/-- The age an entry of a split warp brings, of the old entry whose key it keeps. -/
theorem Group.age_of_mem_splitWarp (he : e ∈ (g.splitWarp n w).entries) (hi : i ∈ e.tids) :
    e.age = 0 ∨ ∃ y ∈ w.entries, ∃ a ∈ g.threadsOf n y, a.tid = i ∧ a.key = y.key ∧ e.age = y.age := by
  rcases Group.age_or_remainder_of_mem_splitWarp he with h0 | ⟨y, hy, t, ht, rfl⟩
  · exact .inl h0
  · rw [Entry.remainder_tids] at hi
    obtain ⟨a, ha, rfl⟩ := List.mem_map.mp hi
    obtain ⟨hay, hat⟩ := mem_partOf.mp ha
    rw [y.remainder_age ht]
    split
    case isTrue hk => exact .inr ⟨y, hy, a, hay, rfl, (Thread.key_of_entryKey hat).trans hk, rfl⟩
    case isFalse => exact .inl rfl

/-- An entry of a regrouped warp: the threads of one key, with the greatest age among the entries it joins (R136). -/
theorem Group.of_mem_regroupWarp (hx : x ∈ (g.regroupWarp n w).entries) :
    ∃ t ∈ g.liveIn n, x.tids = (partOf (g.liveIn n) t).map Thread.tid ∧ x.key = t.key ∧
      x.age = ((g.joinedBy n w x).map Entry.age).foldl max 0 := by
  obtain ⟨p, hp, rfl⟩ := List.mem_map.mp hx
  obtain ⟨t, ht, rfl⟩ := mem_entryParts.mp hp
  exact ⟨t, ht, rfl, entryOf_partOf_key ht _ _, rfl⟩

theorem Group.regroupWarp_covers (ha : a ∈ g.liveIn n) : ∃ x ∈ (g.regroupWarp n w).entries, a.tid ∈ x.tids :=
  ⟨_, List.mem_map_of_mem (mem_entryParts.mpr ⟨a, ha, rfl⟩), List.mem_map_of_mem (mem_partOf.mpr ⟨ha, rfl⟩)⟩

theorem Group.thread_of_mem_regroupWarp (hx : x ∈ (g.regroupWarp n w).entries) (hi : i ∈ x.tids) :
    ∃ a ∈ g.liveIn n, a.tid = i ∧ a.key = x.key := by
  obtain ⟨t, _, htids, hkey, _⟩ := Group.of_mem_regroupWarp hx
  rw [htids] at hi
  obtain ⟨a, ha, rfl⟩ := List.mem_map.mp hi
  obtain ⟨hlive, hat⟩ := mem_partOf.mp ha
  exact ⟨a, hlive, rfl, (Thread.key_of_entryKey hat).trans hkey.symm⟩

theorem Group.mem_joinedBy : e ∈ g.joinedBy n w x ↔ e ∈ (g.splitWarp n w).entries ∧ ∃ i ∈ e.tids, i ∈ x.tids := by
  simp [Group.joinedBy]

/-- Joining keeps the greater age: an entry is as old as any of its key whose thread it holds (R136). -/
theorem Group.age_le_regroupWarp (hx : x ∈ (g.regroupWarp n w).entries) (hy : y ∈ w.entries) (hix : i ∈ x.tids)
    (hiy : i ∈ y.tids) (hk : x.key = y.key) : y.age ≤ x.age := by
  obtain ⟨a, ha, rfl, hak⟩ := Group.thread_of_mem_regroupWarp hx hix
  obtain ⟨_, _, _, _, hage⟩ := Group.of_mem_regroupWarp hx
  have hay : a ∈ g.threadsOf n y := Group.mem_threadsOf.mpr ⟨ha, hiy⟩
  have hjoined : y.remainder (partOf (g.threadsOf n y) a) ∈ g.joinedBy n w x :=
    Group.mem_joinedBy.mpr ⟨Group.remainder_mem_splitWarp hy hay, a.tid,
      by rw [Entry.remainder_tids]; exact List.mem_map_of_mem (mem_partOf.mpr ⟨hay, rfl⟩), hix⟩
  have hle := le_foldl_max_zero (List.mem_map_of_mem (f := Entry.age) hjoined)
  rwa [y.remainder_age hay, if_pos (hak.trans hk), ← hage] at hle

/-- The age of an entry that is not 0 is that of an entry of its own key whose thread it holds (R133, R136). -/
theorem Group.regroupWarp_age_from (hn : ((g.liveIn n).map Thread.tid).Nodup) (hx : x ∈ (g.regroupWarp n w).entries) :
    x.age = 0 ∨ ∃ y ∈ w.entries, x.key = y.key ∧ (∃ i, i ∈ x.tids ∧ i ∈ y.tids) ∧ x.age = y.age := by
  obtain ⟨_, _, _, _, hage⟩ := Group.of_mem_regroupWarp hx
  rcases foldl_max_zero_mem ((g.joinedBy n w x).map Entry.age) with h0 | hmem
  · exact .inl (hage.trans h0)
  · obtain ⟨e, he, hxe⟩ := List.mem_map.mp hmem
    obtain ⟨hsplit, i, hie, hix⟩ := Group.mem_joinedBy.mp he
    rw [hage, ← hxe]
    refine (Group.age_of_mem_splitWarp hsplit hie).imp id ?_
    rintro ⟨y, hy, b, hb, rfl, hby, hey⟩
    obtain ⟨hblive, hbtid⟩ := Group.mem_threadsOf.mp hb
    obtain ⟨a, ha, hab, hax⟩ := Group.thread_of_mem_regroupWarp hx hix
    obtain rfl : a = b := eq_of_tid_eq hn ha hblive hab
    exact ⟨y, hy, hax.symm.trans hby, ⟨a.tid, hix, hbtid⟩, hey⟩

/-- The age of an entry is exactly that of an entry of its key whose thread it holds, or 0 where there is none. -/
theorem Group.regroupWarp_age (hn : ((g.liveIn n).map Thread.tid).Nodup) (hx : x ∈ (g.regroupWarp n w).entries) :
    (∃ y ∈ w.entries, x.key = y.key ∧ (∃ i, i ∈ x.tids ∧ i ∈ y.tids) ∧ x.age = y.age) ∨
      (x.age = 0 ∧ ∀ y ∈ w.entries, x.key = y.key → ∀ i ∈ x.tids, i ∉ y.tids) := by
  rcases Group.regroupWarp_age_from hn hx with h0 | hfrom
  · refine Classical.or_iff_not_imp_left.mpr fun hnone => ⟨h0, fun y hy hk i hix hiy => hnone ⟨y, hy, hk, ⟨i, hix, hiy⟩, ?_⟩⟩
    have hle := Group.age_le_regroupWarp hx hy hix hiy hk
    omega
  · exact .inl hfrom

end

theorem State.group?_mapGroups (s : State) (f : Nat → Group → Group) (g : Nat) :
    (s.mapGroups f).group? g = (s.group? g).map (f g) := find?_mapVals f s.groups g

theorem State.group?_regroup {s : State} {c g : Nat} {gr : Group} (hg : s.group? g = some gr) (hc : gr.core = c)
    (hst : gr.st.resident = true) : (s.regroup c).group? g = some gr.regroup := by
  rw [State.regroup, State.group?_mapGroups, hg, Option.map_some]
  simp [hc, hst]

theorem Group.find?_regroup_warps {gr : Group} {n : Nat} {w : Warp} (hw : Tbl.find? gr.warps n = some w) :
    Tbl.find? gr.regroup.warps n = some (gr.regroupWarp n w) :=
  (find?_mapVals _ gr.warps n).trans (congrArg (Option.map _) hw)

/-- Settles O58: `bestCand` gives a first candidate, and a warp's regrouped entries are its live threads, one entry a key,
each of the greatest age it joins. -/
theorem selectionRegroup : Obligations.SelectionRegroup := by
  refine ⟨fun l => ⟨bestCand_eq_none_iff l, fun c => bestCand_first⟩, fun c s g gr n w hg hcore hst hw => ?_⟩
  have hres : gr.st.resident = true := by rw [hst]; rfl
  refine ⟨_, gr.regroup, gr.regroupWarp n w, rfl, State.group?_regroup hg hcore hres, rfl, Group.find?_regroup_warps hw, rfl,
    fun a => Group.regroupWarp_covers, fun x hx i hi => ?threads, fun x hx => ?parts,
    fun x hx y hy ⟨i, hix, hiy⟩ => Group.age_le_regroupWarp hx hy hix hiy, fun hn x => Group.regroupWarp_age hn⟩
  case threads =>
    obtain ⟨a, ha, hai, _⟩ := Group.thread_of_mem_regroupWarp hx hi
    exact ⟨a, ha, hai⟩
  case parts =>
    obtain ⟨t, _, htids, _⟩ := Group.of_mem_regroupWarp hx
    exact ⟨t.entryKey, htids⟩

end Sys2Proof.Machine
end
